-- ==== Sys2Proof/Word.lean ====
section
/-! DEFINITION. The words the GC7110's manual treats as bits or as wrapping numbers. -/

namespace Sys2Proof

/-- One byte of a cycle frame (11 R172). -/
abbrev Byte := BitVec 8

/-- A 32-bit wrapping number: pitch numbers, sequence numbers, counters, the timebase. -/
abbrev U32 := BitVec 32

/-- An absolute position, 3600 × pitch number + angle, held modulo 3600 × 2^32 (01 section 1.3). -/
abbrev Pos := Fin 15461882265600

end Sys2Proof
end

