-- ==== Sys2Proof/Syntax.lean ====
section
/-! DEFINITION. The commands of the block: one constructor per row of spec/opcode_table.json, in the table's order. -/

namespace Sys2Proof

/-- The levels of the two encoder phases (01 section 1.3); true is the high level. -/
structure PhasePair where
  a : Bool
  b : Bool
  deriving DecidableEq, Repr

/-- What the part reads from its pins at the end of a reset: the levels of IN0..IN15 (01 R3), the encoder phase
pair (R10) and the six address pins (11 R176). -/
structure ResetPins where
  levels : BitVec 16
  phases : PhasePair
  address : BitVec 6
  deriving DecidableEq, Repr

/-- A command. A management request carries `args`, the payload bytes in use of its record (11 R172, R181): the
length of the list is the record's length field. `lock` is the Table Lock level present when the request is checked
(02 R37) and `reading` an unsaturated converter reading of the analog line concerned (01 R1). -/
inductive Instr where
  | positionSet (args : List Byte)
  | outputSet (args : List Byte)
  | machineTableWrite (args : List Byte) (lock : Bool)
  | machineTableRead (args : List Byte)
  | machineTableApply (args : List Byte) (lock : Bool) (levels : BitVec 16)
  | recipeEdit (args : List Byte) (lock : Bool)
  | recipeWrite (args : List Byte) (lock : Bool)
  | recipeCheck (args : List Byte)
  | recipeClear (args : List Byte) (lock : Bool)
  | recipeRead (args : List Byte)
  | checkCompletion
  | clearCompletion
  | transitRead (args : List Byte)
  | channelResultRead (args : List Byte)
  | orderQueue (args : List Byte)
  | orderRead (args : List Byte)
  | orderAbort (args : List Byte)
  | orderResume (args : List Byte)
  | feedHold (args : List Byte)
  | feedRelease (args : List Byte)
  | pullSample (args : List Byte)
  | closeBox (args : List Byte)
  | boxLogRead (args : List Byte)
  | lineStart (args : List Byte)
  | lineDrain (args : List Byte)
  | lineResume (args : List Byte)
  | linePurge (args : List Byte)
  | clearStatus (args : List Byte) (reading : Int)
  | resetFull (args : List Byte)
  | fullReset (pins : ResetPins)
  | powerOnReset (pins : ResetPins)
  | countersRead (args : List Byte)
  | countersSnapshot (args : List Byte)
  | countersSnapshotReset (args : List Byte)
  | snapshotRead (args : List Byte)
  | noticeRead (args : List Byte)
  | mgmtStatus (args : List Byte) (lock : Bool)
  | unknownRequest (kind : Byte) (args : List Byte)
  | frameArrival (bytes : List Byte)
  | watchdogExpiry
  | encoderStep (pair : PhasePair)
  | speedWindowEnd
  | edgeEvent (line : Fin 16) (level : Bool)
  | gumPressureLow (reading : Int)
  | feedEvent
  | captureArm
  | windowClose
  | onEvent (seq : U32) (ch : Fin 12) (entry dot : Nat)
  | offEvent (seq : U32) (ch : Fin 12) (entry dot : Nat)
  | watchOpen (ch : Fin 8)
  | watchEnd (ch : Fin 8)
  | inspectionWindowOpen (ch : Fin 8) (seq : U32)
  | inspectionWindowEnd (ch : Fin 8) (seq : U32)
  | sampleEvent (ch : Fin 8) (seq : U32) (reading : Int)
  | gateEvent (seq : U32)
  | rejectGateEnd
  | deliveryEvent (seq : U32)
  | separatorPulseEnd
  | resetPinHeld
  deriving DecidableEq, Repr

end Sys2Proof
end

