-- ==== Sys2Proof/Config.lean ====
section
/-! DEFINITION. The free values: what the manual leaves open and an event cannot do without. None has a body,
so no proof can see a value of one. -/

namespace Sys2Proof

/-- FREE VALUE (log entry 3). Which of several events fired at one position the part takes next, when it takes
them on its own; indexed by a counter of State, so that each choice is fresh. The manual gives no order (00). -/
opaque Config.eventChoice : Nat → Nat

/-- FREE VALUE (log entry 10). What an analog line reads when the part samples it on its own, with no command that
carries the reading; indexed by the same counter. -/
opaque Config.analogReading : Nat → Int

/-- FREE VALUE (log entry 17). Whether a BAD_ARG reply names the first of two fields that each lie in their own
range and fail only their relation (02 R30, R31); otherwise it names the second. -/
opaque Config.blamesFirst : Nat → Nat → Bool

end Sys2Proof
end

