-- ==== Sys2Proof/Machine/State.lean ====
section
/-! DEFINITION. The state of the GC7110 as plain data, block by block (00, Blocks), and its values after reset. -/

namespace Sys2Proof.Machine

/-! ## Named values -/

/-- Run states, in the order of 09 R151. -/
inductive RunState where
  | idle | running | draining | halted
  deriving DecidableEq, Repr

/-- Feed states, in the order of 07 R120. -/
inductive FeedState where
  | noOrder | feeding | suspended | changeover
  deriving DecidableEq, Repr

/-- Register states, in the order of 04 R57. -/
inductive RegState where
  | off | seek | locked | coast | lost
  deriving DecidableEq, Repr

/-- Recipe slot states, in the order of 02 section 2.2. -/
inductive SlotState where
  | empty | editing | checking | usable | clearing
  deriving DecidableEq, Repr

/-- Validity of the working Machine Table (02 R20). -/
inductive Validity where
  | invalid | valid
  deriving DecidableEq, Repr

/-- Application channel kinds, in the order of 02 R22. -/
inductive AppKind where
  | windowCut | patch | gum | aux
  deriving DecidableEq, Repr

/-- Inspection channel kinds, in the order of 02 R22. -/
inductive InspKind where
  | presence | span | count | level
  deriving DecidableEq, Repr

/-- Output line functions (01 section 1.2). -/
inductive OutFunction where
  | none
  | manual
  | channel (k : Fin 12)
  | feedGate
  | rejectGate
  | separator
  | stopRequest
  deriving DecidableEq, Repr

/-- Output polarities (01 R4). -/
inductive Polarity where
  | activeHigh | activeLow
  deriving DecidableEq, Repr

/-- Output safe modes (01 R6). -/
inductive SafeMode where
  | release | hold
  deriving DecidableEq, Repr

/-- Where takes come from (08 R145). -/
inductive TakeSource where
  | ring
  | line (l : Fin 16)
  deriving DecidableEq, Repr

/-- Defect classes, in the order of 03 R41. -/
inductive DefectClass where
  | register | window | gum | fold | thickness | sample | aborted
  deriving DecidableEq, Repr

/-- Faults, in the order of 09 R151. -/
inductive FaultKind where
  | encoder | reverse | ring | masterStop | tracking | gumSupply
  deriving DecidableEq, Repr

/-- Stages of a blank record (03 R41). -/
inductive Stage where
  | opened | committed
  deriving DecidableEq, Repr

/-- Register verdicts (03 R41). -/
inductive Verdict where
  | inRegister | outOfRegister
  deriving DecidableEq, Repr

/-- Lanes of the Order List (07 R115). -/
inductive Lane where
  | normal | priority
  deriving DecidableEq, Repr

/-- Order states (07 R115). -/
inductive OrderState where
  | queued | active | feedDone
  deriving DecidableEq, Repr

/-- End states of an order, in the order of the notice table of 10 section 10.3. -/
inductive EndState where
  | complete | short | aborted
  deriving DecidableEq, Repr

/-- Reasons of a box close, in the order of 08 R143. -/
inductive CloseReason where
  | full | final | orderChange | request
  deriving DecidableEq, Repr

/-- Judgements of an inspection channel, in the order of 06 R109. -/
inductive Judgement where
  | pass | fail | lost | unexpected
  deriving DecidableEq, Repr

/-- Long operations (02 section 2.3). -/
inductive LongOp where
  | recipeCheck | recipeClear
  deriving DecidableEq, Repr

/-- The twenty counters, in the order of 10 section 10.1. -/
inductive Counter where
  | cutTotal | diverted | accepted | deliveredGood | rejected
  | rejectRegister | rejectWindow | rejectGum | rejectFold | rejectThickness
  | rejectSample | rejectAborted | rejectSurplus | rejectNoRoom
  | lost | passedMasked | boxesClosed | marksMissing | gumInhibited | trimClamped
  deriving DecidableEq, Repr

/-- Result codes, in the order of 11 section 11.4. -/
inductive ResultCode where
  | ok | accepted | busy | state | badArg | locked | inUse | notUsable | full | duplicate
  | notHeld | empty | badTable | badRecipe | unknown
  deriving DecidableEq, Repr

/-! ## Machine Table (02 R22) -/

structure General where
  feedAngle : Nat
  gateOffset : Nat
  gateAngle : Nat
  deliveryOffset : Nat
  deliveryAngle : Nat
  separatorLength : Nat
  outfeedHold : Nat
  takeSource : TakeSource
  watchdogMs : Nat
  deriving DecidableEq, Repr

structure GumSettings where
  line : Option (Fin 16)
  threshold : Nat
  hysteresis : Nat
  deriving DecidableEq, Repr

structure AppSettings where
  enabled : Bool
  kind : AppKind
  station : Nat
  line : Fin 16
  onLatency : Nat
  offLatency : Nat
  deriving DecidableEq, Repr

structure InspSettings where
  enabled : Bool
  kind : InspKind
  station : Nat
  line : Fin 16
  deriving DecidableEq, Repr

structure OutSettings where
  function : OutFunction
  polarity : Polarity
  safeMode : SafeMode
  deriving DecidableEq, Repr

/-- One copy of the Machine Table. Bit i of `modes` is set when IN i is ANALOG. -/
structure MachineTable where
  general : General
  gum : GumSettings
  apps : Vector AppSettings 12
  insps : Vector InspSettings 8
  modes : BitVec 16
  outs : Vector OutSettings 16
  deriving DecidableEq, Repr

/-- One item of the Machine Table, as MACHINE_TABLE_WRITE carries it (02 R21). -/
inductive TableItem where
  | general (g : General)
  | gum (g : GumSettings)
  | application (k : Fin 12) (a : AppSettings)
  | inspection (j : Fin 8) (c : InspSettings)
  | inputModes (m : BitVec 16)
  | output (i : Fin 16) (o : OutSettings)
  deriving DecidableEq, Repr

/-! ## Recipes (02 R26 to R31) -/

structure Header where
  formatClass : Nat
  name : List Byte
  deriving DecidableEq, Repr

structure RegisterSettings where
  enabled : Bool
  m : Nat
  w : Nat
  gain : Nat
  smax : Nat
  tlim : Nat
  tol : Nat
  kLock : Nat
  kLost : Nat
  markLine : Fin 16
  deriving DecidableEq, Repr

structure CamEntry where
  channel : Fin 12
  on : Nat
  off : Nat
  dots : Nat
  dotLength : Nat
  dotSpacing : Nat
  skip : Bool
  deriving DecidableEq, Repr

structure InspectionSetting where
  enabled : Bool
  on : Nat
  off : Nat
  low : Nat
  high : Nat
  cls : DefectClass
  deriving DecidableEq, Repr

/-- The content of a slot. Bits 0 to 4 of `rejectMask` stand for REGISTER, WINDOW, GUM, FOLD, THICKNESS. -/
structure Recipe where
  header : Header
  register : RegisterSettings
  cams : List CamEntry
  settings : Vector InspectionSetting 8
  rejectMask : BitVec 5
  deriving DecidableEq, Repr

/-- One item of a recipe, as RECIPE_WRITE carries it (02 R28). -/
inductive RecipeItem where
  | header (h : Header)
  | register (r : RegisterSettings)
  | cam (i : Nat) (e : CamEntry)
  | camLength (n : Nat)
  | inspection (j : Fin 8) (c : InspectionSetting)
  | rejectMask (m : BitVec 5)
  deriving DecidableEq, Repr

structure Slot where
  state : SlotState
  refs : Nat
  recipe : Recipe
  deriving DecidableEq, Repr

/-! ## Position Unit -/

/-- What a scheduled event is, and so which block owns it (01 section 1.4). -/
inductive Scheduled where
  | appOn (seq : U32) (ch : Fin 12) (entry dot : Nat)
  | appOff (seq : U32) (ch : Fin 12) (entry dot : Nat)
  | inspOpen (ch : Fin 8) (seq : U32)
  | inspEnd (ch : Fin 8) (seq : U32)
  | inspSample (ch : Fin 8) (seq : U32)
  | gate (seq : U32)
  | delivery (seq : U32)
  | rejectGateEnd
  | separatorEnd
  deriving DecidableEq, Repr

/-- A pending scheduled event (01 R15). `nominal` is the nominal position of an application event and `floor` the
lower bound of an off event (05 R79, R81); for the other events `nominal` is `pos`. -/
structure Pending where
  pos : Pos
  event : Scheduled
  nominal : Pos
  floor : Option Pos
  deriving DecidableEq, Repr

/-- The recurring events (01 section 1.4). -/
inductive Recurring where
  | feed
  | captureArm
  | windowClose
  | watchOpen (ch : Fin 8)
  | watchEnd (ch : Fin 8)
  deriving DecidableEq, Repr

/-- A recurring event that has fired at `pos` and is not yet taken (01 R16). -/
structure Fired where
  event : Recurring
  pos : Pos
  deriving DecidableEq, Repr

structure PositionUnit where
  hwm : Pos
  depth : Nat
  phases : PhasePair
  timebase : U32
  windowStart : U32
  windowCount : Nat
  speed : Nat
  schedule : List Pending
  due : List Fired
  deriving DecidableEq, Repr

/-! ## Line Interface -/

structure OutLine where
  function : OutFunction
  polarity : Polarity
  safeMode : SafeMode
  manual : Bool
  held : Option Bool
  deriving DecidableEq, Repr

/-- The line configuration in force with the sampled levels (01 R1 to R3) and the output lines. Bit i of `modes`
is set when IN i is ANALOG; bit i of `levels` is set when IN i is active. -/
structure LineInterface where
  modes : BitVec 16
  levels : BitVec 16
  outs : Vector OutLine 16
  deriving DecidableEq, Repr

/-! ## Table Store -/

structure TableStore where
  working : MachineTable
  inForce : MachineTable
  validity : Validity
  slots : Vector Slot 8
  deriving DecidableEq, Repr

/-! ## Tracking Unit -/

/-- A blank record (03 R41). Defect set bits follow `DefectClass`, channel set bits the channel number. -/
structure Record where
  seq : U32
  cutPitch : U32
  tag : Nat
  slot : Fin 8
  stage : Stage
  verdict : Option Verdict
  error : Option Int
  defects : BitVec 7
  applied : BitVec 12
  suppressed : BitVec 12
  values : Vector (Option Nat) 8
  deriving DecidableEq, Repr

structure TrackingUnit where
  records : List Record
  nextSeq : U32
  deriving DecidableEq, Repr

/-! ## Register Unit -/

/-- The open capture window (04 R57, R61). -/
structure CaptureWindow where
  pitch : U32
  start : Pos
  finish : Pos
  m : Nat
  w : Nat
  line : Fin 16
  capture : Option Nat
  deriving DecidableEq, Repr

structure LastCapture where
  pitch : U32
  error : Int
  outside : Bool
  deriving DecidableEq, Repr

structure RegisterUnit where
  state : RegState
  good : Nat
  outliers : Nat
  misses : Nat
  trim : Int
  window : Option CaptureWindow
  last : Option LastCapture
  source : Option (Fin 8)
  deriving DecidableEq, Repr

/-! ## Application Unit -/

/-- What an APPLYING channel serves (05 R78). -/
structure Serving where
  seq : U32
  entry : Nat
  dot : Nat
  firedAt : Pos
  deriving DecidableEq, Repr

/-- A channel record with its leads (05 R78, R80): IDLE is `serving = none`. -/
structure AppChannel where
  serving : Option Serving
  onLead : Nat
  offLead : Nat
  deriving DecidableEq, Repr

/-- A blank entry (05 R78). Its pending events stand in the Position Unit's schedule under its sequence number. -/
structure BlankEntry where
  seq : U32
  cutPitch : U32
  gumInhibited : Bool
  deriving DecidableEq, Repr

structure ApplicationUnit where
  channels : Vector AppChannel 12
  blanks : List BlankEntry
  deriving DecidableEq, Repr

/-! ## Inspection Unit -/

structure Watch where
  pitch : U32
  seen : Bool
  deriving DecidableEq, Repr

structure Measurement where
  seq : U32
  cutPitch : U32
  start : Pos
  finish : Pos
  value : Nat
  segment : Option Pos
  deriving DecidableEq, Repr

/-- A result record (06 R109); `seq` is absent for UNEXPECTED. -/
structure InspResult where
  seq : Option U32
  cutPitch : U32
  value : Nat
  judgement : Judgement
  deriving DecidableEq, Repr

/-- The record of one inspection channel (06 R97). -/
structure InspChannel where
  watch : Option Watch
  measurement : Option Measurement
  result : Option InspResult
  ready : Bool
  overrun : Bool
  losses : Nat
  deriving DecidableEq, Repr

/-! ## Order Unit -/

/-- An order (07 R115). `id` is the model's identity number: no two orders ever queued share it (log entry 19). -/
structure Order where
  id : Nat
  tag : Nat
  lane : Lane
  slot : Fin 8
  quantity : Nat
  boxQuantity : Nat
  spare : Nat
  early : Nat
  holdAfter : Bool
  quiet : Bool
  state : OrderState
  delivered : Nat
  boxesClosed : Nat
  earlySent : Bool
  aborted : Bool
  deriving DecidableEq, Repr

/-- `list` holds both lanes in the order of queuing; a lane is its orders in that order (07 R114). -/
structure OrderUnit where
  list : List Order
  feedState : FeedState
  forcedHold : Bool
  countdown : Nat
  runningClass : Option Nat
  feedGate : Bool
  nextId : Nat
  deriving DecidableEq, Repr

/-! ## Delivery Unit -/

/-- A box record (08 R135); `order` is the identity number of the order it was opened for. -/
structure Box where
  order : Nat
  tag : Nat
  number : Nat
  count : Nat
  boxQuantity : Nat
  quiet : Bool
  deriving DecidableEq, Repr

/-- The projected box (08 R135). -/
structure ProjectedBox where
  order : Nat
  tag : Nat
  count : Nat
  deriving DecidableEq, Repr

/-- A Box Log entry (08 R147). -/
structure BoxEntry where
  seq : U32
  tag : Nat
  number : Nat
  count : Nat
  reason : CloseReason
  pitch : U32
  deriving DecidableEq, Repr

structure DeliveryUnit where
  openBox : Option Box
  projected : Option ProjectedBox
  committedCloses : Nat
  waiting : Nat
  log : List BoxEntry
  nextBox : U32
  rejectGate : Bool
  separator : Bool
  deriving DecidableEq, Repr

/-! ## Line Control, Counter Block, Notice Queue, Management Unit, Ring Port -/

/-- A full reset asked for by RESET_FULL (09 R162): none, asked for by the frame still passing, or due. -/
inductive ResetRequest where
  | none | inFrame | due
  deriving DecidableEq, Repr

/-- Fault set bits follow `FaultKind`. -/
structure LineControl where
  run : RunState
  faults : BitVec 6
  reset : ResetRequest
  deriving DecidableEq, Repr

structure CounterBlock where
  live : Vector U32 20
  buffer : Vector U32 20
  valid : Bool
  deriving DecidableEq, Repr

/-- Where a check failed: the check, the item kind code and index, the field's position (11 R172). -/
structure CheckFailure where
  check : Nat
  kind : Nat
  index : Nat
  field : Nat
  deriving DecidableEq, Repr

/-- Notices, in the order of 10 section 10.3. FEED_WAIT carries SUSPENDED (false) or CHANGEOVER (true). -/
inductive Notice where
  | orderEnd (tag : Nat) (final : EndState) (delivered boxes shortfall : Nat)
  | earlyEnd (tag remaining : Nat)
  | boxClosed (seq : U32)
  | feedWait (changeover : Bool) (next : Nat)
  | fault (cause : FaultKind)
  | opDone (op : LongOp) (slot : Fin 8) (result : ResultCode) (failure : Option CheckFailure)
  | takeSpurious
  deriving DecidableEq, Repr

structure NoticeQueue where
  queue : List Notice
  overflow : Bool
  deriving DecidableEq, Repr

/-- A long operation in flight (02 R36); `taken` is the timebase when it was taken and `carried` says that the
frame that carried its request is still passing through the part (11 R182). -/
structure InFlight where
  op : LongOp
  slot : Fin 8
  taken : U32
  carried : Bool
  deriving DecidableEq, Repr

/-- The last long-operation result (02 R36). -/
structure OpResult where
  op : LongOp
  slot : Fin 8
  result : ResultCode
  failure : Option CheckFailure
  deriving DecidableEq, Repr

/-- READY is `inFlight = none` (02 R36). -/
structure ManagementUnit where
  inFlight : Option InFlight
  last : Option OpResult
  deriving DecidableEq, Repr

/-- The Ring Port (11 R176 to R183). `watchdog` is the timebase of the last restart while the watchdog runs.
`passage` is the frame now passing, `sent` the last frame forwarded and `cycle` the cycle number of the last valid
cycle frame acted on. -/
structure RingPort where
  node : BitVec 6
  watchdogMs : Nat
  watchdog : Option U32
  validFrame : Bool
  lineStop : Bool
  takeCount : Option Byte
  passage : Option (List Byte)
  sent : List Byte
  cycle : Nat
  deriving DecidableEq, Repr

/-- A reply: result code and payload in use (11 R181). -/
structure Reply where
  result : ResultCode
  payload : List Byte
  deriving DecidableEq, Repr

/-! ## The whole state -/

structure State where
  pos : PositionUnit
  lines : LineInterface
  store : TableStore
  track : TrackingUnit
  reg : RegisterUnit
  app : ApplicationUnit
  insp : Vector InspChannel 8
  orders : OrderUnit
  deliv : DeliveryUnit
  line : LineControl
  counters : CounterBlock
  notices : NoticeQueue
  mgmt : ManagementUnit
  ring : RingPort
  resetHeld : Bool
  reply : Option Reply
  freeIndex : Nat
  pending : List Instr
  deriving DecidableEq, Repr

/-- Faults of the model: none. The spec's own faults latch in the fault set and the part goes on (09 R156), and no
command of the table leaves the part without an effect, so no command raises one. -/
inductive Fault where
  deriving DecidableEq, Repr

/-- Refusals of the model. `notModelled` is raised only by an arm of `exec` whose command has no meaning yet (safe:
the model stops where the part goes on); no arm raises it. -/
inductive Refusal where
  | notModelled (mnemonic : String)
  deriving DecidableEq, Repr

/-! ## Values after reset -/

/-- Reset values of GENERAL (02 R22). -/
def General.initial : General where
  feedAngle := 0
  gateOffset := 0
  gateAngle := 0
  deliveryOffset := 0
  deliveryAngle := 0
  separatorLength := 0
  outfeedHold := 0
  takeSource := .ring
  watchdogMs := 0

/-- Reset values of the Machine Table (02 R22). -/
def MachineTable.initial : MachineTable where
  general := General.initial
  gum := ⟨none, 0, 0⟩
  apps := Vector.replicate 12 ⟨false, .windowCut, 0, 0, 0, 0⟩
  insps := Vector.replicate 8 ⟨false, .presence, 0, 0⟩
  modes := 0#16
  outs := Vector.replicate 16 ⟨.none, .activeHigh, .release⟩

/-- Initial content of a recipe slot (02 R26). -/
def Recipe.initial : Recipe where
  header := ⟨0, List.replicate 12 32#8⟩
  register := ⟨false, 0, 0, 0, 0, 0, 0, 0, 0, 0⟩
  cams := []
  settings := Vector.replicate 8 ⟨false, 0, 0, 0, 0, .register⟩
  rejectMask := 0#5

/-- Values of an inspection channel after reset (06 R97). -/
def InspChannel.initial : InspChannel := ⟨none, none, none, false, false, 0⟩

/-- Values of an output line after reset (01 R9). -/
def OutLine.initial : OutLine := ⟨.none, .activeHigh, .release, false, none⟩

/-- With node address 0 or 63 the part repeats frames and its watchdog does not run (11 R176). -/
def repeatsAt (node : BitVec 6) : Bool := node == 0#6 || node == 63#6

/-- The values of every block after power-on reset and full reset, given what the pins show at its end: 01 R3, R9,
R19; 02 R20, R26, R36; 03 R56; 04 R57; 05 R95; 06 R113; 07 R134; 08 R135; 09 R151, R162; 10 R163, R169; 11 R183. -/
def State.resetWith (pins : ResetPins) : State where
  pos := ⟨0, 0, pins.phases, 0#32, 0#32, 0, 0, [], []⟩
  lines := ⟨0#16, pins.levels, Vector.replicate 16 OutLine.initial⟩
  store := ⟨MachineTable.initial, MachineTable.initial, .invalid, Vector.replicate 8 ⟨.empty, 0, Recipe.initial⟩⟩
  track := ⟨[], 1#32⟩
  reg := ⟨.off, 0, 0, 0, 0, none, none, none⟩
  app := ⟨Vector.replicate 12 ⟨none, 0, 0⟩, []⟩
  insp := Vector.replicate 8 InspChannel.initial
  orders := ⟨[], .noOrder, false, 0, none, false, 0⟩
  deliv := ⟨none, none, 0, 0, [], 1#32, false, false⟩
  line := ⟨.idle, 0#6, .none⟩
  counters := ⟨Vector.replicate 20 0#32, Vector.replicate 20 0#32, false⟩
  notices := ⟨[], false⟩
  mgmt := ⟨none, none⟩
  ring := ⟨pins.address, 20, if repeatsAt pins.address then none else some 0#32, false, false, none, none, [], 0⟩
  resetHeld := false
  reply := none
  freeIndex := 0
  pending := []

/-- The pins that `State.reset` is read from (log entry 1, DESIGN CHOICE): every input line inactive, both encoder
phases low, node address 5, the address of 11's worked sequence. -/
def resetPins : ResetPins := ⟨0#16, ⟨false, false⟩, 5#6⟩

/-- The machine right after reset. -/
def State.reset : State := State.resetWith resetPins

end Sys2Proof.Machine
end

