-- ==== Sys2Proof/Machine/Position.lean ====
section
/-! DEFINITION. Positions, the schedule of station events and fired recurring events (01 sections 1.3, 1.4). -/

namespace Sys2Proof.Machine

/-- Position 3600 × p + a (00, Machine position). -/
def posAt (p : U32) (a : Nat) : Pos := Fin.ofNat _ (3600 * p.toNat + a)

/-- The pitch part of a position. -/
def posPitch (x : Pos) : U32 := BitVec.ofNat 32 (x.val / 3600)

/-- The angle part of a position. -/
def posAngle (x : Pos) : Nat := x.val % 3600

/-- The signed difference from `x` to `y`, modulo 3600 × 2^32 (00, Machine position). -/
def posDist (x y : Pos) : Int :=
  let d := (y - x).val
  if 2 * d < 15461882265600 then (d : Int) else (d : Int) - 15461882265600

/-- `x` moved on by `n` counts. -/
def posAdd (x : Pos) (n : Nat) : Pos := x + Fin.ofNat _ n

/-- `x` moved back by `n` counts. -/
def posSub (x : Pos) (n : Nat) : Pos := x - Fin.ofNat _ n

/-- The later of two positions. -/
def posLater (x y : Pos) : Pos := if posDist x y > 0 then y else x

/-- The pitch number: the pitch part of the high-water mark (01 section 1.3). -/
def pitchNumber (s : State) : U32 := posPitch s.pos.hwm

/-- The current absolute position: the high-water mark minus the reverse depth (01 section 1.3). -/
def currentPos (s : State) : Pos := posSub s.pos.hwm s.pos.depth

/-- The angle: the angle part of the current absolute position (01 section 1.3). -/
def currentAngle (s : State) : Nat := posAngle (currentPos s)

/-- A scheduled event is due when its position is not beyond the high-water mark (01 R15). -/
def isDue (hwm : Pos) (e : Pending) : Bool := decide (posDist hwm e.pos ≤ 0)

/-- Ask for a scheduled event (01 R15). An event whose position is not beyond the high-water mark is due at once. -/
def schedule (e : Pending) (s : State) : State :=
  { s with pos := { s.pos with schedule := s.pos.schedule ++ [e] } }

/-- A scheduled event that is no application event. -/
def plainEvent (x : Pos) (e : Scheduled) : Pending := ⟨x, e, x, none⟩

/-- Withdraw every pending event that `p` picks out (01 R15). -/
def withdraw (p : Scheduled → Bool) (s : State) : State :=
  { s with pos := { s.pos with schedule := s.pos.schedule.filter (fun e => !p e.event) } }

/-- Take the due event `e` out of the schedule: the event as it was pending, and the state without it. None where
`e` is not pending or not yet due: then it has not fired (01 R15). -/
def takeScheduled (e : Scheduled) (s : State) : Option (Pending × State) :=
  match s.pos.schedule.find? (fun q => q.event == e && isDue s.pos.hwm q) with
  | none => none
  | some q => some (q, { s with pos := { s.pos with schedule := s.pos.schedule.erase q } })

/-- Take the oldest firing of a recurring event: its position, and the state without it (01 R16). -/
def takeFired (e : Recurring) (s : State) : Option (Pos × State) :=
  match s.pos.due.find? (fun q => q.event == e) with
  | none => none
  | some q => some (q.pos, { s with pos := { s.pos with due := s.pos.due.erase q } })

/-- Withdraw fired recurring events that `p` picks out: their owning block has stopped or moved them. -/
def dropFired (p : Recurring → Bool) (s : State) : State :=
  { s with pos := { s.pos with due := s.pos.due.filter (fun q => !p q.event) } }

/-- The blank a scheduled event belongs to, if any. -/
def eventBlank : Scheduled → Option U32
  | .appOn q _ _ _ => some q
  | .appOff q _ _ _ => some q
  | .inspOpen _ q => some q
  | .inspEnd _ q => some q
  | .inspSample _ q => some q
  | .gate q => some q
  | .delivery q => some q
  | .rejectGateEnd => none
  | .separatorEnd => none

/-- On and off events of the Application Unit. -/
def isAppEvent : Scheduled → Bool
  | .appOn _ _ _ _ => true
  | .appOff _ _ _ _ => true
  | _ => false

/-- Window opens, window ends and samples of the Inspection Unit. -/
def isInspEvent : Scheduled → Bool
  | .inspOpen _ _ => true
  | .inspEnd _ _ => true
  | .inspSample _ _ => true
  | _ => false

/-- Gate and delivery events of the Delivery Unit. -/
def isDeliveryEvent : Scheduled → Bool
  | .gate _ => true
  | .delivery _ => true
  | _ => false

/-- The re-base on a cleared REVERSE (01 R13). -/
def rebase (s : State) : State :=
  { s with pos := { s.pos with hwm := currentPos s, depth := 0 } }

end Sys2Proof.Machine
end

