-- ==== Sys2Proof/Machine/Flags.lean ====
section
/-! DEFINITION. The part's sets of flags: fault set, defect sets, channel sets, hold-reason set, and the lookups
that their rules rest on. -/

namespace Sys2Proof.Machine

/-! ## Fixed-size tables -/

/-- Replace entry `i`. -/
def put {α : Type} {n : Nat} (v : Vector α n) (i : Fin n) (x : α) : Vector α n := v.set i.val x i.isLt

/-- Entry `i`. -/
def getAt {α : Type} {n : Nat} (v : Vector α n) (i : Fin n) : α := v.get i

/-- All sixteen line numbers. -/
def allLines : List (Fin 16) := [0, 1, 2, 3, 4, 5, 6, 7, 8, 9, 10, 11, 12, 13, 14, 15]

/-- All twelve application channels. -/
def allApps : List (Fin 12) := [0, 1, 2, 3, 4, 5, 6, 7, 8, 9, 10, 11]

/-- All eight inspection channels. -/
def allInsps : List (Fin 8) := [0, 1, 2, 3, 4, 5, 6, 7]

/-- The sixteen-line set of the lines that `p` picks out, bit i for line i. -/
def lineSet (p : Fin 16 → Bool) : BitVec 16 :=
  allLines.foldl (fun acc i => if p i then acc ||| BitVec.twoPow 16 i.val else acc) 0#16

/-! ## Fault set (09 R151) -/

/-- Bit number of a fault in the fault set. -/
def faultBit : FaultKind → Nat
  | .encoder => 0
  | .reverse => 1
  | .ring => 2
  | .masterStop => 3
  | .tracking => 4
  | .gumSupply => 5

/-- Whether a fault is latched. -/
def hasFault (s : State) (f : FaultKind) : Bool := s.line.faults.getLsbD (faultBit f)

/-- Whether a fault is halting (09 section 9.2). -/
def isHalting : FaultKind → Bool
  | .gumSupply => false
  | _ => true

/-- Whether the fault set holds a halting fault (09 R152). -/
def anyHalting (s : State) : Bool := (s.line.faults &&& 0b011111#6) != 0#6

/-! ## Defect sets and channel sets (03 R41, R49) -/

/-- Bit number of a defect class in a defect set. -/
def defectBit : DefectClass → Nat
  | .register => 0
  | .window => 1
  | .gum => 2
  | .fold => 3
  | .thickness => 4
  | .sample => 5
  | .aborted => 6

/-- The defect set that holds one class. -/
def oneDefect (c : DefectClass) : BitVec 7 := BitVec.twoPow 7 (defectBit c)

/-- Whether a defect set holds a class. -/
def hasDefect (d : BitVec 7) (c : DefectClass) : Bool := d.getLsbD (defectBit c)

/-- The channel set that holds one channel. -/
def oneChannel (k : Fin 12) : BitVec 12 := BitVec.twoPow 12 k.val

/-- The recipe of a slot. -/
def recipeOf (s : State) (k : Fin 8) : Recipe := (getAt s.store.slots k).recipe

/-- The effective reject set of a slot: its reject mask with SAMPLE and ABORTED (03 R49). -/
def effectiveReject (s : State) (k : Fin 8) : BitVec 7 :=
  (recipeOf s k).rejectMask.zeroExtend 7 ||| oneDefect .sample ||| oneDefect .aborted

/-- The classes of a record that are in its effective reject set. -/
def rejectClasses (s : State) (r : Record) : BitVec 7 := r.defects &&& effectiveReject s r.slot

/-- Whether a record holds a class of its effective reject set. -/
def isRejectable (s : State) (r : Record) : Bool := rejectClasses s r != 0#7

/-- Whether a record is hopeful (03 R49). -/
def isHopeful (s : State) (r : Record) : Bool := r.stage == .opened && !isRejectable s r

/-! ## Orders (07 R114, R116) -/

/-- The record of a sequence number. -/
def findRecord (s : State) (q : U32) : Option Record := s.track.records.find? (fun r => r.seq == q)

/-- The order of a tag. -/
def findOrder (s : State) (t : Nat) : Option Order := s.orders.list.find? (fun o => o.tag == t)

/-- The ACTIVE order. -/
def activeOrder (s : State) : Option Order := s.orders.list.find? (fun o => o.state == .active)

/-- The next order: the oldest QUEUED order of the PRIORITY lane, else of the NORMAL lane (07 R114). -/
def nextOrder (s : State) : Option Order :=
  match s.orders.list.find? (fun o => o.state == .queued && o.lane == .priority) with
  | some o => some o
  | none => s.orders.list.find? (fun o => o.state == .queued && o.lane == .normal)

/-- committed(O) of the order with tag `t` (03 R49). -/
def committedOf (s : State) (t : Nat) : Nat :=
  s.track.records.countP (fun r => r.tag == t && r.stage == .committed)

/-- hopeful(O) of the order with tag `t` (03 R49). -/
def hopefulOf (s : State) (t : Nat) : Nat :=
  s.track.records.countP (fun r => r.tag == t && isHopeful s r)

/-- passed(O) (07 R116). -/
def passedOf (s : State) (o : Order) : Nat := o.delivered + committedOf s o.tag

/-- The format class of an order (07 R115). -/
def formatClassOf (s : State) (o : Order) : Nat := (recipeOf s o.slot).header.formatClass

/-- Whether the next order is startable (07 R116). -/
def isStartable (s : State) : Bool :=
  match activeOrder s, nextOrder s with
  | some a, some n => formatClassOf s n == formatClassOf s a && !a.holdAfter
  | _, _ => false

/-- target(O) of the ACTIVE order (07 R116). -/
def targetOf (s : State) (o : Order) : Nat := if isStartable s then o.quantity + o.spare else o.quantity

/-- need(O) of the ACTIVE order (07 R116). -/
def needOf (s : State) (o : Order) : Int :=
  (targetOf s o : Int) - passedOf s o - hopefulOf s o.tag

/-! ## Hold reasons (07 R123) -/

/-- Whether a recipe needs gum: a cam entry names a GUM channel of the table in force (05 R93). -/
def needsGum (s : State) (k : Fin 8) : Bool :=
  (recipeOf s k).cams.any (fun e => (getAt s.store.inForce.apps e.channel).kind == .gum)

/-- OUTFEED is present while the waiting count is at or above H, with H at least 1 (07 R123). -/
def holdsOutfeed (s : State) : Bool :=
  decide (1 ≤ s.store.inForce.general.outfeedHold) && decide (s.store.inForce.general.outfeedHold ≤ s.deliv.waiting)

/-- GUM_SUPPLY is present while the fault is latched and the ACTIVE order's recipe needs gum (05 R93). -/
def holdsGum (s : State) : Bool :=
  hasFault s .gumSupply && (match activeOrder s with | some o => needsGum s o.slot | none => false)

/-- The hold-reason set, bits in the order FORCED, OUTFEED, REGISTER, GUM_SUPPLY, DRAIN. Each reason is present
exactly while R123's table says, so the set is computed and not stored twice (log entry 18). -/
def holdReasons (s : State) : BitVec 5 :=
  (if s.orders.forcedHold then 1#5 else 0#5)
    ||| (if holdsOutfeed s then 2#5 else 0#5)
    ||| (if s.reg.state == .lost then 4#5 else 0#5)
    ||| (if holdsGum s then 8#5 else 0#5)
    ||| (if s.line.run == .draining then 16#5 else 0#5)

/-! ## Lines (01 R1, R5 to R7) -/

/-- A digital read of an input line: an ANALOG line reads inactive (01 R1). -/
def digitalRead (s : State) (l : Fin 16) : Bool :=
  !s.lines.modes.getLsbD l.val && s.lines.levels.getLsbD l.val

/-- A converter reading saturated to 0..4095 (01 R1). -/
def saturate (z : Int) : Nat := (min (max z 0) 4095).toNat

/-- The value of an input line, `reading` being what the converter would read: a DIGITAL line gives 0 or 4095
(01 R1). -/
def analogRead (s : State) (l : Fin 16) (reading : Int) : Nat :=
  if s.lines.modes.getLsbD l.val then saturate reading
  else if s.lines.levels.getLsbD l.val then 4095 else 0

/-- The output of an application channel (05 R78). -/
def channelActive (s : State) (k : Fin 12) : Bool := (getAt s.app.channels k).serving.isSome

/-- A CHANNEL or MANUAL line follows its safe mode in HALTED (01 R6). -/
def safeState (o : OutLine) : Bool :=
  match o.safeMode with
  | .release => false
  | .hold => o.held.getD false

/-- The driven state of an output line (01 R5, R6, R7; log entry 18). -/
def drivenState (s : State) (i : Fin 16) : Bool :=
  let o := getAt s.lines.outs i
  match o.function with
  | .none => false
  | .manual => if s.line.run == .halted then safeState o else o.manual
  | .channel k => if s.line.run == .halted then safeState o else channelActive s k
  | .feedGate => s.orders.feedGate
  | .rejectGate => s.deliv.rejectGate
  | .separator => s.deliv.separator
  | .stopRequest => s.line.run == .halted

/-- The electrical level of an output line, true for high: low while the reset pin is held (01 R4, R9). -/
def outputLevel (s : State) (i : Fin 16) : Bool :=
  if s.resetHeld then false
  else match (getAt s.lines.outs i).polarity with
    | .activeHigh => drivenState s i
    | .activeLow => !drivenState s i

/-- The Management Unit is WORKING (02 R36). -/
def working (s : State) : Bool := s.mgmt.inFlight.isSome

/-- The part repeats frames (11 R176). -/
def repeating (s : State) : Bool := repeatsAt s.ring.node

end Sys2Proof.Machine
end

