-- ==== Sys2Proof/Machine/Operands.lean ====
section
/-! DEFINITION. The operands of requests and the fields of replies as bytes (11 R172): numbers, codes, items of the
Machine Table and of recipes, with the write ranges of 02 R22 and R29 to R31. -/

namespace Sys2Proof.Machine

/-! ## Numbers, least significant byte first -/

/-- The one-byte field at byte `i`. -/
def u8 (bs : List Byte) (i : Nat) : Nat := (bs.getD i 0#8).toNat

/-- The two-byte field at byte `i`. -/
def u16 (bs : List Byte) (i : Nat) : Nat := u8 bs i + 256 * u8 bs (i + 1)

/-- The four-byte field at byte `i`. -/
def u32 (bs : List Byte) (i : Nat) : Nat := u16 bs i + 65536 * u16 bs (i + 2)

/-- A number as one byte. -/
def le8 (n : Nat) : List Byte := [BitVec.ofNat 8 n]

/-- A number as two bytes. -/
def le16 (n : Nat) : List Byte := [BitVec.ofNat 8 n, BitVec.ofNat 8 (n / 256)]

/-- A number as four bytes. -/
def le32 (n : Nat) : List Byte := le16 n ++ le16 (n / 65536)

/-- A signed number as two bytes, two's complement. -/
def leInt16 (z : Int) : List Byte := le16 (z % 65536).toNat

/-- A signed number as four bytes, two's complement. -/
def leInt32 (z : Int) : List Byte := le32 (z % 4294967296).toNat

/-- A two-valued field listed 'no, yes', or one that no list defines: 1 for yes or active (11 R172; log entry 13). -/
def leBool (b : Bool) : List Byte := le8 b.toNat

/-- A flag that its table lists as 'set, clear' (06 R97, 07 R115): its position in that list, set 0 and clear 1 (11
R172; log entry 13). -/
def leFlag (b : Bool) : List Byte := le8 (!b).toNat

/-- A one-byte field that may be absent: 255 (11 R172). -/
def leOpt8 (o : Option Nat) : List Byte := le8 (o.getD 255)

/-- A two-byte field that may be absent, with the code of all bits set outside its range (11 R172). -/
def leOpt16 (o : Option Nat) : List Byte := le16 (o.getD 65535)

/-- A four-byte field that may be absent, with the code of all bits set outside its range (11 R172). -/
def leOpt32 (o : Option Nat) : List Byte := le32 (o.getD 4294967295)

/-- A field that is 0 when absent: a tag, or a field whose range holds every code (11 R172). -/
def leTag (o : Option Nat) : List Byte := le16 (o.getD 0)

/-- A four-byte field whose range holds every code: 0 when absent (11 R172). -/
def leWord (o : Option U32) : List Byte := le32 ((o.map BitVec.toNat).getD 0)

/-! ## Codes: the position of a value in its defining list (11 R172) -/

def codeRun : RunState → Nat
  | .idle => 0
  | .running => 1
  | .draining => 2
  | .halted => 3

def codeFeed : FeedState → Nat
  | .noOrder => 0
  | .feeding => 1
  | .suspended => 2
  | .changeover => 3

def codeReg : RegState → Nat
  | .off => 0
  | .seek => 1
  | .locked => 2
  | .coast => 3
  | .lost => 4

def codeSlot : SlotState → Nat
  | .empty => 0
  | .editing => 1
  | .checking => 2
  | .usable => 3
  | .clearing => 4

def codeValidity : Validity → Nat
  | .invalid => 0
  | .valid => 1

def codeApp : AppKind → Nat
  | .windowCut => 0
  | .patch => 1
  | .gum => 2
  | .aux => 3

def codeInsp : InspKind → Nat
  | .presence => 0
  | .span => 1
  | .count => 2
  | .level => 3

/-- Codes of output functions, laid out in 11 R172. -/
def codeFunction : OutFunction → Nat
  | .none => 0
  | .manual => 1
  | .feedGate => 2
  | .rejectGate => 3
  | .separator => 4
  | .stopRequest => 5
  | .channel k => 16 + k.val

def codePolarity : Polarity → Nat
  | .activeHigh => 0
  | .activeLow => 1

def codeSafe : SafeMode → Nat
  | .release => 0
  | .hold => 1

/-- The ring TAKE slot is coded 255 (11 R172). -/
def codeTake : TakeSource → Nat
  | .ring => 255
  | .line l => l.val

def codeStage : Stage → Nat
  | .opened => 0
  | .committed => 1

def codeVerdict : Verdict → Nat
  | .inRegister => 0
  | .outOfRegister => 1

def codeLane : Lane → Nat
  | .normal => 0
  | .priority => 1

def codeOrder : OrderState → Nat
  | .queued => 0
  | .active => 1
  | .feedDone => 2

/-- End states in the order of the notice table of 10 section 10.3 (log entry 14). -/
def codeEnd : EndState → Nat
  | .complete => 0
  | .short => 1
  | .aborted => 2

def codeClose : CloseReason → Nat
  | .full => 0
  | .final => 1
  | .orderChange => 2
  | .request => 3

def codeJudgement : Judgement → Nat
  | .pass => 0
  | .fail => 1
  | .lost => 2
  | .unexpected => 3

/-- A long operation by its place among the two, and not by its request kind code (log entry 41). -/
def codeOp : LongOp → Nat
  | .recipeCheck => 0
  | .recipeClear => 1

/-- Result codes (11 section 11.4). -/
def codeResult : ResultCode → Nat
  | .ok => 0
  | .accepted => 1
  | .busy => 2
  | .state => 3
  | .badArg => 4
  | .locked => 5
  | .inUse => 6
  | .notUsable => 7
  | .full => 8
  | .duplicate => 9
  | .notHeld => 10
  | .empty => 11
  | .badTable => 12
  | .badRecipe => 13
  | .unknown => 14

/-! ## Fields read back from codes -/

def appKindOf : Nat → AppKind
  | 0 => .windowCut
  | 1 => .patch
  | 2 => .gum
  | _ => .aux

def inspKindOf : Nat → InspKind
  | 0 => .presence
  | 1 => .span
  | 2 => .count
  | _ => .level

/-- An output function from its code; none where the code names no function. -/
def functionOf (c : Nat) : Option OutFunction :=
  match c with
  | 0 => some .none
  | 1 => some .manual
  | 2 => some .feedGate
  | 3 => some .rejectGate
  | 4 => some .separator
  | 5 => some .stopRequest
  | _ => if 16 ≤ c ∧ c ≤ 27 then some (.channel (Fin.ofNat 12 (c - 16))) else none

def defectClassOf : Nat → DefectClass
  | 0 => .register
  | 1 => .window
  | 2 => .gum
  | 3 => .fold
  | _ => .thickness

/-- A line field that may be none: 255 (11 R172). -/
def lineOf (c : Nat) : Option (Fin 16) := if c = 255 then none else some (Fin.ofNat 16 c)

/-! ## Range checks -/

/-- Whether `lo ≤ n ≤ hi`. -/
def within (lo hi n : Nat) : Bool := decide (lo ≤ n) && decide (n ≤ hi)

/-- The position of the first check that fails, in the order of the fields (02 R21). -/
def firstBad : List Bool → Option Nat
  | [] => none
  | true :: rest => (firstBad rest).map (· + 1)
  | false :: _ => some 0

/-- Outcome of reading an item: no such item, a field out of its write range, or the item. -/
inductive Parsed (α : Type) where
  | unknown
  | badField (n : Nat)
  | item (x : α)
  deriving DecidableEq, Repr

/-- `x` when every field is in range, else the first field that is not. -/
def checked {α : Type} (oks : List Bool) (x : α) : Parsed α :=
  match firstBad oks with
  | some n => .badField n
  | none => .item x

/-- The checks of a pair of fields `a < b` or `a ≤ b` with upper limit `hi`, in the order a, b. Where each field
lies in its own range and only their relation fails, the spec does not state which of the two is named: a free value
decides (log entry 17). -/
def pairChecks (hi a b : Nat) (related : Bool) : List Bool :=
  if within 0 hi a && within 0 hi b && !related then
    if Config.blamesFirst a b then [false, true] else [true, false]
  else [within 0 hi a, within 0 hi b]

/-! ## Machine Table items (02 R22; layouts 11 R172) -/

/-- Bytes of the fields of a Machine Table item of kind code `k`; 0 for an unknown kind. -/
def tableItemSize (k : Nat) : Nat :=
  match k with
  | 1 => 13
  | 2 => 5
  | 3 => 8
  | 4 => 4
  | 5 => 2
  | 6 => 3
  | _ => 0

def parseGeneral (b : List Byte) : Parsed TableItem :=
  checked [within 1 3599 (u16 b 0), within 2 28 (u8 b 2), within 0 3599 (u16 b 3), within 4 30 (u8 b 5),
      within 0 3599 (u16 b 6), within 1 3599 (u16 b 8), within 1 4 (u8 b 10),
      within 0 15 (u8 b 11) || u8 b 11 == 255, within 2 100 (u8 b 12)]
    (.general { feedAngle := u16 b 0, gateOffset := u8 b 2, gateAngle := u16 b 3, deliveryOffset := u8 b 5,
                deliveryAngle := u16 b 6, separatorLength := u16 b 8, outfeedHold := u8 b 10,
                takeSource := if u8 b 11 = 255 then .ring else .line (Fin.ofNat 16 (u8 b 11)),
                watchdogMs := u8 b 12 })

def parseGum (b : List Byte) : Parsed TableItem :=
  checked [within 0 15 (u8 b 0) || u8 b 0 == 255, within 0 4095 (u16 b 1), within 0 1000 (u16 b 3)]
    (.gum ⟨lineOf (u8 b 0), u16 b 1, u16 b 3⟩)

def parseApplication (k : Fin 12) (b : List Byte) : Parsed TableItem :=
  checked [within 0 1 (u8 b 0), within 0 3 (u8 b 1), within 2 29 (u8 b 2), within 0 15 (u8 b 3),
      within 0 20000 (u16 b 4), within 0 20000 (u16 b 6)]
    (.application k ⟨u8 b 0 == 1, appKindOf (u8 b 1), u8 b 2, Fin.ofNat 16 (u8 b 3), u16 b 4, u16 b 6⟩)

def parseInspection (j : Fin 8) (b : List Byte) : Parsed TableItem :=
  checked [within 0 1 (u8 b 0), within 0 3 (u8 b 1), within 1 27 (u8 b 2), within 0 15 (u8 b 3)]
    (.inspection j ⟨u8 b 0 == 1, inspKindOf (u8 b 1), u8 b 2, Fin.ofNat 16 (u8 b 3)⟩)

def parseOutput (i : Fin 16) (b : List Byte) : Parsed TableItem :=
  checked [(functionOf (u8 b 0)).isSome, within 0 1 (u8 b 1), within 0 1 (u8 b 2)]
    (.output i ⟨(functionOf (u8 b 0)).getD .none, if u8 b 1 = 0 then .activeHigh else .activeLow,
      if u8 b 2 = 0 then .release else .hold⟩)

/-- The Machine Table item that a kind code, an index and the field bytes spell. The index of a kind without one
is 0 (log entry 16). -/
def parseTableItem (kind index : Nat) (b : List Byte) : Parsed TableItem :=
  match kind with
  | 1 => if index = 0 then parseGeneral b else .unknown
  | 2 => if index = 0 then parseGum b else .unknown
  | 3 => if index < 12 then parseApplication (Fin.ofNat 12 index) b else .unknown
  | 4 => if index < 8 then parseInspection (Fin.ofNat 8 index) b else .unknown
  | 5 => if index = 0 then .item (.inputModes (BitVec.ofNat 16 (u16 b 0))) else .unknown
  | 6 => if index < 16 then parseOutput (Fin.ofNat 16 index) b else .unknown
  | _ => .unknown

/-- Replace one item of a Machine Table (02 R21). -/
def writeTableItem (t : MachineTable) : TableItem → MachineTable
  | .general g => { t with general := g }
  | .gum g => { t with gum := g }
  | .application k a => { t with apps := put t.apps k a }
  | .inspection j c => { t with insps := put t.insps j c }
  | .inputModes m => { t with modes := m }
  | .output i o => { t with outs := put t.outs i o }

/-- The field bytes of a Machine Table item. -/
def encodeTableItem : TableItem → List Byte
  | .general g => le16 g.feedAngle ++ le8 g.gateOffset ++ le16 g.gateAngle ++ le8 g.deliveryOffset
      ++ le16 g.deliveryAngle ++ le16 g.separatorLength ++ le8 g.outfeedHold ++ le8 (codeTake g.takeSource)
      ++ le8 g.watchdogMs
  | .gum g => leOpt8 (g.line.map Fin.val) ++ le16 g.threshold ++ le16 g.hysteresis
  | .application _ a => leBool a.enabled ++ le8 (codeApp a.kind) ++ le8 a.station ++ le8 a.line.val
      ++ le16 a.onLatency ++ le16 a.offLatency
  | .inspection _ c => leBool c.enabled ++ le8 (codeInsp c.kind) ++ le8 c.station ++ le8 c.line.val
  | .inputModes m => le16 m.toNat
  | .output _ o => le8 (codeFunction o.function) ++ le8 (codePolarity o.polarity) ++ le8 (codeSafe o.safeMode)

/-- The item of a Machine Table that a kind code and an index name (02 R25). -/
def readTableItem (t : MachineTable) (kind index : Nat) : Option TableItem :=
  match kind with
  | 1 => if index = 0 then some (.general t.general) else none
  | 2 => if index = 0 then some (.gum t.gum) else none
  | 3 => if index < 12 then some (.application (Fin.ofNat 12 index) (getAt t.apps (Fin.ofNat 12 index))) else none
  | 4 => if index < 8 then some (.inspection (Fin.ofNat 8 index) (getAt t.insps (Fin.ofNat 8 index))) else none
  | 5 => if index = 0 then some (.inputModes t.modes) else none
  | 6 => if index < 16 then some (.output (Fin.ofNat 16 index) (getAt t.outs (Fin.ofNat 16 index))) else none
  | _ => none

/-! ## Recipe items (02 R28 to R31; layouts 11 R172) -/

/-- Bytes of the fields of a recipe item of kind code `k`; 0 for an unknown kind. -/
def recipeItemSize (k : Nat) : Nat :=
  match k with
  | 1 => 13
  | 2 => 15
  | 3 => 11
  | 4 => 1
  | 5 => 10
  | 6 => 1
  | _ => 0

def parseHeader (b : List Byte) : Parsed RecipeItem :=
  checked [within 0 15 (u8 b 0), ((b.drop 1).take 12).all (fun c => within 32 126 c.toNat)]
    (.header ⟨u8 b 0, (b.drop 1).take 12⟩)

def parseRegister (b : List Byte) : Parsed RecipeItem :=
  checked [within 0 1 (u8 b 0), within 0 3599 (u16 b 1), within 10 900 (u16 b 3), within 0 256 (u16 b 5),
      within 1 200 (u8 b 7), within 0 1800 (u16 b 8), within 1 450 (u16 b 10), within 1 15 (u8 b 12),
      within 1 15 (u8 b 13), within 0 15 (u8 b 14)]
    (.register { enabled := u8 b 0 == 1, m := u16 b 1, w := u16 b 3, gain := u16 b 5, smax := u8 b 7,
                 tlim := u16 b 8, tol := u16 b 10, kLock := u8 b 12, kLost := u8 b 13,
                 markLine := Fin.ofNat 16 (u8 b 14) })

/-- Dot length is checked when the dot count is not 0, dot spacing when it is 2 or more (02 R30). -/
def parseCam (i : Nat) (b : List Byte) : Parsed RecipeItem :=
  checked ([within 0 11 (u8 b 0)]
      ++ pairChecks 3599 (u16 b 1) (u16 b 3) (decide (u16 b 1 < u16 b 3) && decide (u16 b 3 - u16 b 1 ≤ 3000))
      ++ [within 0 15 (u8 b 5), u8 b 5 == 0 || within 1 1799 (u16 b 6),
          decide (u8 b 5 < 2) || within 1 3000 (u16 b 8), within 0 1 (u8 b 10)])
    (.cam i ⟨Fin.ofNat 12 (u8 b 0), u16 b 1, u16 b 3, u8 b 5, u16 b 6, u16 b 8, u8 b 10 == 1⟩)

def parseSetting (j : Fin 8) (b : List Byte) : Parsed RecipeItem :=
  checked ([within 0 1 (u8 b 0)]
      ++ pairChecks 3599 (u16 b 1) (u16 b 3) (decide (u16 b 1 < u16 b 3))
      ++ pairChecks 4095 (u16 b 5) (u16 b 7) (decide (u16 b 5 ≤ u16 b 7))
      ++ [within 0 4 (u8 b 9)])
    (.inspection j ⟨u8 b 0 == 1, u16 b 1, u16 b 3, u16 b 5, u16 b 7, defectClassOf (u8 b 9)⟩)

/-- The recipe item that a kind code, an index and the field bytes spell, for a slot whose cam list holds `len`
entries (02 R28). -/
def parseRecipeItem (len kind index : Nat) (b : List Byte) : Parsed RecipeItem :=
  match kind with
  | 1 => if index = 0 then parseHeader b else .unknown
  | 2 => if index = 0 then parseRegister b else .unknown
  | 3 => if index ≤ len ∧ index < 24 then parseCam index b else .unknown
  | 4 => if index = 0 then checked [within 0 len (u8 b 0)] (.camLength (u8 b 0)) else .unknown
  | 5 => if index < 8 then parseSetting (Fin.ofNat 8 index) b else .unknown
  | 6 => if index = 0 then checked [within 0 31 (u8 b 0)] (.rejectMask (BitVec.ofNat 5 (u8 b 0))) else .unknown
  | _ => .unknown

/-- Replace one item of a recipe (02 R28). -/
def writeRecipeItem (r : Recipe) : RecipeItem → Recipe
  | .header h => { r with header := h }
  | .register g => { r with register := g }
  | .cam i e => { r with cams := if i < r.cams.length then r.cams.set i e else r.cams ++ [e] }
  | .camLength n => { r with cams := r.cams.take n }
  | .inspection j c => { r with settings := put r.settings j c }
  | .rejectMask m => { r with rejectMask := m }

/-- The field bytes of a recipe item. -/
def encodeRecipeItem : RecipeItem → List Byte
  | .header h => le8 h.formatClass ++ h.name
  | .register g => leBool g.enabled ++ le16 g.m ++ le16 g.w ++ le16 g.gain ++ le8 g.smax ++ le16 g.tlim
      ++ le16 g.tol ++ le8 g.kLock ++ le8 g.kLost ++ le8 g.markLine.val
  | .cam _ e => le8 e.channel.val ++ le16 e.on ++ le16 e.off ++ le8 e.dots ++ le16 e.dotLength
      ++ le16 e.dotSpacing ++ leBool e.skip
  | .camLength n => le8 n
  | .inspection _ c => leBool c.enabled ++ le16 c.on ++ le16 c.off ++ le16 c.low ++ le16 c.high
      ++ le8 (defectBit c.cls)
  | .rejectMask m => le8 m.toNat

/-- The item of a recipe that a kind code and an index name (02 R35). A kind without an index has its item whatever the
index byte; no item has an inspection index above 7 (log entry 16). -/
def readRecipeItem (r : Recipe) (kind index : Nat) : Option RecipeItem :=
  match kind with
  | 1 => some (.header r.header)
  | 2 => some (.register r.register)
  | 3 => (r.cams[index]?).map (.cam index)
  | 4 => some (.camLength r.cams.length)
  | 5 => if index < 8 then some (.inspection (Fin.ofNat 8 index) (getAt r.settings (Fin.ofNat 8 index))) else none
  | 6 => some (.rejectMask r.rejectMask)
  | _ => none

/-! ## Notices (10 R170) -/

/-- The failing check, item kind, item index and field (11 R172). -/
def failureBytes (f : CheckFailure) : List Byte := le8 f.check ++ le8 f.kind ++ le8 f.index ++ le8 f.field

/-- A notice's kind byte and fields. -/
def noticeFields : Notice → List Byte
  | .orderEnd t e d b sh => le8 0 ++ le16 t ++ le8 (codeEnd e) ++ le32 d ++ le32 b ++ le32 sh
  | .earlyEnd t r => le8 1 ++ le16 t ++ le16 r
  | .boxClosed q => le8 2 ++ le32 q.toNat
  | .feedWait c n => le8 3 ++ leBool c ++ le16 n
  | .fault f => le8 4 ++ le8 (faultBit f)
  | .opDone o k r f => le8 5 ++ le8 (codeOp o) ++ le8 k.val ++ le8 (codeResult r) ++ (f.map failureBytes).getD []
  | .takeSpurious => le8 6

/-- Pad a byte list with zeros to `n` bytes. -/
def padTo (n : Nat) (bs : List Byte) : List Byte := bs ++ List.replicate (n - bs.length) 0#8

/-- A notice in its sixteen bytes. -/
def noticeBytes (n : Notice) : List Byte := padTo 16 (noticeFields n)

end Sys2Proof.Machine
end

