-- ==== Sys2Proof/Machine/Ops.lean ====
section
/-! DEFINITION. The shared operations of the reporting blocks and of Line Control: notices, counters, faults and run
states, and the plain changes of slots, records and orders that every unit's rules are built from. -/

namespace Sys2Proof.Machine

/-! ## Notice Queue (10 R169) -/

/-- Offer a notice: it joins the tail, or is dropped and sets the overflow flag when the queue holds 16. -/
def offer (n : Notice) (s : State) : State :=
  if s.notices.queue.length < 16 then
    { s with notices := { s.notices with queue := s.notices.queue ++ [n] } }
  else { s with notices := { s.notices with overflow := true } }

/-! ## Counter Block (10 R163) -/

/-- The number of a counter (10 section 10.1). -/
def counterIdx : Counter → Fin 20
  | .cutTotal => 0
  | .diverted => 1
  | .accepted => 2
  | .deliveredGood => 3
  | .rejected => 4
  | .rejectRegister => 5
  | .rejectWindow => 6
  | .rejectGum => 7
  | .rejectFold => 8
  | .rejectThickness => 9
  | .rejectSample => 10
  | .rejectAborted => 11
  | .rejectSurplus => 12
  | .rejectNoRoom => 13
  | .lost => 14
  | .passedMasked => 15
  | .boxesClosed => 16
  | .marksMissing => 17
  | .gumInhibited => 18
  | .trimClamped => 19

/-- The live value of a counter. -/
def counter (s : State) (c : Counter) : U32 := getAt s.counters.live (counterIdx c)

/-- Count one event: the counter rises by 1 and wraps (10 R163). -/
def count (c : Counter) (s : State) : State :=
  { s with counters :=
      { s.counters with live := put s.counters.live (counterIdx c) (counter s c + 1#32) } }

/-- Count several counters within one event. -/
def countAll (cs : List Counter) (s : State) : State := cs.foldl (fun t c => count c t) s

/-! ## Recipe slots (02 R38) -/

/-- Change a slot. -/
def modifySlot (k : Fin 8) (f : Slot → Slot) (s : State) : State :=
  { s with store := { s.store with slots := put s.store.slots k (f (getAt s.store.slots k)) } }

/-- A slot's reference count rises by 1. -/
def refUp (k : Fin 8) (s : State) : State := modifySlot k (fun x => { x with refs := x.refs + 1 }) s

/-- A slot's reference count falls by 1. -/
def refDown (k : Fin 8) (s : State) : State := modifySlot k (fun x => { x with refs := x.refs - 1 }) s

/-! ## Records and orders -/

/-- Change the record of a sequence number; no effect where the list holds none (03 R45). -/
def amendRecord (q : U32) (f : Record → Record) (s : State) : State :=
  { s with track := { s.track with
      records := s.track.records.map (fun r => if r.seq == q then f r else r) } }

/-- Change the order of a tag. -/
def modifyOrder (t : Nat) (f : Order → Order) (s : State) : State :=
  { s with orders := { s.orders with list := s.orders.list.map (fun o => if o.tag == t then f o else o) } }

/-! ## Run states (09 R151, R157; 01 R6) -/

/-- Give every output line a held state. -/
def setHeld (h : Fin 16 → Option Bool) (s : State) : State :=
  { s with lines := { s.lines with
      outs := allLines.foldl (fun v i => put v i { getAt v i with held := h i }) s.lines.outs } }

/-- CHANNEL and MANUAL lines, whose driven state is recorded at a halt (01 R6). -/
def followsSafeMode : OutFunction → Bool
  | .manual => true
  | .channel _ => true
  | _ => false

/-- Change the run state alone. -/
def setRun (r : RunState) (s : State) : State := { s with line := { s.line with run := r } }

/-- The entry into HALTED: the held states are the driven states at that moment (09 R157, 01 R6). -/
def enterHalted (s : State) : State :=
  setRun .halted
    (setHeld (fun i => if followsSafeMode (getAt s.lines.outs i).function then some (drivenState s i) else none) s)

/-- The end of HALTED: every held state becomes absent (01 R6). -/
def leaveHalted (r : RunState) (s : State) : State := setRun r (setHeld (fun _ => none) s)

/-! ## Faults (09 R156) -/

/-- The fault set that holds one fault. -/
def oneFault (f : FaultKind) : BitVec 6 := BitVec.twoPow 6 (faultBit f)

/-- Put a fault into the fault set. -/
def latch (f : FaultKind) (s : State) : State :=
  { s with line := { s.line with faults := s.line.faults ||| oneFault f } }

/-- Take a fault out of the fault set. -/
def unlatch (f : FaultKind) (s : State) : State :=
  { s with line := { s.line with faults := s.line.faults &&& ~~~ oneFault f } }

/-- RUNNING and DRAINING, the states a halting fault leaves. -/
def canHalt : RunState → Bool
  | .running => true
  | .draining => true
  | _ => false

/-- A block reports a fault condition (09 R156): a fault not yet latched latches with its notice and, when halting,
moves RUNNING or DRAINING to HALTED. A fault already latched changes nothing. -/
def report (f : FaultKind) (s : State) : State :=
  if hasFault s f then s
  else
    let t := offer (.fault f) (latch f s)
    if isHalting f && canHalt s.line.run then enterHalted t else t

/-! ## Lines (01 R1 to R3) -/

/-- Record the new level of a digital line. -/
def setLevel (l : Fin 16) (v : Bool) (s : State) : State :=
  { s with lines := { s.lines with
      levels := if v then s.lines.levels ||| BitVec.twoPow 16 l.val
                else s.lines.levels &&& ~~~ BitVec.twoPow 16 l.val } }

/-! ## Application channels and inspection channels -/

/-- Change an application channel. -/
def modifyChannel (k : Fin 12) (f : AppChannel → AppChannel) (s : State) : State :=
  { s with app := { s.app with channels := put s.app.channels k (f (getAt s.app.channels k)) } }

/-- An application channel becomes IDLE. -/
def idleChannel (k : Fin 12) (s : State) : State := modifyChannel k (fun c => { c with serving := none }) s

/-- Change an inspection channel. -/
def modifyInsp (j : Fin 8) (f : InspChannel → InspChannel) (s : State) : State :=
  { s with insp := put s.insp j (f (getAt s.insp j)) }

end Sys2Proof.Machine
end

