-- ==== Sys2Proof/Machine/RegisterOps.lean ====
section
/-! DEFINITION. The Register Unit's shared operations: section in force, switch events, correction, state moves and
verdict (chapter 04). -/

namespace Sys2Proof.Machine

/-- The register section that a source gives: the slot's section when it is enabled (04 R58). -/
def sectionOf (s : State) (src : Option (Fin 8)) : Option RegisterSettings :=
  match src with
  | none => none
  | some k => if (recipeOf s k).register.enabled then some (recipeOf s k).register else none

/-- The register section in force (04 R58). -/
def sectionInForce (s : State) : Option RegisterSettings := sectionOf s s.reg.source

/-- The register source recipe: the ACTIVE order's slot, else the next order's, else none (04 R58). -/
def wantedSource (s : State) : Option (Fin 8) :=
  match activeOrder s with
  | some o => some o.slot
  | none => (nextOrder s).map Order.slot

/-- A count that reaches its limit under the new section becomes the limit less 1 (04 R59). -/
def carryCount (limit n : Nat) : Nat := if limit ≤ n then limit - 1 else n

/-- Whether two sections have M, W and mark line equal (04 R59). -/
def sameGeometry (a b : RegisterSettings) : Bool := a.m == b.m && a.w == b.w && a.markLine == b.markLine

/-- The Register Unit's state after a switch from section `before` to section `after` (04 R59). -/
def switchedUnit (before after : Option RegisterSettings) (u : RegisterUnit) : RegisterUnit :=
  match before, after with
  | none, none => u
  | some _, none => { u with state := .off, good := 0, outliers := 0, misses := 0, window := none }
  | none, some _ => { u with state := .seek, good := 0, outliers := 0, misses := 0 }
  | some a, some b =>
    if sameGeometry a b then
      { u with good := carryCount b.kLock u.good, outliers := carryCount b.kLost u.outliers,
               misses := carryCount b.kLost u.misses }
    else { u with state := .seek, good := 0, outliers := 0, misses := 0, window := none }

/-- Whether an arm or close that has fired and waits stays across a switch: only where the state carries over. After a
change of M, W or the mark line alone, the first window is one whose arm fires after the switch (04 R59; log entry 22,
DESIGN CHOICE). -/
def keepsWindowEvents (before after : Option RegisterSettings) : Bool :=
  match before, after with
  | some a, some b => sameGeometry a b
  | _, _ => false

/-- Capture arm and window close. -/
def isWindowEvent : Recurring → Bool
  | .captureArm => true
  | .windowClose => true
  | _ => false

/-- A switch event to the source `src` (04 R59, R60). A fired arm or close still untaken is dropped unless the state
carries over (log entry 22). -/
def switchTo (src : Option (Fin 8)) (s : State) : State :=
  let before := sectionInForce s
  let after := sectionOf s src
  let t := { s with reg := { switchedUnit before after s.reg with source := src } }
  if keepsWindowEvents before after then t else dropFired isWindowEvent t

/-- Work out the register source anew and hand over a switch event where it has changed (04 R58). -/
def updateSource (s : State) : State :=
  if wantedSource s = s.reg.source then s else switchTo (wantedSource s) s

/-! ## Correction (04 R64 to R66) -/

/-- `n / d` rounded to the nearest integer, ties away from zero. -/
def roundAway (n : Int) (d : Nat) : Int :=
  if 0 ≤ n then (2 * n + d) / (2 * d) else -((2 * -n + d) / (2 * d))

/-- `x` clamped to ±`limit`. -/
def clampTo (limit : Nat) (x : Int) : Int := max (-(limit : Int)) (min limit x)

/-- The step limit L of the register state before the close (04 R65). -/
def stepLimit (st : RegState) (smax : Nat) : Nat :=
  match st with
  | .locked => smax
  | .coast => smax
  | .off => smax
  | .seek => min (4 * smax) 400
  | .lost => min (4 * smax) 400

/-- The sum of T and the limited step for error `d` (04 R64, R65). -/
def trimSum (g : RegisterSettings) (st : RegState) (t d : Int) : Int :=
  t + clampTo (stepLimit st g.smax) (roundAway (d * g.gain) 256)

/-! ## State moves at a window close (04 R68 to R72) -/

/-- State and counts after a window close; `good` says whether a capture was within tolerance, none that there was
no capture. -/
def movedUnit (g : RegisterSettings) (capture : Option Bool) (u : RegisterUnit) : RegisterUnit :=
  let zero : RegisterUnit := { u with good := 0, outliers := 0, misses := 0 }
  match u.state, capture with
  | .off, _ => u
  | .seek, some true =>
    if u.good + 1 = g.kLock then { zero with state := .locked } else { u with good := u.good + 1 }
  | .seek, some false => { u with good := 0 }
  | .seek, none => { u with good := 0 }
  | .locked, some true => { u with outliers := 0 }
  | .locked, some false =>
    if u.outliers + 1 = g.kLost then { zero with state := .seek } else { u with outliers := u.outliers + 1 }
  | .locked, none =>
    if g.kLost = 1 then { zero with state := .lost } else { zero with state := .coast, misses := 1 }
  | .coast, some true => { zero with state := .locked }
  | .coast, some false =>
    if g.kLost = 1 then { zero with state := .seek } else { zero with state := .locked, outliers := 1 }
  | .coast, none =>
    if u.misses + 1 = g.kLost then { zero with state := .lost } else { u with misses := u.misses + 1 }
  | .lost, some true =>
    if g.kLock = 1 then { zero with state := .locked } else { zero with state := .seek, good := 1 }
  | .lost, some false => { zero with state := .seek }
  | .lost, none => u

/-- The window close acts on an open window under the section in force (04 R63). A window left open from another pitch is
acted on too, and the last capture records the window's own pitch (log entry 39). -/
def closeCapture (g : RegisterSettings) (w : CaptureWindow) (s : State) : State :=
  match w.capture with
  | some c =>
    let d : Int := (c : Int) - w.m
    let sum := trimSum g s.reg.state s.reg.trim d
    let outside := decide (g.tol < d.natAbs)
    let t := { s with reg := { movedUnit g (some (!outside)) s.reg with
        trim := clampTo g.tlim sum, last := some ⟨w.pitch, d, outside⟩, window := none } }
    if clampTo g.tlim sum = sum then t else count .trimClamped t
  | none => count .marksMissing { s with reg := { movedUnit g none s.reg with window := none } }

/-- A window close (04 R63): ignored where no window is open or no section is in force. -/
def closeWindow (s : State) : State :=
  match s.reg.window, sectionInForce s with
  | some w, some g => if s.reg.state = .off then s else closeCapture g w s
  | _, _ => s

/-- A capture arm of pitch `p` (04 R61): the window of the section in force opens, in place of one still open. -/
def armWindow (p : U32) (s : State) : State :=
  match sectionInForce s with
  | none => s
  | some g =>
    let w : CaptureWindow :=
      { pitch := p, start := posSub (posAt p g.m) g.w, finish := posAt p (g.m + g.w),
        m := g.m, w := g.w, line := g.markLine, capture := none }
    { s with reg := { s.reg with window := some w } }

/-- A rising edge of line `l` at the Register Unit (04 R62). -/
def markEdge (l : Fin 16) (s : State) : State :=
  match s.reg.window, sectionInForce s with
  | some w, some g =>
    if g.markLine = l ∧ w.line = l ∧ w.capture = none ∧ 0 ≤ posDist w.start (currentPos s) then
      { s with reg := { s.reg with window := some { w with capture := some (currentAngle s) } } }
    else s
  | _, _ => s

/-! ## Verdict (04 R73) -/

/-- Whether the last capture is of pitch `p`. -/
def captureOf (s : State) (p : U32) : Option LastCapture :=
  match s.reg.last with
  | some c => if c.pitch = p then some c else none
  | none => none

/-- The verdict of pitch `p` (04 R73). -/
def verdictOf (s : State) (p : U32) : Option Verdict :=
  match s.reg.state with
  | .off => none
  | .seek => some .outOfRegister
  | .lost => some .outOfRegister
  | _ => match captureOf s p with
    | some c => if c.outside then some .outOfRegister else some .inRegister
    | none => some .inRegister

/-- The register error of pitch `p` (04 R73). -/
def errorOf (s : State) (p : U32) : Option Int :=
  match s.reg.state with
  | .off => none
  | _ => (captureOf s p).map LastCapture.error

end Sys2Proof.Machine
end

