-- ==== Sys2Proof/Machine/ApplicationOps.lean ====
section
/-! DEFINITION. The Application Unit's shared operations: pairs, leads, serving a blank, defect hand-over, removal and
the recomputation of leads (chapter 05). -/

namespace Sys2Proof.Machine

/-- The lead of a latency in µs at speed V (05 R80). -/
def leadOf (latency v : Nat) : Nat := min ((latency * v + 5000) / 10000) 1799

/-- Dots of an entry's application pairs: a solid entry has one pair, numbered 0 (05 R79). -/
def dotNumbers (e : CamEntry) : List Nat := if e.dots = 0 then [0] else List.range e.dots

/-- The nominal on angle of a pair (05 R79). -/
def pairOn (e : CamEntry) (dot : Nat) : Nat := if e.dots = 0 then e.on else e.on + dot * e.dotSpacing

/-- The nominal off angle of a pair (05 R79). -/
def pairOff (e : CamEntry) (dot : Nat) : Nat := if e.dots = 0 then e.off else pairOn e dot + e.dotLength

/-- Channel `k` in the table in force. -/
def appOf (s : State) (k : Fin 12) : AppSettings := getAt s.store.inForce.apps k

/-- The nominal position of an event at angle `a` on channel `k` for the blank of cut pitch `n` (05 R79). -/
def nominalAt (s : State) (k : Fin 12) (n : U32) (a : Nat) : Pos :=
  posAt (n + BitVec.ofNat 32 (appOf s k).station) a

/-- The on event of a pair, placed at its nominal position minus the on lead (05 R79). -/
def onPending (s : State) (q n : U32) (i : Nat) (e : CamEntry) (dot : Nat) : Pending :=
  let x := nominalAt s e.channel n (pairOn e dot)
  ⟨posSub x (getAt s.app.channels e.channel).onLead, .appOn q e.channel i dot, x, none⟩

/-- The off event of a pair whose on event has just fired: not before one count beyond it (05 R81). -/
def offPending (s : State) (q n : U32) (i : Nat) (e : CamEntry) (dot : Nat) : Pending :=
  let x := nominalAt s e.channel n (pairOff e dot)
  let fl := posAdd s.pos.hwm 1
  ⟨posLater (posSub x (getAt s.app.channels e.channel).offLead) fl, .appOff q e.channel i dot, x, some fl⟩

/-- The entries of a cam list with their indices. -/
def indexed {α : Type} : Nat → List α → List (Nat × α)
  | _, [] => []
  | i, x :: xs => (i, x) :: indexed (i + 1) xs

/-- Every on event of a blank (05 R79). -/
def onEvents (s : State) (r : Record) : List Pending :=
  (indexed 0 (recipeOf s r.slot).cams).flatMap
    (fun ie => (dotNumbers ie.2).map (fun d => onPending s r.seq r.cutPitch ie.1 ie.2 d))

/-- The Application Unit takes a newly announced blank (05 R79). -/
def announceApp (r : Record) (s : State) : State :=
  { s with
    app := { s.app with blanks := s.app.blanks ++ [⟨r.seq, r.cutPitch, false⟩] }
    pos := { s.pos with schedule := s.pos.schedule ++ onEvents s r } }

/-- On or off events of blank `q` for which `p` holds of the channel and entry. -/
def appEventOf (q : U32) (p : Fin 12 → Nat → Bool) : Scheduled → Bool
  | .appOn q' k i _ => q' == q && p k i
  | .appOff q' k i _ => q' == q && p k i
  | _ => false

/-- Whether channel `k` serves blank `q` with an entry for which `p` holds. -/
def servesBlank (s : State) (k : Fin 12) (q : U32) (p : Nat → Bool) : Bool :=
  match (getAt s.app.channels k).serving with
  | some v => v.seq == q && p v.entry
  | none => false

/-- Make IDLE every channel that serves blank `q` with an entry for which `p` holds. -/
def endApplications (q : U32) (p : Nat → Bool) (s : State) : State :=
  allApps.foldl (fun t k => if servesBlank t k q p then idleChannel k t else t) s

/-- Whether entry `i` of a recipe has skip-on-defect. -/
def skipsEntry (r : Recipe) (i : Nat) : Bool :=
  match r.cams[i]? with
  | some e => e.skip
  | none => false

/-- The hand-over of an added defect (05 R86): a blank whose defect set holds a class of its effective reject set
loses the pending events and the applications of its skip-on-defect entries. -/
def defectHandOver (q : U32) (s : State) : State :=
  match findRecord s q with
  | none => s
  | some r =>
    if isRejectable s r then
      endApplications q (skipsEntry (recipeOf s r.slot))
        (withdraw (appEventOf q (fun _ i => skipsEntry (recipeOf s r.slot) i)) s)
    else s

/-- Add a defect class to a record, with its hand-over (03 R45, 05 R86). -/
def addDefect (q : U32) (c : DefectClass) (s : State) : State :=
  match findRecord s q with
  | none => s
  | some _ => defectHandOver q (amendRecord q (fun r => { r with defects := r.defects ||| oneDefect c }) s)

/-- The announcement of a removal at the Application Unit (05 R87). -/
def removalApp (q : U32) (s : State) : State :=
  let t := endApplications q (fun _ => true) (withdraw (appEventOf q (fun _ _ => true)) s)
  { t with app := { t.app with blanks := t.app.blanks.filter (fun b => b.seq != q) } }

/-- The defect class of a suppression on a channel kind; AUX has none (05 section 5.1). -/
def suppressionClass : AppKind → Option DefectClass
  | .windowCut => some .window
  | .patch => some .window
  | .gum => some .gum
  | .aux => none

/-- A suppression of channel `k` for blank `q` (05 R83). -/
def suppress (q : U32) (k : Fin 12) (s : State) : State :=
  let t := amendRecord q (fun r => { r with suppressed := r.suppressed ||| oneChannel k }) s
  match suppressionClass (appOf s k).kind with
  | some c => addDefect q c t
  | none => t

/-- Whether GUM_INHIBITED has already been counted for blank `q` (05 R89). -/
def gumMarked (s : State) (q : U32) : Bool := s.app.blanks.any (fun b => b.seq == q && b.gumInhibited)

/-- Count GUM_INHIBITED once per blank (05 R89). -/
def countGum (q : U32) (s : State) : State :=
  if gumMarked s q then s
  else count .gumInhibited { s with app := { s.app with
    blanks := s.app.blanks.map (fun b => if b.seq == q then { b with gumInhibited := true } else b) } }

/-- The earlier blank on a channel loses its pending events there (05 R84). -/
def displace (q : U32) (k : Fin 12) (s : State) : State :=
  match (getAt s.app.channels k).serving with
  | some v => if v.seq = q then s else withdraw (appEventOf v.seq (fun k' _ => k' == k)) s
  | none => s

/-- An on event applies (05 R84): channel `k` serves the pair, the record's applied set gains the channel and the
off event is scheduled by R81. -/
def applyPair (r : Record) (k : Fin 12) (i : Nat) (e : CamEntry) (dot : Nat) (s : State) : State :=
  let t := modifyChannel k (fun c => { c with serving := some ⟨r.seq, i, dot, s.pos.hwm⟩ }) (displace r.seq k s)
  schedule (offPending t r.seq r.cutPitch i e dot)
    (amendRecord r.seq (fun x => { x with applied := x.applied ||| oneChannel k }) t)

/-- The judgement of a fired on event (05 R83). An event that finds no record or no entry does not arise and has no
effect (log entry 24). -/
def judgeOn (q : U32) (k : Fin 12) (i dot : Nat) (s : State) : State :=
  match findRecord s q with
  | none => s
  | some r =>
    match (recipeOf s r.slot).cams[i]? with
    | none => s
    | some e =>
      if e.skip && isRejectable s r then s
      else if s.line.run = .halted then suppress q k s
      else if (appOf s k).kind = .gum ∧ hasFault s .gumSupply then countGum q (suppress q k s)
      else applyPair r k i e dot s

/-- A fired off event (05 R85). -/
def judgeOff (q : U32) (k : Fin 12) (i dot : Nat) (s : State) : State :=
  match (getAt s.app.channels k).serving with
  | some v => if v.seq = q ∧ v.entry = i ∧ v.dot = dot then idleChannel k s else s
  | none => s

/-- A fired application event. -/
def judgeApp (e : Scheduled) (s : State) : State :=
  match e with
  | .appOn q k i d => judgeOn q k i d s
  | .appOff q k i d => judgeOff q k i d s
  | _ => s

/-! ## Leads and their recomputation (05 R80, R82) -/

/-- The leads of the channels that `p` picks out, computed from the table in force and V (05 R80, R95). -/
def computeLeads (p : Fin 12 → Bool) (s : State) : State :=
  allApps.foldl (fun t k => if p k then
    modifyChannel k (fun c => { c with onLead := leadOf (appOf s k).onLatency s.pos.speed,
                                       offLead := leadOf (appOf s k).offLatency s.pos.speed }) t
    else t) s

/-- The firing position of a pending event under the present leads (05 R80 to R82). -/
def firingPos (s : State) (e : Pending) : Pos :=
  match e.event with
  | .appOn _ k _ _ => posSub e.nominal (getAt s.app.channels k).onLead
  | .appOff _ k _ _ =>
    let x := posSub e.nominal (getAt s.app.channels k).offLead
    match e.floor with
    | some fl => posLater x fl
    | none => x
  | _ => e.pos

/-- A pending event under the present leads (05 R82). -/
def movedEvent (s : State) (e : Pending) : Pending := { e with pos := firingPos s e }

/-- Move every pending application event to the position its leads give (05 R82). -/
def moveEvents (s : State) : State :=
  { s with pos := { s.pos with schedule := s.pos.schedule.map (movedEvent s) } }

/-- The channel number of an application event. -/
def eventChannel : Scheduled → Nat
  | .appOn _ k _ _ => k.val
  | .appOff _ k _ _ => k.val
  | _ => 0

/-- Whether `x` is taken before `y` at a hand-over of V: by firing position, nominal position, channel (05 R82). -/
def firesBefore (hwm : Pos) (x y : Pending) : Bool :=
  let dx := posDist hwm x.pos
  let dy := posDist hwm y.pos
  let nx := posDist hwm x.nominal
  let ny := posDist hwm y.nominal
  decide (dx < dy) || (decide (dx = dy) &&
    (decide (nx < ny) || (decide (nx = ny) && decide (eventChannel x.event < eventChannel y.event))))

/-- The application event to take next among those due (05 R82). -/
def nextDueApp (s : State) : Option Pending :=
  (s.pos.schedule.filter (fun e => isAppEvent e.event && isDue s.pos.hwm e)).foldl
    (fun acc e => match acc with
      | none => some e
      | some b => if firesBefore s.pos.hwm e b then some e else some b) none

/-- Take every due application event in the order of R82; `fuel` bounds how many. -/
def fireDueApps : Nat → State → State
  | 0, s => s
  | fuel + 1, s =>
    match nextDueApp s with
    | none => s
    | some e =>
      fireDueApps fuel (judgeApp e.event
        { s with pos := { s.pos with schedule := s.pos.schedule.erase e } })

/-- Take every application event that has fired. Each on event schedules at most one off event, and an off event none, so
twice the schedule's length bounds the firings. -/
def takeFiredApps (s : State) : State := fireDueApps (2 * s.pos.schedule.length) s

/-- The hand-over of a new V to the Application Unit (05 R82): events that have fired under the old leads are taken
first (log entry 3), then the leads are computed, the pending events move, and those the move leaves behind the
high-water mark fire. -/
def recomputeLeads (s : State) : State :=
  let t := takeFiredApps s
  takeFiredApps (moveEvents (computeLeads (fun k => (appOf t k).enabled) t))

end Sys2Proof.Machine
end

