-- ==== Sys2Proof/Machine/InspectionOps.lean ====
section
/-! DEFINITION. The Inspection Unit's shared operations: measurements, edges, results and removal (chapter 06). -/

namespace Sys2Proof.Machine

/-- Inspection channel `j` in the table in force. -/
def inspOf (s : State) (j : Fin 8) : InspSettings := getAt s.store.inForce.insps j

/-- The record of inspection channel `j`. -/
def inspChannel (s : State) (j : Fin 8) : InspChannel := getAt s.insp j

/-- Whether channel `j` is an enabled PRESENCE channel. -/
def isPresence (s : State) (j : Fin 8) : Bool := (inspOf s j).enabled && (inspOf s j).kind == .presence

/-- A blank's setting for channel `j`. -/
def settingOf (s : State) (r : Record) (j : Fin 8) : InspectionSetting := getAt (recipeOf s r.slot).settings j

/-- The position of angle `a` at channel `j`'s station for the blank of cut pitch `n` (06 R98). -/
def inspAt (s : State) (j : Fin 8) (n : U32) (a : Nat) : Pos :=
  posAt (n + BitVec.ofNat 32 (inspOf s j).station) a

/-- The events of channel `j` for a blank (06 R98). -/
def inspEvents (s : State) (r : Record) (j : Fin 8) : List Pending :=
  let c := inspOf s j
  let x := settingOf s r j
  if c.enabled && x.enabled then
    match c.kind with
    | .presence => []
    | .span => [plainEvent (inspAt s j r.cutPitch x.on) (.inspOpen j r.seq),
                plainEvent (inspAt s j r.cutPitch x.off) (.inspEnd j r.seq)]
    | .count => [plainEvent (inspAt s j r.cutPitch x.on) (.inspOpen j r.seq),
                 plainEvent (inspAt s j r.cutPitch x.off) (.inspEnd j r.seq)]
    | .level => [plainEvent (inspAt s j r.cutPitch x.on) (.inspSample j r.seq)]
  else []

/-- The Inspection Unit takes a newly announced blank (06 R98). -/
def announceInsp (r : Record) (s : State) : State :=
  { s with pos := { s.pos with schedule := s.pos.schedule ++ allInsps.flatMap (inspEvents s r) } }

/-- Inspection events of blank `q`. -/
def inspEventOf (q : U32) (e : Scheduled) : Bool := isInspEvent e && eventBlank e == some q

/-- Whether channel `j` measures blank `q`. -/
def measures (s : State) (j : Fin 8) (q : U32) : Bool :=
  match (inspChannel s j).measurement with
  | some m => m.seq == q
  | none => false

/-- The announcement of a removal at the Inspection Unit (06 R108). -/
def removalInsp (q : U32) (s : State) : State :=
  allInsps.foldl (fun t j => if measures t j q then modifyInsp j (fun c => { c with measurement := none }) t else t)
    (withdraw (inspEventOf q) s)

/-- A new result of channel `j` (06 R109). -/
def makeResult (j : Fin 8) (x : InspResult) (s : State) : State :=
  modifyInsp j (fun c => { c with result := some x, overrun := c.overrun || c.ready, ready := true }) s

/-- Set the inspection value of channel `j` in a record (03 R47). -/
def setValue (q : U32) (j : Fin 8) (v : Nat) (s : State) : State :=
  amendRecord q (fun r => { r with values := put r.values j (some v) }) s

/-- A measurement of value `v` on record `r` is complete (06 R107). -/
def completeMeasurement (j : Fin 8) (r : Record) (v : Nat) (s : State) : State :=
  let x := settingOf s r j
  let ok := within x.low x.high v
  let t := setValue r.seq j v s
  let u := if ok then t else addDefect r.seq x.cls t
  modifyInsp j (fun c => { c with measurement := none })
    (makeResult j ⟨some r.seq, r.cutPitch, v, if ok then .pass else .fail⟩ u)

/-- A SPAN or COUNT window opens for blank `q` at position `start` (06 R104, R105). -/
def openMeasurement (j : Fin 8) (q : U32) (start : Pos) (s : State) : State :=
  match findRecord s q with
  | none => s
  | some r =>
    let active := digitalRead s (inspOf s j).line && (inspOf s j).kind == .span
    let m : Measurement :=
      ⟨q, r.cutPitch, start, inspAt s j r.cutPitch (settingOf s r j).off, 0, if active then some start else none⟩
    modifyInsp j (fun c => { c with measurement := some m }) s

/-- The value of a measurement at its window end: an open segment runs to the end position (06 R104). -/
def finalValue (m : Measurement) : Nat :=
  match m.segment with
  | some x => m.value + (posDist x m.finish).toNat
  | none => m.value

/-- A SPAN or COUNT window ends for blank `q` (06 R104, R105). -/
def endMeasurement (j : Fin 8) (q : U32) (s : State) : State :=
  match (inspChannel s j).measurement, findRecord s q with
  | some m, some r => if m.seq = q then completeMeasurement j r (finalValue m) s else s
  | _, _ => s

/-- A LEVEL channel samples its line for blank `q` (06 R106). -/
def sampleMeasurement (j : Fin 8) (q : U32) (reading : Int) (s : State) : State :=
  match findRecord s q with
  | none => s
  | some r => completeMeasurement j r (analogRead s (inspOf s j).line reading) s

/-- The measurement of a SPAN channel after an edge at high-water mark `x` (06 R104). -/
def spanEdge (rising : Bool) (x : Pos) (m : Measurement) : Measurement :=
  let y := posLater m.start x
  match rising, m.segment with
  | true, none => { m with segment := some y }
  | false, some b => { m with value := m.value + (posDist b y).toNat, segment := none }
  | _, _ => m

/-- The measurement of a COUNT channel after an edge; `atMark` says that the reverse depth is 0 (06 R105). -/
def countEdge (rising atMark : Bool) (m : Measurement) : Measurement :=
  if rising && atMark then { m with value := min (m.value + 1) 255 } else m

/-- The record of a channel of settings `c` after an edge of its line (06 R100, R104, R105). -/
def channelEdge (c : InspSettings) (rising : Bool) (s : State) (x : InspChannel) : InspChannel :=
  match c.kind with
  | .presence => { x with watch := x.watch.map (fun w => { w with seen := w.seen || rising }) }
  | .span => { x with measurement := x.measurement.map (spanEdge rising s.pos.hwm) }
  | .count => { x with measurement := x.measurement.map (countEdge rising (s.pos.depth == 0)) }
  | .level => x

/-- An edge of line `l` at the Inspection Unit (06 R97): every enabled channel that names the line takes it. -/
def inspEdge (l : Fin 16) (rising : Bool) (s : State) : State :=
  allInsps.foldl (fun t j =>
    if (inspOf s j).enabled && (inspOf s j).line == l then modifyInsp j (channelEdge (inspOf s j) rising s) t else t) s

/-- Every PRESENCE channel's consecutive-loss count becomes 0 (06 R102). -/
def clearLosses (s : State) : State :=
  allInsps.foldl (fun t j => if isPresence s j then modifyInsp j (fun c => { c with losses := 0 }) t else t) s

/-- Every open watch becomes absent without a judgement (06 R112). -/
def dropWatches (s : State) : State :=
  allInsps.foldl (fun t j => modifyInsp j (fun c => { c with watch := none }) t) s

end Sys2Proof.Machine
end

