-- ==== Sys2Proof/Machine/OrderOps.lean ====
section
/-! DEFINITION. The Order Unit's shared operations: activation, selection, departure, early notice (chapter 07). -/

namespace Sys2Proof.Machine

/-- Change the feed state. -/
def setFeed (f : FeedState) (s : State) : State := { s with orders := { s.orders with feedState := f } }

/-- The tag of the next order, 0 when there is none. -/
def nextTag (s : State) : Nat :=
  match nextOrder s with
  | some o => o.tag
  | none => 0

/-- The early-notice test of R131 for the order of tag `t`. -/
def earlyTest (t : Nat) (s : State) : State :=
  match findOrder s t with
  | none => s
  | some o =>
    let left : Int := (o.quantity : Int) - passedOf s o
    if 0 < o.early ∧ o.earlySent = false ∧ left ≤ o.early then
      modifyOrder t (fun x => { x with earlySent := true }) (offer (.earlyEnd t left.toNat) s)
    else s

/-- The activation of order `o` (07 R119). The hold reason GUM_SUPPLY follows by R123's condition. -/
def activate (o : Order) (s : State) : State :=
  let t := modifyOrder o.tag (fun x => { x with state := .active }) s
  let u := { t with orders := { t.orders with feedState := .feeding, runningClass := some (formatClassOf s o) } }
  earlyTest o.tag (updateSource u)

/-- Whether the next order `o` may be activated by a selection: its class is the running class, or there is none. -/
def classFits (s : State) (o : Order) : Bool :=
  match s.orders.runningClass with
  | none => true
  | some c => formatClassOf s o == c

/-- A selection (07 R120). -/
def select (s : State) : State :=
  match nextOrder s with
  | none => setFeed .noOrder s
  | some o => if classFits s o then activate o s else offer (.feedWait true o.tag) (setFeed .changeover s)

/-- In CHANGEOVER the Order Unit looks at the next order again (07 R121). -/
def reexamine (s : State) : State :=
  if s.orders.feedState = .changeover then
    match nextOrder s with
    | none => setFeed .noOrder s
    | some o => if s.orders.runningClass = some (formatClassOf s o) then activate o s else s
  else s

/-- The ACTIVE order has stopped being ACTIVE other than by hand-over; `hold` is its HOLD_AFTER (07 R121). -/
def afterActive (hold : Bool) (s : State) : State :=
  updateSource (if hold then offer (.feedWait false (nextTag s)) (setFeed .suspended s) else select s)

/-- Whether a record of the order with tag `t` is in transit. -/
def inTransit (s : State) (t : Nat) : Bool := s.track.records.any (fun r => r.tag == t)

/-- The end state with which order `o`, with no record in transit, leaves the list; none where it stays (07 R130). -/
def endStateOf (o : Order) : Option EndState :=
  if o.delivered = o.quantity then some .complete
  else if o.aborted then some .aborted
  else if o.state = .feedDone then some .short
  else none

/-- The shortfall of R130's table. -/
def shortfallOf (o : Order) (e : EndState) : Nat :=
  match e with
  | .complete => 0
  | _ => o.quantity - o.delivered

/-- Take the order of a tag out of the list. -/
def removeOrder (t : Nat) (s : State) : State :=
  { s with orders := { s.orders with list := s.orders.list.eraseP (fun o => o.tag == t) } }

/-- The departure of order `o` with end state `e` (07 R130). -/
def depart (o : Order) (e : EndState) (s : State) : State :=
  let t := offer (.orderEnd o.tag e o.delivered o.boxesClosed (shortfallOf o e)) (refDown o.slot (removeOrder o.tag s))
  reexamine (updateSource (if o.state = .active then afterActive o.holdAfter t else t))

/-- The completion test of R130 for the order of tag `t`. -/
def completionTest (t : Nat) (s : State) : State :=
  match findOrder s t with
  | none => s
  | some o =>
    if inTransit s t then s
    else match endStateOf o with
      | none => s
      | some e => depart o e s

/-- The hand-over from order `a` to order `n` within a feed event (07 R128). -/
def handOver (a n : Order) (s : State) : State :=
  completionTest a.tag (activate n (modifyOrder a.tag (fun x => { x with state := .feedDone }) s))

/-- The OPEN records of the order with tag `t`, by sequence number. -/
def openSeqs (s : State) (t : Nat) : List U32 :=
  (s.track.records.filter (fun r => r.tag == t && r.stage == .opened)).map Record.seq

/-- Every OPEN record of an order receives ABORTED, each with its hand-over (07 R132). -/
def markAborted (t : Nat) (s : State) : State :=
  (openSeqs s t).foldl (fun u q => addDefect q .aborted u) s

end Sys2Proof.Machine
end

