-- ==== Sys2Proof/Machine/DeliveryOps.lean ====
section
/-! DEFINITION. The Delivery Unit's shared operations: projection, box closes and takes (chapter 08); and the removal
of a record (03 R50), which every unit's state takes part in. -/

namespace Sys2Proof.Machine

/-- The gate position of the blank of cut pitch `n` (08 R136). -/
def gatePos (s : State) (n : U32) : Pos :=
  posAt (n + BitVec.ofNat 32 s.store.inForce.general.gateOffset) s.store.inForce.general.gateAngle

/-- The delivery position of the blank of cut pitch `n` (08 R136). -/
def deliveryPos (s : State) (n : U32) : Pos :=
  posAt (n + BitVec.ofNat 32 s.store.inForce.general.deliveryOffset) s.store.inForce.general.deliveryAngle

/-- The Delivery Unit takes a newly announced blank (08 R136). -/
def announceDelivery (r : Record) (s : State) : State :=
  { s with pos := { s.pos with schedule := s.pos.schedule ++
      [plainEvent (gatePos s r.cutPitch) (.gate r.seq), plainEvent (deliveryPos s r.cutPitch) (.delivery r.seq)] } }

/-- Gate and delivery events of blank `q`. -/
def deliveryEventOf (q : U32) (e : Scheduled) : Bool := isDeliveryEvent e && eventBlank e == some q

/-! ## Removal of a record (03 R50) -/

/-- A removal that empties the list in DRAINING makes the run state IDLE (09 R154). -/
def drainTest (s : State) : State :=
  if s.track.records = [] ∧ s.line.run = .draining then setRun .idle s else s

/-- The removal of record `r`, counted under `cs` (03 R50): list, reference count, counters, then the announcement to
the Application, Inspection, Delivery and Order units, and Line Control's test. -/
def removeRecord (r : Record) (cs : List Counter) (s : State) : State :=
  let t := { s with track := { s.track with records := s.track.records.eraseP (fun x => x.seq == r.seq) } }
  let u := countAll cs (refDown r.slot t)
  let v := withdraw (deliveryEventOf r.seq) (removalInsp r.seq (removalApp r.seq u))
  drainTest (completionTest r.tag v)

/-! ## Projection (08 R140) -/

/-- Closes and projected box after one more delivery of order `o`; `final` says that it is the order's Q-th. -/
def project (o : Order) (final : Bool) (p : Option ProjectedBox) : Nat × Option ProjectedBox :=
  let change : Nat := match p with
    | some b => if b.order = o.id then 0 else 1
    | none => 0
  let n : Nat := match p with
    | some b => if b.order = o.id then b.count + 1 else 1
    | none => 1
  if n = o.boxQuantity ∨ final then (change + 1, none) else (change, some ⟨o.id, o.tag, n⟩)

/-- One COMMITTED record in the replay: `done` gives the deliveries replayed so far, by tag. -/
def replayOne (s : State) (acc : Nat × Option ProjectedBox × List Nat) (r : Record) :
    Nat × Option ProjectedBox × List Nat :=
  match findOrder s r.tag with
  | none => acc
  | some o =>
    let x := project o (o.delivered + acc.2.2.count r.tag + 1 == o.quantity) acc.2.1
    (acc.1 + x.1, x.2, r.tag :: acc.2.2)

/-- The projected box that an open box stands for. -/
def projectedOf (b : Box) : ProjectedBox := ⟨b.order, b.tag, b.count⟩

/-- The replay of R140 from the open box: K and the projected box. -/
def replay (s : State) : Nat × Option ProjectedBox :=
  let x := (s.track.records.filter (fun r => r.stage == .committed)).foldl (replayOne s)
    (0, s.deliv.openBox.map projectedOf, [])
  (x.1, x.2.1)

/-- Work out K and the projected box anew by the replay (08 R146, R149). -/
def rebuildProjection (s : State) : State :=
  { s with deliv := { s.deliv with committedCloses := (replay s).1, projected := (replay s).2 } }

/-! ## Boxes (08 R143, R144) -/

/-- The separator pulse starts or restarts (08 R144). -/
def startSeparator (s : State) : State :=
  let t := withdraw (fun e => e == .separatorEnd) { s with deliv := { s.deliv with separator := true } }
  schedule (plainEvent (posAdd s.pos.hwm s.store.inForce.general.separatorLength) .separatorEnd) t

/-- Add an entry to the Box Log, the oldest of 32 leaving it (08 R147). -/
def logBox (b : Box) (why : CloseReason) (s : State) : State :=
  let kept := if s.deliv.log.length < 32 then s.deliv.log else s.deliv.log.drop 1
  let e : BoxEntry := ⟨s.deliv.nextBox, b.tag, b.number, b.count, why, pitchNumber s⟩
  { s with deliv := { s.deliv with log := kept ++ [e], nextBox := s.deliv.nextBox + 1#32 } }

/-- The boxes closed of the box's order rises by 1 when that order is still in the list (08 R143). -/
def creditOrder (b : Box) (s : State) : State :=
  let credit (o : Order) : Order := if o.id == b.order then { o with boxesClosed := o.boxesClosed + 1 } else o
  { s with orders := { s.orders with list := s.orders.list.map credit } }

/-- The close of the open box `b` (08 R143); `byDelivery` lowers K. -/
def closeOpenBox (b : Box) (why : CloseReason) (byDelivery : Bool) (s : State) : State :=
  let q := s.deliv.nextBox
  let k := if byDelivery then s.deliv.committedCloses - 1 else s.deliv.committedCloses
  let t := { s with deliv := { s.deliv with waiting := s.deliv.waiting + 1, committedCloses := k } }
  let u := startSeparator (creditOrder b (count .boxesClosed (logBox b why t)))
  let v := if b.quiet then u else offer (.boxClosed q) u
  { v with deliv := { v.deliv with openBox := none } }

/-! ## Takes (08 R145) -/

/-- One take. -/
def take (s : State) : State :=
  if 0 < s.deliv.waiting then { s with deliv := { s.deliv with waiting := s.deliv.waiting - 1 } }
  else offer .takeSpurious s

/-- `n` takes, one after another. -/
def takes : Nat → State → State
  | 0, s => s
  | n + 1, s => takes n (take s)

/-- An edge of line `l` at the Delivery Unit: each rising edge of the take source line is one take (08 R145). -/
def takeEdge (l : Fin 16) (rising : Bool) (s : State) : State :=
  if rising && s.store.inForce.general.takeSource == .line l then take s else s

/-! ## Gate (08 R137 to R141) -/

/-- The cause counter of a defect class (08 R138). -/
def causeCounter : DefectClass → Counter
  | .register => .rejectRegister
  | .window => .rejectWindow
  | .gum => .rejectGum
  | .fold => .rejectFold
  | .thickness => .rejectThickness
  | .sample => .rejectSample
  | .aborted => .rejectAborted

/-- The classes in the order of causes (08 R138). -/
def causeOrder : List DefectClass := [.register, .window, .gum, .fold, .thickness, .sample, .aborted]

/-- The primary cause of a set of rejecting classes (08 R138). -/
def primaryCause (d : BitVec 7) : Option DefectClass := causeOrder.find? (hasDefect d)

/-- Closes and projected box if blank `r` of order `o` passed now (08 R140). -/
def passClosesOf (s : State) (o : Order) : Nat × Option ProjectedBox :=
  project o (passedOf s o + 1 == o.quantity) s.deliv.projected

/-- The room check of R141. -/
def hasRoom (s : State) (o : Order) : Bool :=
  decide (s.deliv.waiting + s.deliv.committedCloses + (passClosesOf s o).1 ≤ 4)

/-- The cause counter of a reject at the gate, none for a pass (08 R137). -/
def gateCause (s : State) (r : Record) (o : Order) : Option Counter :=
  match primaryCause (rejectClasses s r) with
  | some c => some (causeCounter c)
  | none =>
    if passedOf s o = o.quantity then some .rejectSurplus
    else if hasRoom s o then none else some .rejectNoRoom

/-- A reject taken at gate position `x` (08 R138). -/
def gateReject (r : Record) (c : Counter) (x : Pos) (s : State) : State :=
  let t := removeRecord r [.rejected, c] s
  let u := withdraw (fun e => e == .rejectGateEnd) { t with deliv := { t.deliv with rejectGate := true } }
  schedule (plainEvent (posAdd x 3600) .rejectGateEnd) u

/-- A pass at the gate (08 R139). -/
def gatePass (r : Record) (o : Order) (s : State) : State :=
  let c := passClosesOf s o
  let t := amendRecord r.seq (fun x => { x with stage := .committed }) s
  let u := { t with deliv := { t.deliv with
    committedCloses := s.deliv.committedCloses + c.1, projected := c.2 } }
  let v := if r.defects = 0#7 then u else count .passedMasked u
  earlyTest o.tag v

/-- The gate event of blank `q` at position `x` (08 R137). One that finds no record or no order does not arise and
has no effect (log entry 24). -/
def gateAt (q : U32) (x : Pos) (s : State) : State :=
  match findRecord s q with
  | none => s
  | some r =>
    match findOrder s r.tag with
    | none => s
    | some o =>
      match gateCause s r o with
      | some c => gateReject r c x s
      | none => gatePass r o s

/-! ## Delivery (08 R142) -/

/-- Step 1 of R142: a box of another order is closed ORDER_CHANGE. -/
def deliverChange (o : Order) (s : State) : State :=
  match s.deliv.openBox with
  | some b => if b.order = o.id then s else closeOpenBox b .orderChange true s
  | none => s

/-- Step 2 of R142: the blank of order `o` enters the open box, or a new one. -/
def deliverEntry (o : Order) (s : State) : State :=
  let b : Box := s.deliv.openBox.getD ⟨o.id, o.tag, o.boxesClosed + 1, 0, o.boxQuantity, o.quiet⟩
  modifyOrder o.tag (fun x => { x with delivered := x.delivered + 1 })
    { s with deliv := { s.deliv with openBox := some { b with count := b.count + 1 } } }

/-- Step 3 of R142: the box is closed FINAL at the order's Q-th envelope, else FULL at B. -/
def deliverClose (o : Order) (s : State) : State :=
  match s.deliv.openBox with
  | none => s
  | some b =>
    if o.delivered = o.quantity then closeOpenBox b .final true s
    else if b.count = b.boxQuantity then closeOpenBox b .full true s
    else s

/-- The delivery event of blank `q` (08 R142). One that finds no record or no order does not arise and has no effect
(log entry 24). -/
def deliverAt (q : U32) (s : State) : State :=
  match findRecord s q with
  | none => s
  | some r =>
    match findOrder s r.tag with
    | none => s
    | some o =>
      let t := deliverEntry o (deliverChange o s)
      let u := match findOrder t r.tag with
        | some o' => deliverClose o' t
        | none => t
      removeRecord r [.deliveredGood] u

/-- The reject-gate end (08 R138). -/
def endRejectGate (s : State) : State := { s with deliv := { s.deliv with rejectGate := false } }

/-- The separator pulse end (08 R144). -/
def endSeparator (s : State) : State := { s with deliv := { s.deliv with separator := false } }

end Sys2Proof.Machine
end

