-- ==== Sys2Proof/Machine/EventOps.lean ====
section
/-! DEFINITION. What each station event does when it is taken (chapters 04 to 08), and the taking of events that have
fired (01 R11, R15, R16). -/

namespace Sys2Proof.Machine

/-! ## Feed event (07 R125 to R128) -/

/-- The hand-over test of R125. -/
def handOverTest (s : State) : State :=
  match activeOrder s, nextOrder s with
  | some a, some n =>
    if s.orders.feedState = .feeding ∧ isStartable s ∧ needOf s a = 0 then handOver a n s else s
  | _, _ => s

/-- The order that the blank of a feed event is accepted for, none when it is diverted (07 R125). -/
def acceptingOrder (s : State) : Option Order :=
  match activeOrder s with
  | some o =>
    if s.line.run = .running ∧ s.orders.feedState = .feeding ∧ holdReasons s = 0#5 ∧ 0 < needOf s o then some o
    else none
  | none => none

/-- The record of the blank cut at pitch `p` for order `o` (03 R42). -/
def newRecord (s : State) (p : U32) (o : Order) : Record where
  seq := s.track.nextSeq
  cutPitch := p
  tag := o.tag
  slot := o.slot
  stage := .opened
  verdict := verdictOf s p
  error := errorOf s p
  defects := (if verdictOf s p = some .outOfRegister then oneDefect .register else 0#7)
    ||| (if 0 < s.orders.countdown then oneDefect .sample else 0#7)
  applied := 0#12
  suppressed := 0#12
  values := Vector.replicate 8 none

/-- The Tracking Unit creates a record (03 R42, R43): the record joins the tail, the slot's reference count rises and
ACCEPTED is counted. -/
def createRecord (r : Record) (s : State) : State :=
  count .accepted (refUp r.slot
    { s with track := { records := s.track.records ++ [r], nextSeq := s.track.nextSeq + 1#32 } })

/-- The announcement of a new blank (03 R42). -/
def announce (r : Record) (s : State) : State := announceDelivery r (announceInsp r (announceApp r s))

/-- Set the FEED_GATE output (07 R126). -/
def setFeedGate (b : Bool) (s : State) : State := { s with orders := { s.orders with feedGate := b } }

/-- A sample taken from the countdown (07 R127). -/
def countdownStep (s : State) : State :=
  { s with orders := { s.orders with countdown := s.orders.countdown - 1 } }

/-- The blank of pitch `p` is accepted for order `o` (07 R127). -/
def acceptBlank (p : U32) (o : Order) (s : State) : State :=
  let r := newRecord s p o
  setFeedGate false (countdownStep (announce r (createRecord r s)))

/-- The blank is diverted (07 R126). -/
def divertBlank (s : State) : State := setFeedGate true (count .diverted s)

/-- The feed event of pitch `p` (07 R125). -/
def feedAt (p : U32) (s : State) : State :=
  let t := handOverTest (count .cutTotal s)
  match acceptingOrder t with
  | some o => acceptBlank p o t
  | none => divertBlank t

/-! ## PRESENCE events (06 R99 to R102) -/

/-- The event at angle 100 of pitch `p` (06 R99). In IDLE no watch opens. -/
def watchOpenAt (j : Fin 8) (p : U32) (s : State) : State :=
  if isPresence s j && s.line.run != .idle then
    modifyInsp j (fun c => { c with watch := some ⟨p, digitalRead s (inspOf s j).line⟩ }) s
  else s

/-- A watch ends with no judgement, or with its judgement following. -/
def endWatch (j : Fin 8) (s : State) : State := modifyInsp j (fun c => { c with watch := none }) s

/-- The cut pitch that a watch of pitch `p` on channel `j` looks for (06 R101). -/
def soughtPitch (s : State) (j : Fin 8) (p : U32) : U32 := p - BitVec.ofNat 32 (inspOf s j).station

/-- Judgement PASS for record `r` (06 R101). -/
def watchPass (j : Fin 8) (r : Record) (s : State) : State :=
  makeResult j ⟨some r.seq, r.cutPitch, 1, .pass⟩
    (modifyInsp j (fun c => { c with losses := 0 }) (setValue r.seq j 1 s))

/-- Judgement LOST for record `r` (06 R101, R102): the record is removed LOST, and a count of 2 or more reports
TRACKING. -/
def watchLost (j : Fin 8) (r : Record) (s : State) : State :=
  let t := makeResult j ⟨some r.seq, r.cutPitch, 0, .lost⟩
    (modifyInsp j (fun c => { c with losses := min (c.losses + 1) 255 }) s)
  let u := removeRecord r [.lost] t
  if 2 ≤ (inspChannel t j).losses then report .tracking u else u

/-- Judgement UNEXPECTED (06 R101). -/
def watchUnexpected (j : Fin 8) (cut : U32) (s : State) : State :=
  report .tracking (makeResult j ⟨none, cut, 1, .unexpected⟩ s)

/-- The event at angle 3500 of pitch `p` (06 R99, R101). -/
def watchEndAt (j : Fin 8) (p : U32) (s : State) : State :=
  if isPresence s j then
    match (inspChannel s j).watch with
    | none => s
    | some w =>
      let t := endWatch j s
      if s.line.run = .idle ∨ w.pitch ≠ p then t
      else match s.track.records.find? (fun r => r.cutPitch == soughtPitch s j p), w.seen with
        | some r, true => watchPass j r t
        | some r, false => watchLost j r t
        | none, true => watchUnexpected j (soughtPitch s j p) t
        | none, false => t
  else s

/-! ## Taking events -/

/-- A fired recurring event is taken; its pitch is that of its position. -/
def fireRecurring (e : Recurring) (x : Pos) (s : State) : State :=
  match e with
  | .feed => feedAt (posPitch x) s
  | .captureArm => armWindow (posPitch x) s
  | .windowClose => closeWindow s
  | .watchOpen j => watchOpenAt j (posPitch x) s
  | .watchEnd j => watchEndAt j (posPitch x) s

/-- A fired scheduled event is taken; `reading` is what the converter reads for a sample. -/
def firePending (e : Pending) (reading : Int) (s : State) : State :=
  match e.event with
  | .appOn q k i d => judgeOn q k i d s
  | .appOff q k i d => judgeOff q k i d s
  | .inspOpen j q => openMeasurement j q e.pos s
  | .inspEnd j q => endMeasurement j q s
  | .inspSample j q => sampleMeasurement j q reading s
  | .gate q => gateAt q e.pos s
  | .delivery q => deliverAt q s
  | .rejectGateEnd => endRejectGate s
  | .separatorEnd => endSeparator s

/-- An event that has fired and is not yet taken. -/
inductive DueEvent where
  | recurring (f : Fired)
  | scheduled (e : Pending)
  deriving DecidableEq, Repr

/-- The position at which a due event fired, or was to fire. -/
def duePos : DueEvent → Pos
  | .recurring f => f.pos
  | .scheduled e => e.pos

/-- Every due event. -/
def dueEvents (s : State) : List DueEvent :=
  s.pos.due.map .recurring ++ (s.pos.schedule.filter (isDue s.pos.hwm)).map .scheduled

/-- The due events of the earliest position. -/
def earliestDue (s : State) : List DueEvent :=
  (dueEvents s).filter (fun e =>
    (dueEvents s).all (fun f => decide (posDist s.pos.hwm (duePos e) ≤ posDist s.pos.hwm (duePos f))))

/-- Move on to the next free value. -/
def bumpFree (s : State) : State := { s with freeIndex := s.freeIndex + 1 }

/-- Take one due event on the part's own account. -/
def takeDue (e : DueEvent) (s : State) : State :=
  match e with
  | .recurring f => fireRecurring f.event f.pos { s with pos := { s.pos with due := s.pos.due.erase f } }
  | .scheduled p =>
    let t := { s with pos := { s.pos with schedule := s.pos.schedule.erase p } }
    match p.event with
    | .inspSample _ _ => firePending p (Config.analogReading s.freeIndex) (bumpFree t)
    | _ => firePending p 0 t

/-- The due event the part takes next on its own, and the state with its choice spent: among several of one position
a free value chooses (log entry 3). -/
def chooseDue (s : State) : Option (DueEvent × State) :=
  match earliestDue s with
  | [] => none
  | [e] => some (e, s)
  | e :: es => some ((e :: es).getD (Config.eventChoice s.freeIndex % (es.length + 1)) e, bumpFree s)

/-- Take due events on the part's own account, at most `fuel` of them. -/
def drainDue : Nat → State → State
  | 0, s => s
  | fuel + 1, s =>
    match chooseDue s with
    | none => s
    | some (e, t) => drainDue fuel (takeDue e t)

/-- As many events as one blank may ask for at its announcement, whatever its slot: those of the cam entries (05 R79), two for
each inspection channel (06 R98), and its gate and delivery (08 R136). -/
def blankEvents (s : State) : Nat :=
  18 + (s.store.slots.toList.map (fun x => (x.recipe.cams.map (fun e => (dotNumbers e).length)).sum)).sum

/-- How many events `settle` may have to take: every scheduled one and the end it asks for, and with each fired recurring
event those that a blank asks for at once (01 R15), each with its end. -/
def drainBound (s : State) : Nat := (1 + 2 * blankEvents s) * s.pos.due.length + 2 * s.pos.schedule.length

/-- Take every event that has fired, before the high-water mark moves or is placed anew, or a table that fires them
elsewhere comes into force (01 R11: an event fires at the step that brings the high-water mark to its position; log
entry 3). -/
def settle (s : State) : State := drainDue (drainBound s) s

end Sys2Proof.Machine
end

