-- ==== Sys2Proof/Machine/RingOps.lean ====
section
/-! DEFINITION. Cycle frames (11 R172 to R175, R179, R181): the check, slots and records, and the handling of a
management request. -/

namespace Sys2Proof.Machine

/-! ## Frame check (11 R173) -/

/-- One bit of the CRC-32, generator 04C11DB7 hexadecimal, least significant bit first. -/
def crcBit (c : BitVec 32) : BitVec 32 :=
  if c.getLsbD 0 then (c >>> 1) ^^^ 0xEDB88320#32 else c >>> 1

/-- One byte of the CRC-32. -/
def crcByte (c : BitVec 32) (b : Byte) : BitVec 32 :=
  crcBit (crcBit (crcBit (crcBit (crcBit (crcBit (crcBit (crcBit (c ^^^ b.zeroExtend 32))))))))

/-- The CRC-32 of a byte list: initial value all ones, remainder inverted (log entry 12). -/
def crc32 (bs : List Byte) : BitVec 32 := ~~~ bs.foldl crcByte 0xFFFFFFFF#32

/-! ## Frame layout (11 R172) -/

def slotCount (f : List Byte) : Nat := u8 f 4

def recordCount (f : List Byte) : Nat := u8 f 5

/-- First byte of slot `i`. -/
def slotOff (i : Nat) : Nat := 8 + 16 * i

/-- First byte of management record `j`. -/
def recordOff (f : List Byte) (j : Nat) : Nat := 8 + 16 * slotCount f + 56 * j

/-- The length that the counts give. -/
def statedLength (f : List Byte) : Nat := 12 + 16 * slotCount f + 56 * recordCount f

/-- Everything before the check field. -/
def frameBody (f : List Byte) : List Byte := f.take (f.length - 4)

/-- The LINE_STOP flag of a frame. -/
def lineStopFlag (f : List Byte) : Bool := (f.getD 1 0#8).getLsbD 0

/-- The DAMAGED flag of a frame. -/
def damagedFlag (f : List Byte) : Bool := (f.getD 1 0#8).getLsbD 7

/-- Whether a received frame is damaged (11 R173). -/
def isDamaged (f : List Byte) : Bool :=
  decide (32 < slotCount f) || decide (4 < recordCount f) || f.length != statedLength f || damagedFlag f
    || u32 f (f.length - 4) != (crc32 (frameBody f)).toNat

/-- Overwrite bytes from byte `i` on. -/
def setBytes (f : List Byte) (i : Nat) (bs : List Byte) : List Byte := f.take i ++ bs ++ f.drop (i + bs.length)

/-- A damaged frame leaves with its DAMAGED flag set (11 R174). -/
def markDamaged (f : List Byte) : List Byte := f.modify 1 (fun b => b ||| 0x80#8)

/-- A frame with its check computed over it as it stands (11 R175, step 6). -/
def withCheck (f : List Byte) : List Byte := frameBody f ++ le32 (crc32 (frameBody f)).toNat

/-! ## Slots (11 R179, R180) -/

/-- The notice count with the overflow flag in bit 7. -/
def noticeByte (s : State) : Nat := s.notices.queue.length + (if s.notices.overflow then 128 else 0)

/-- The STATUS payload (11 R172, R179). -/
def statusPayload (s : State) : List Byte :=
  le8 (codeRun s.line.run) ++ le8 (codeFeed s.orders.feedState) ++ le8 (holdReasons s).toNat
    ++ le8 (codeReg s.reg.state) ++ le8 s.line.faults.toNat ++ le8 (noticeByte s)
    ++ leTag ((activeOrder s).map Order.tag) ++ le16 s.pos.speed ++ leInt16 s.reg.trim

/-- The last error D, 0 while the last capture is absent (04 R57). -/
def lastError (s : State) : Int :=
  match s.reg.last with
  | some c => c.error
  | none => 0

/-- The capture pitch, 0 while the last capture is absent (04 R57). -/
def capturePitch (s : State) : Nat :=
  match s.reg.last with
  | some c => c.pitch.toNat % 65536
  | none => 0

/-- The TRIM payload (11 R172, R179). -/
def trimPayload (s : State) : List Byte :=
  padTo 12 (leInt16 s.reg.trim ++ le8 (codeReg s.reg.state) ++ leInt16 (lastError s) ++ le16 (capturePitch s))

/-- Write slot `i` when this node is its writer (11 R179). -/
def writeSlot (s : State) (f : List Byte) (i : Nat) : List Byte :=
  if u8 f (slotOff i) = s.ring.node.toNat then
    match u8 f (slotOff i + 2) with
    | 1 => setBytes f (slotOff i + 3) (1#8 :: statusPayload s)
    | 2 => setBytes f (slotOff i + 3) (1#8 :: trimPayload s)
    | _ => f
  else f

/-- Write every STATUS and TRIM slot of this node (11 R179). -/
def writeSlots (s : State) (f : List Byte) : List Byte :=
  (List.range (slotCount f)).foldl (writeSlot s) f

/-- The reserved bytes of a frame's header are written 0 (11 R172; log entry 42). -/
def clearReserved (f : List Byte) : List Byte := setBytes f 6 [0#8, 0#8]

/-- The count of the first TAKE slot read by this node with its valid flag set (11 R180). -/
def takeSlot (s : State) (f : List Byte) : Option Byte :=
  ((List.range (slotCount f)).find? (fun i =>
    u8 f (slotOff i + 2) == 3 && u8 f (slotOff i + 1) == s.ring.node.toNat && u8 f (slotOff i + 3) == 1)).map
    (fun i => f.getD (slotOff i + 4) 0#8)

/-- Read the TAKE slot (11 R180). -/
def readTakes (f : List Byte) (s : State) : State :=
  match takeSlot s f with
  | none => s
  | some c =>
    let t := { s with ring := { s.ring with takeCount := some c } }
    match s.ring.takeCount with
    | none => t
    | some old => if s.store.inForce.general.takeSource = .ring then takes (c - old).toNat t else t

/-! ## Management records (11 R181) -/

/-- Whether record `j` is a REQUEST for node `n`. -/
def isRequestFor (n : Nat) (f : List Byte) (j : Nat) : Bool :=
  u8 f (recordOff f j) == n && u8 f (recordOff f j + 1) == 1

/-- The first record of a frame still to be answered by node `n`. -/
def nextRequest (n : Nat) (f : List Byte) : Option Nat :=
  (List.range (recordCount f)).find? (isRequestFor n f)

/-- The payload bytes in use of record `j`. A length above 48 runs over bytes that no record has, read as 0. -/
def recordArgs (f : List Byte) (j : Nat) : List Byte :=
  padTo (u8 f (recordOff f j + 4)) ((f.drop (recordOff f j + 8)).take (min (u8 f (recordOff f j + 4)) 48))

/-- Write a reply in the place of record `j` (11 R181). -/
def writeReply (f : List Byte) (j : Nat) (r : Reply) : List Byte :=
  setBytes (setBytes f (recordOff f j + 1) [2#8]) (recordOff f j + 4)
    ([BitVec.ofNat 8 r.payload.length, BitVec.ofNat 8 (codeResult r.result), 0#8, 0#8] ++ padTo 48 r.payload)

/-- The record of the frame now passing that a request of kind `kind` with `args` is, if any: the next to be
answered, when it is that request (log entry 6). -/
def carriedAs (kind : Nat) (args : List Byte) (s : State) : Option (List Byte × Nat) :=
  match s.ring.passage with
  | none => none
  | some f =>
    match nextRequest s.ring.node.toNat f with
    | none => none
    | some j => if u8 f (recordOff f j + 2) = kind ∧ recordArgs f j = args then some (f, j) else none

/-- The frame has passed the part (11 R175, step 6): it is forwarded with a new check, a long operation it started may
complete (R182) and a reset it asked for may take effect (09 R162). -/
def forwardFrame (f : List Byte) (s : State) : State :=
  { s with
    ring := { s.ring with sent := withCheck f, passage := none }
    mgmt := { s.mgmt with inFlight := s.mgmt.inFlight.map (fun o => { o with carried := false }) }
    line := { s.line with reset := if s.line.reset = .inFrame then .due else s.line.reset } }

/-- Forward the frame when no request of it is left to answer, else hold it. -/
def passFrame (f : List Byte) (s : State) : State :=
  match nextRequest s.ring.node.toNat f with
  | none => forwardFrame f s
  | some _ => { s with ring := { s.ring with passage := some f } }

/-- Answer a request: the reply is made, and written into the record that carried the request. `place` is where the
request stood as it was taken. -/
def giveReply (place : Option (List Byte × Nat)) (r : Reply) (s : State) : State :=
  let t := { s with reply := some r }
  match place with
  | none => t
  | some (f, j) => passFrame (writeReply f j r) t

/-- Whether a request can reach the part: not while the reset pin is held (09 R162), and never at node address 0 or
63 (11 R176). -/
def reachable (s : State) : Bool := !s.resetHeld && !repeating s

/-- What a command's meaning answers. -/
abbrev Result := Host.Outcome State Fault Refusal

/-- A reply without payload. -/
def bare (r : ResultCode) : Reply := ⟨r, []⟩

/-- A management request (11 R181): the length check, then the owner's rule, then the reply. `need` is the length of
the fields the kind needs. -/
def request (kind need : Nat) (args : List Byte) (own : State → State × Reply) (s : State) : State :=
  if reachable s then
    if args.length > 48 ∨ args.length < need then giveReply (carriedAs kind args s) (bare .badArg) s
    else giveReply (carriedAs kind args s) (own s).2 (own s).1
  else s

/-- The BUSY check of 02 R36, before any other check of the owner. -/
def unlessBusy (own : State → State × Reply) (s : State) : State × Reply :=
  if working s then (s, bare .busy) else own s

/-- An event of the part: none is examined or taken while the reset pin is held (09 R162). -/
def event (f : State → State) (s : State) : State := if s.resetHeld then s else f s

end Sys2Proof.Machine
end

