-- ==== Sys2Proof/Machine/LinesAndPosition.lean ====
section
/-! DEFINITION. Commands of chapter 01: position, output lines, encoder, speed windows and edges. -/

namespace Sys2Proof.Machine

/-! ## POSITION_SET (01 R14) -/

/-- The position record: pitch number, angle, high-water angle, reverse depth, V. -/
def positionRecord (s : State) : List Byte :=
  le32 (pitchNumber s).toNat ++ le16 (currentAngle s) ++ le16 (posAngle s.pos.hwm) ++ le32 s.pos.depth
    ++ le16 s.pos.speed

/-- The high-water mark and the angle are set and the reverse depth becomes 0. -/
def placeAt (a : Nat) (s : State) : State :=
  { s with pos := { s.pos with hwm := posAt (pitchNumber s) a, depth := 0 } }

/-- A pending event that belongs to no blank fires at once when the high-water mark has come to or beyond it. -/
def fireLoose (e : Scheduled) (f : State → State) (s : State) : State :=
  match takeScheduled e s with
  | none => s
  | some (_, t) => f t

/-- The reject-gate end and the separator pulse end, each where the mark now placed has come to it (log entry 34). -/
def fireEnds (s : State) : State := fireLoose .separatorEnd endSeparator (fireLoose .rejectGateEnd endRejectGate s)

/-- POSITION_SET's rule. Every event that has fired is taken before the mark is placed, so that none of it fires a second
time in its pitch (01 R16, 03 R44; log entry 34). -/
def positionSet (args : List Byte) (s : State) : State × Reply :=
  let a := u16 args 0
  if 3599 < a then (s, ⟨.badArg, positionRecord s⟩)
  else if s.line.run ≠ .idle then (s, ⟨.state, positionRecord s⟩)
  else
    let t := fireEnds (placeAt a (settle s))
    (t, ⟨.ok, positionRecord t⟩)

/-- POSITION_SET. -/
def execPositionSet (args : List Byte) (s : State) : Result :=
  .next (request 1 2 args (positionSet args) s)

/-! ## OUTPUT_SET (01 R8) -/

/-- Write the masked manual values. -/
def writeManual (mask values : BitVec 16) (s : State) : State :=
  { s with lines := { s.lines with
      outs := allLines.foldl (fun v i =>
        if mask.getLsbD i.val then put v i { getAt v i with manual := values.getLsbD i.val } else v) s.lines.outs } }

/-- Manual values, driven states and input levels, one bit a line. -/
def linesRecord (s : State) : List Byte :=
  le16 (lineSet (fun i => (getAt s.lines.outs i).manual)).toNat ++ le16 (lineSet (drivenState s)).toNat
    ++ le16 (lineSet (digitalRead s)).toNat

def outputSet (args : List Byte) (s : State) : State × Reply :=
  let t := writeManual (BitVec.ofNat 16 (u16 args 0)) (BitVec.ofNat 16 (u16 args 2)) s
  (t, ⟨.ok, linesRecord t⟩)

/-- OUTPUT_SET. -/
def execOutputSet (args : List Byte) (s : State) : Result :=
  .next (request 2 4 args (outputSet args) s)

/-! ## ENCODER_STEP (01 R10 to R12) -/

/-- The pair that follows a pair in forward motion, phase A leading (01 R10). -/
def forwardPair : PhasePair → PhasePair
  | ⟨false, false⟩ => ⟨true, false⟩
  | ⟨true, false⟩ => ⟨true, true⟩
  | ⟨true, true⟩ => ⟨false, true⟩
  | ⟨false, true⟩ => ⟨false, false⟩

/-- The recurring events at angle `a` (01 section 1.4, 04 R60, 06 R99). -/
def recurringAt (s : State) (a : Nat) : List Recurring :=
  (if a = s.store.inForce.general.feedAngle then [.feed] else [])
    ++ (match sectionInForce s with
        | some g => (if a + g.w = g.m then [.captureArm] else []) ++ (if a = g.m + g.w then [.windowClose] else [])
        | none => [])
    ++ (if a = 100 then (allInsps.filter (isPresence s)).map .watchOpen else [])
    ++ (if a = 3500 then (allInsps.filter (isPresence s)).map .watchEnd else [])

/-- The high-water mark rises by one count: the step counts for speed and the recurring events of the new angle fire.
A pitch crossing is the rise of the pitch part that comes with angle 0 (01 R11). -/
def advance (s : State) : State :=
  let x := s.pos.hwm + 1
  { s with pos := { s.pos with hwm := x, windowCount := s.pos.windowCount + 1,
                               due := s.pos.due ++ (recurringAt s (posAngle x)).map (fun e => ⟨e, x⟩) } }

/-- A forward step (01 R11). -/
def forwardStep (s : State) : State :=
  if 0 < s.pos.depth then { s with pos := { s.pos with depth := s.pos.depth - 1 } } else advance s

/-- A reverse step (01 R12). -/
def reverseStep (s : State) : State :=
  if 2147483647 ≤ s.pos.depth then report .encoder s
  else
    let t := { s with pos := { s.pos with depth := s.pos.depth + 1 } }
    if t.pos.depth = 3600 then report .reverse t else t

/-- A change of the phase pair to `pair` (01 R10), every event fired before it having been taken. -/
def encoderMove (pair : PhasePair) (s : State) : State :=
  if pair = s.pos.phases then s
  else
    let t := { s with pos := { s.pos with phases := pair } }
    if pair = forwardPair s.pos.phases then forwardStep t
    else if s.pos.phases = forwardPair pair then reverseStep t
    else report .encoder t

/-- ENCODER_STEP. -/
def execEncoderStep (pair : PhasePair) (s : State) : Result :=
  .next (event (fun t => encoderMove pair (settle t)) s)

/-! ## SPEED_WINDOW_END (01 R17, R18) -/

/-- Timebase elapsed since `t0`. -/
def elapsed (s : State) (t0 : U32) : Nat := (s.pos.timebase - t0).toNat

/-- The timebase comes to `n` µs after `t0` where it has not yet (log entry 5). -/
def timeAtLeast (t0 : U32) (n : Nat) (s : State) : State :=
  if elapsed s t0 < n then { s with pos := { s.pos with timebase := t0 + BitVec.ofNat 32 n } } else s

/-- A speed window ends (01 R18); a new V is handed to the Application Unit (05 R82). -/
def endWindow (s : State) : State :=
  let v := min s.pos.windowCount 4095
  let t := timeAtLeast s.pos.windowStart 10000 s
  let u := { t with pos := { t.pos with windowStart := s.pos.windowStart + 10000#32, windowCount := 0, speed := v } }
  if v = s.pos.speed then u else recomputeLeads u

/-- SPEED_WINDOW_END. -/
def execSpeedWindowEnd (s : State) : Result := .next (event endWindow s)

/-! ## EDGE_EVENT (01 R2) -/

/-- A change of the level of a DIGITAL line: its consumers take the edge (01 R2). An ANALOG line gives no edge, and
a level equal to the one sampled is no change. -/
def edgeAt (l : Fin 16) (level : Bool) (s : State) : State :=
  if s.lines.modes.getLsbD l.val then s
  else if s.lines.levels.getLsbD l.val = level then s
  else
    let t := setLevel l level s
    let u := if level then markEdge l t else t
    takeEdge l level (inspEdge l level u)

/-- EDGE_EVENT. -/
def execEdgeEvent (line : Fin 16) (level : Bool) (s : State) : Result := .next (event (edgeAt line level) s)

end Sys2Proof.Machine
end

