-- ==== Sys2Proof/Machine/Tables.lean ====
section
/-! DEFINITION. Requests on the Machine Table (chapter 02, section 2.1). -/

namespace Sys2Proof.Machine

/-- Whether every recipe slot is EMPTY. -/
def allEmpty (s : State) : Bool := allInsps.all (fun k => (getAt s.store.slots k).state == .empty)

/-- Table Lock, run state and slots, in the order in which a write and an apply check them (02 R21, R23). -/
def tableGuards (lock : Bool) (s : State) : Option ResultCode :=
  if lock then some .locked
  else if s.line.run ≠ .idle then some .state
  else if allEmpty s then none
  else some .inUse

/-! ## MACHINE_TABLE_WRITE (02 R21) -/

/-- Write one item into the working table. -/
def writeWorking (x : TableItem) (s : State) : State :=
  { s with store := { s.store with working := writeTableItem s.store.working x, validity := .invalid } }

def machineTableWrite (args : List Byte) (lock : Bool) (s : State) : State × Reply :=
  match parseTableItem (u8 args 0) (u8 args 1) (args.drop 2) with
  | .unknown => (s, bare .badArg)
  | .badField n => (s, ⟨.badArg, le8 n⟩)
  | .item x =>
    match tableGuards lock s with
    | some c => (s, bare c)
    | none => (writeWorking x s, bare .ok)

/-- MACHINE_TABLE_WRITE. -/
def execMachineTableWrite (args : List Byte) (lock : Bool) (s : State) : Result :=
  .next (request 10 (2 + tableItemSize (u8 args 0)) args (unlessBusy (machineTableWrite args lock)) s)

/-! ## MACHINE_TABLE_READ (02 R25) -/

def machineTableRead (args : List Byte) (s : State) : State × Reply :=
  match readTableItem s.store.working (u8 args 0) (u8 args 1) with
  | none => (s, bare .badArg)
  | some x => (s, ⟨.ok, le8 (u8 args 0) ++ le8 (u8 args 1) ++ encodeTableItem x ++ le8 (codeValidity s.store.validity)⟩)

/-- MACHINE_TABLE_READ. -/
def execMachineTableRead (args : List Byte) (s : State) : Result :=
  .next (request 11 2 args (unlessBusy (machineTableRead args)) s)

/-! ## MACHINE_TABLE_APPLY (02 R23, R24) -/

/-- Check 1 of R24: the field of GENERAL that lies outside its write range. -/
def generalRanges (g : General) : Option Nat :=
  if !within 1 3599 g.feedAngle then some 0
  else if !within 2 28 g.gateOffset then some 1
  else if !within 4 30 g.deliveryOffset then some 3
  else if !within 1 3599 g.separatorLength then some 5
  else if !within 1 4 g.outfeedHold then some 6
  else if !within 2 100 g.watchdogMs then some 8
  else none

/-- Functions that one line alone may carry (02 R24, check 5). -/
def isSingleFunction : OutFunction → Bool
  | .feedGate => true
  | .rejectGate => true
  | .separator => true
  | .stopRequest => true
  | _ => false

/-- Check 5: a line that carries a single function already carried by a lower line. -/
def failsSingle (t : MachineTable) (i : Fin 16) : Bool :=
  isSingleFunction (getAt t.outs i).function
    && allLines.any (fun j => decide (j.val < i.val) && (getAt t.outs j).function == (getAt t.outs i).function)

/-- Checks 6 and 7 for application channel `k`. -/
def failsApplication (t : MachineTable) (k : Fin 12) : Option CheckFailure :=
  let a := getAt t.apps k
  if !a.enabled then none
  else if t.general.deliveryOffset - 1 < a.station then some ⟨6, 3, k.val, 2⟩
  else if (getAt t.outs a.line).function ≠ .channel k then some ⟨7, 3, k.val, 3⟩
  else none

/-- Check 8: a line that carries CHANNEL k while channel k is disabled or names another line. -/
def failsOwned (t : MachineTable) (i : Fin 16) : Bool :=
  match (getAt t.outs i).function with
  | .channel k => !(getAt t.apps k).enabled || (getAt t.apps k).line != i
  | _ => false

/-- Checks 9 and 10 for inspection channel `j`. -/
def failsInspection (t : MachineTable) (j : Fin 8) : Option CheckFailure :=
  let c := getAt t.insps j
  if !c.enabled then none
  else if t.general.gateOffset - 1 < c.station then some ⟨9, 4, j.val, 2⟩
  else if (c.kind == .level) != t.modes.getLsbD c.line.val then some ⟨10, 4, j.val, 3⟩
  else none

/-- The apply check (02 R24): the first failure in the order given. -/
def checkTable (t : MachineTable) : Option CheckFailure :=
  match generalRanges t.general with
  | some f => some ⟨1, 1, 0, f⟩
  | none =>
    if t.general.deliveryOffset ≤ t.general.gateOffset then some ⟨2, 1, 0, 3⟩
    else if t.gum.line.any (fun l => !t.modes.getLsbD l.val) then some ⟨3, 2, 0, 0⟩
    else if (match t.general.takeSource with | .line l => t.modes.getLsbD l.val | .ring => false) then
      some ⟨4, 1, 0, 7⟩
    else match allLines.find? (failsSingle t) with
      | some i => some ⟨5, 6, i.val, 0⟩
      | none => match allApps.findSome? (failsApplication t) with
        | some f => some f
        | none => match allLines.find? (failsOwned t) with
          | some i => some ⟨8, 6, i.val, 0⟩
          | none => allInsps.findSome? (failsInspection t)

/-- Output line `o` under the settings `c` of an apply: its manual value is kept (01 R9). -/
def applyOut (c : OutSettings) (o : OutLine) : OutLine :=
  { o with function := c.function, polarity := c.polarity, safeMode := c.safeMode }

/-- The Line Interface takes a table's modes and output fields; a line that was ANALOG takes the level sampled at the
apply (01 R3, R9; log entry 29). -/
def applyLines (t : MachineTable) (levels : BitVec 16) (s : State) : State :=
  { s with lines :=
      { modes := t.modes
        levels := (s.lines.levels &&& ~~~ s.lines.modes) ||| (levels &&& s.lines.modes)
        outs := allLines.foldl (fun v i => put v i (applyOut (getAt t.outs i) (getAt v i))) s.lines.outs } }

/-- The Ring Port takes the new watchdog time and restarts the watchdog (11 R177), one that has expired too (log entry 43,
DESIGN CHOICE). -/
def applyWatchdog (t : MachineTable) (s : State) : State :=
  { s with ring := { s.ring with watchdogMs := t.general.watchdogMs, watchdog := some s.pos.timebase } }

/-- An apply that passes (02 R23): table in force, lines, watchdog, inspection channels (06 R113), leads (05 R95).
Every recurring event that fired under the old table has been taken, so that the first firing of each under the new one
is the next at its angle (01 R16; log entry 3). -/
def applyTable (levels : BitVec 16) (s : State) : State :=
  let t := s.store.working
  let u := { s with store := { s.store with inForce := t, validity := .valid },
                    insp := Vector.replicate 8 InspChannel.initial }
  computeLeads (fun _ => true) (applyWatchdog t (applyLines t levels u))

def machineTableApply (lock : Bool) (levels : BitVec 16) (s : State) : State × Reply :=
  match tableGuards lock s with
  | some c => (s, bare c)
  | none =>
    match checkTable s.store.working with
    | some f => ({ s with store := { s.store with validity := .invalid } }, ⟨.badTable, failureBytes f⟩)
    | none => (applyTable levels (settle s), bare .ok)

/-- MACHINE_TABLE_APPLY. -/
def execMachineTableApply (args : List Byte) (lock : Bool) (levels : BitVec 16) (s : State) : Result :=
  .next (request 12 0 args (unlessBusy (machineTableApply lock levels)) s)

end Sys2Proof.Machine
end

