-- ==== Sys2Proof/Machine/Recipes.lean ====
section
/-! DEFINITION. Recipe requests and the completions of the long operations (chapter 02, sections 2.2 and 2.3). -/

namespace Sys2Proof.Machine

/-- Slot `k`. -/
def slotOf (s : State) (k : Fin 8) : Slot := getAt s.store.slots k

/-- Change a slot's state. -/
def setSlotState (k : Fin 8) (x : SlotState) (s : State) : State := modifySlot k (fun t => { t with state := x }) s

/-- Give a slot the initial content of 02 R26. -/
def clearContent (k : Fin 8) (s : State) : State := modifySlot k (fun t => { t with recipe := Recipe.initial }) s

/-- The slot that byte 0 of a request names, none outside 0..7. -/
def slotArg (args : List Byte) : Option (Fin 8) := if u8 args 0 < 8 then some (Fin.ofNat 8 (u8 args 0)) else none

/-! ## RECIPE_EDIT (02 R27) -/

def recipeEdit (args : List Byte) (lock : Bool) (s : State) : State × Reply :=
  match slotArg args with
  | none => (s, bare .badArg)
  | some k =>
    if lock then (s, bare .locked)
    else if s.store.validity = .invalid then (s, bare .state)
    else
      let x := slotOf s k
      let ok (t : State) : State × Reply := (t, ⟨.ok, le8 (codeSlot (slotOf t k).state)⟩)
      match x.state with
      | .empty => ok (setSlotState k .editing (clearContent k s))
      | .editing => ok s
      | .usable => if x.refs = 0 then ok (setSlotState k .editing s) else (s, bare .inUse)
      | .checking => (s, bare .busy)
      | .clearing => (s, bare .busy)

/-- RECIPE_EDIT. -/
def execRecipeEdit (args : List Byte) (lock : Bool) (s : State) : Result :=
  .next (request 13 1 args (unlessBusy (recipeEdit args lock)) s)

/-! ## RECIPE_WRITE (02 R28) -/

def recipeWrite (args : List Byte) (lock : Bool) (s : State) : State × Reply :=
  match slotArg args with
  | none => (s, bare .badArg)
  | some k =>
    match parseRecipeItem (recipeOf s k).cams.length (u8 args 1) (u8 args 2) (args.drop 3) with
    | .unknown => (s, bare .badArg)
    | .badField n => (s, ⟨.badArg, le8 n⟩)
    | .item x =>
      if lock then (s, bare .locked)
      else if (slotOf s k).state ≠ .editing then (s, bare .state)
      else (modifySlot k (fun t => { t with recipe := writeRecipeItem t.recipe x }) s, bare .ok)

/-- RECIPE_WRITE. -/
def execRecipeWrite (args : List Byte) (lock : Bool) (s : State) : Result :=
  .next (request 14 (3 + recipeItemSize (u8 args 1)) args (unlessBusy (recipeWrite args lock)) s)

/-! ## RECIPE_CHECK and RECIPE_CLEAR (02 R32, R34, R36) -/

/-- The Management Unit becomes WORKING on slot `k`; `carried` says that the request's frame is still passing. -/
def startWork (op : LongOp) (k : Fin 8) (carried : Bool) (s : State) : State :=
  { s with mgmt := { s.mgmt with inFlight := some ⟨op, k, s.pos.timebase, carried⟩ } }

def recipeCheck (args : List Byte) (s : State) : State × Reply :=
  match slotArg args with
  | none => (s, bare .badArg)
  | some k =>
    if (slotOf s k).state ≠ .editing then (s, bare .state)
    else (startWork .recipeCheck k (carriedAs 15 args s).isSome (setSlotState k .checking s), bare .accepted)

/-- RECIPE_CHECK. -/
def execRecipeCheck (args : List Byte) (s : State) : Result :=
  .next (request 15 1 args (unlessBusy (recipeCheck args)) s)

def recipeClear (args : List Byte) (lock : Bool) (s : State) : State × Reply :=
  match slotArg args with
  | none => (s, bare .badArg)
  | some k =>
    if lock then (s, bare .locked)
    else if (slotOf s k).state = .empty then (s, bare .state)
    else if (slotOf s k).state = .usable ∧ (slotOf s k).refs ≠ 0 then (s, bare .inUse)
    else (startWork .recipeClear k (carriedAs 16 args s).isSome (setSlotState k .clearing s), bare .accepted)

/-- RECIPE_CLEAR. -/
def execRecipeClear (args : List Byte) (lock : Bool) (s : State) : Result :=
  .next (request 16 1 args (unlessBusy (recipeClear args lock)) s)

/-! ## RECIPE_READ (02 R35) -/

/-- Slot state, reference count and cam list length. -/
def slotRecord (x : Slot) : List Byte := le8 (codeSlot x.state) ++ le8 x.refs ++ le8 x.recipe.cams.length

/-- The bytes that lead a recipe item: slot, kind and index, 0 where the kind has no index (11 R172; log entry 16). -/
def recipeItemHead (args : List Byte) : List Byte :=
  le8 (u8 args 0) ++ le8 (u8 args 1) ++ le8 (if u8 args 1 = 3 ∨ u8 args 1 = 5 then u8 args 2 else 0)

def recipeRead (args : List Byte) (s : State) : State × Reply :=
  match slotArg args with
  | none => (s, bare .badArg)
  | some k =>
    match readRecipeItem (recipeOf s k) (u8 args 1) (u8 args 2) with
    | some x => (s, ⟨.ok, slotRecord (slotOf s k) ++ recipeItemHead args ++ encodeRecipeItem x⟩)
    | none => (s, if u8 args 1 = 3 then ⟨.badArg, slotRecord (slotOf s k)⟩ else bare .badArg)

/-- RECIPE_READ. -/
def execRecipeRead (args : List Byte) (s : State) : Result :=
  .next (request 17 3 args (unlessBusy (recipeRead args)) s)

/-! ## Recipe checks (02 R33) -/

/-- Checks 1 to 3: the register section against the table in force. -/
def failsRegister (t : MachineTable) (g : RegisterSettings) : Option CheckFailure :=
  if !g.enabled then none
  else if g.m < g.w then some ⟨1, 2, 0, 2⟩
  else if t.general.feedAngle ≤ g.m + g.w then some ⟨2, 2, 0, 2⟩
  else if t.modes.getLsbD g.markLine.val then some ⟨3, 2, 0, 9⟩
  else none

/-- Whether two entries of one channel share an angle (02 R33, check 7). -/
def overlaps (later earlier : CamEntry) : Bool :=
  later.channel == earlier.channel && decide (later.on ≤ earlier.off) && decide (earlier.on ≤ later.off)

/-- Checks 4 to 7 for entry `i`, with the entries of lower index. -/
def failsCam (t : MachineTable) (i : Nat) (e : CamEntry) (lower : List CamEntry) : Option CheckFailure :=
  if !(getAt t.apps e.channel).enabled then some ⟨4, 3, i, 0⟩
  else if 2 ≤ e.dots ∧ e.dotSpacing < e.dotLength then some ⟨5, 3, i, 5⟩
  else if 1 ≤ e.dots ∧ e.off < e.on + (e.dots - 1) * e.dotSpacing + e.dotLength then some ⟨6, 3, i, 4⟩
  else if lower.any (overlaps e) then some ⟨7, 3, i, 1⟩
  else none

/-- Check 8 for channel `j`. -/
def failsSetting (t : MachineTable) (r : Recipe) (j : Fin 8) : Option CheckFailure :=
  if (getAt r.settings j).enabled && (!(getAt t.insps j).enabled || (getAt t.insps j).kind == .presence) then
    some ⟨8, 5, j.val, 0⟩
  else none

/-- The recipe checks against a Machine Table (02 R33): the first failure in the order given. -/
def checkRecipe (t : MachineTable) (r : Recipe) : Option CheckFailure :=
  match failsRegister t r.register with
  | some f => some f
  | none =>
    match (indexed 0 r.cams).findSome? (fun ie => failsCam t ie.1 ie.2 (r.cams.take ie.1)) with
    | some f => some f
    | none => allInsps.findSome? (failsSetting t r)

/-! ## Completions (02 R33, R34, R36; 11 R182) -/

/-- The unit returns to READY with its result, and OP_DONE is offered (02 R36). -/
def finishWork (op : LongOp) (k : Fin 8) (c : ResultCode) (f : Option CheckFailure) (s : State) : State :=
  offer (.opDone op k c f) { s with mgmt := ⟨none, some ⟨op, k, c, f⟩⟩ }

/-- The completion of a RECIPE_CHECK on slot `k` (02 R33). -/
def completeCheck (k : Fin 8) (s : State) : State :=
  match checkRecipe s.store.inForce (recipeOf s k) with
  | none => finishWork .recipeCheck k .ok none (setSlotState k .usable s)
  | some f => finishWork .recipeCheck k .badRecipe (some f) (setSlotState k .editing s)

/-- The completion of a RECIPE_CLEAR on slot `k` (02 R34). -/
def completeClear (k : Fin 8) (s : State) : State :=
  finishWork .recipeClear k .ok none (setSlotState k .empty (clearContent k s))

/-- The slot of the operation of kind `op` in flight, once the frame that carried its request has been forwarded
(11 R182). -/
def completing (s : State) (op : LongOp) : Option (Fin 8) :=
  match s.mgmt.inFlight with
  | some o => if o.op = op ∧ o.carried = false then some o.slot else none
  | none => none

def checkCompletion (s : State) : State :=
  match completing s .recipeCheck with
  | some k => completeCheck k s
  | none => s

/-- CHECK_COMPLETION. -/
def execCheckCompletion (s : State) : Result := .next (event checkCompletion s)

def clearCompletion (s : State) : State :=
  match completing s .recipeClear with
  | some k => completeClear k s
  | none => s

/-- CLEAR_COMPLETION. -/
def execClearCompletion (s : State) : Result := .next (event clearCompletion s)

end Sys2Proof.Machine
end

