-- ==== Sys2Proof/Machine/Transit.lean ====
section
/-! DEFINITION. TRANSIT_READ (03 R55). -/

namespace Sys2Proof.Machine

/-- The list summary: length, head sequence number, next sequence number. -/
def transitSummary (s : State) : List Byte :=
  le8 s.track.records.length ++ leWord (s.track.records.head?.map Record.seq) ++ le32 s.track.nextSeq.toNat

/-- A register error, absent as the most negative value (11 R172). -/
def errorBytes (e : Option Int) : List Byte := leInt16 (e.getD (-32768))

/-- A record's fields, its position and whether it is hopeful. -/
def recordBytes (s : State) (i : Nat) (r : Record) : List Byte :=
  le32 r.seq.toNat ++ le32 r.cutPitch.toNat ++ le16 r.tag ++ le8 r.slot.val ++ le8 (codeStage r.stage)
    ++ leOpt8 (r.verdict.map codeVerdict) ++ errorBytes r.error ++ le8 r.defects.toNat ++ le16 r.applied.toNat
    ++ le16 r.suppressed.toNat ++ allInsps.flatMap (fun j => leOpt16 (getAt r.values j)) ++ le8 i
    ++ leBool (isHopeful s r)

/-- The position that a selector and a key name in the list, if they name one. -/
def selected (s : State) (selector key : Nat) : Option Nat :=
  if selector = 0 then (if key < s.track.records.length then some key else none)
  else s.track.records.findIdx? (fun r => r.seq == BitVec.ofNat 32 key)

def transitRead (args : List Byte) (s : State) : State × Reply :=
  let sel := u8 args 0
  let key := u32 args 1
  if 1 < sel ∨ (sel = 0 ∧ 30 < key) then (s, ⟨.badArg, transitSummary s⟩)
  else match selected s sel key with
    | none => (s, ⟨.notHeld, transitSummary s⟩)
    | some i =>
      match s.track.records[i]? with
      | none => (s, ⟨.notHeld, transitSummary s⟩)
      | some r => (s, ⟨.ok, transitSummary s ++ recordBytes s i r⟩)

/-- TRANSIT_READ: a selector byte, then a key of four bytes under either selector (03 R55; log entry 40). -/
def execTransitRead (args : List Byte) (s : State) : Result :=
  .next (request 20 5 args (transitRead args) s)

end Sys2Proof.Machine
end

