-- ==== Sys2Proof/Machine/Register.lean ====
section
/-! DEFINITION. The recurring events of the Register Unit (chapter 04). A command for an event that has not fired has
no effect (log entry 2). -/

namespace Sys2Proof.Machine

def captureArm (s : State) : State :=
  match takeFired .captureArm s with
  | some (x, t) => armWindow (posPitch x) t
  | none => s

/-- CAPTURE_ARM (04 R61). -/
def execCaptureArm (s : State) : Result := .next (event captureArm s)

def windowClose (s : State) : State :=
  match takeFired .windowClose s with
  | some (_, t) => closeWindow t
  | none => s

/-- WINDOW_CLOSE (04 R63). -/
def execWindowClose (s : State) : Result := .next (event windowClose s)

end Sys2Proof.Machine
end

