-- ==== Sys2Proof/Machine/Application.lean ====
section
/-! DEFINITION. The scheduled events of the Application Unit and the gum supply monitor (chapter 05). A command for an
event that has not fired has no effect (log entry 2). -/

namespace Sys2Proof.Machine

def onEvent (q : U32) (k : Fin 12) (i dot : Nat) (s : State) : State :=
  match takeScheduled (.appOn q k i dot) s with
  | some (_, t) => judgeOn q k i dot t
  | none => s

/-- ON_EVENT (05 R83). -/
def execOnEvent (seq : U32) (ch : Fin 12) (entry dot : Nat) (s : State) : Result :=
  .next (event (onEvent seq ch entry dot) s)

def offEvent (q : U32) (k : Fin 12) (i dot : Nat) (s : State) : State :=
  match takeScheduled (.appOff q k i dot) s with
  | some (_, t) => judgeOff q k i dot t
  | none => s

/-- OFF_EVENT (05 R85). -/
def execOffEvent (seq : U32) (ch : Fin 12) (entry dot : Nat) (s : State) : Result :=
  .next (event (offEvent seq ch entry dot) s)

/-- The monitor reads the gum pressure line as `reading` (05 R91): a value below the threshold reports GUM_SUPPLY. -/
def gumPressure (reading : Int) (s : State) : State :=
  match s.store.inForce.gum.line with
  | none => s
  | some l => if analogRead s l reading < s.store.inForce.gum.threshold then report .gumSupply s else s

/-- GUM_PRESSURE_LOW (05 R91). -/
def execGumPressureLow (reading : Int) (s : State) : Result := .next (event (gumPressure reading) s)

end Sys2Proof.Machine
end

