-- ==== Sys2Proof/Machine/Inspection.lean ====
section
/-! DEFINITION. The events of the Inspection Unit and CHANNEL_RESULT_READ (chapter 06). A command for an event that has
not fired has no effect (log entry 2). -/

namespace Sys2Proof.Machine

/-! ## CHANNEL_RESULT_READ (06 R110) -/

/-- Enabled, kind, latest result, flags and, for a PRESENCE channel, the consecutive-loss count. -/
def channelRecord (s : State) (j : Fin 8) : List Byte :=
  let c := inspOf s j
  let x := inspChannel s j
  leBool c.enabled ++ le8 (codeInsp c.kind) ++ leWord (x.result.bind InspResult.seq)
    ++ leWord (x.result.map InspResult.cutPitch) ++ leOpt16 (x.result.map InspResult.value)
    ++ leOpt8 (x.result.map (fun r => codeJudgement r.judgement)) ++ leFlag x.ready ++ leFlag x.overrun
    ++ (if c.kind = .presence then le8 x.losses else [])

def channelResultRead (args : List Byte) (s : State) : State × Reply :=
  if u8 args 0 < 8 then
    let j : Fin 8 := Fin.ofNat 8 (u8 args 0)
    (modifyInsp j (fun c => { c with ready := false, overrun := false }) s, ⟨.ok, channelRecord s j⟩)
  else (s, bare .badArg)

/-- CHANNEL_RESULT_READ. -/
def execChannelResultRead (args : List Byte) (s : State) : Result :=
  .next (request 30 1 args (channelResultRead args) s)

/-! ## PRESENCE events (06 R99, R101) -/

def watchOpen (j : Fin 8) (s : State) : State :=
  match takeFired (.watchOpen j) s with
  | some (x, t) => watchOpenAt j (posPitch x) t
  | none => s

/-- WATCH_OPEN (06 R99). -/
def execWatchOpen (ch : Fin 8) (s : State) : Result := .next (event (watchOpen ch) s)

def watchEnd (j : Fin 8) (s : State) : State :=
  match takeFired (.watchEnd j) s with
  | some (x, t) => watchEndAt j (posPitch x) t
  | none => s

/-- WATCH_END (06 R101). -/
def execWatchEnd (ch : Fin 8) (s : State) : Result := .next (event (watchEnd ch) s)

/-! ## Measuring events (06 R104 to R107) -/

def inspectionWindowOpen (j : Fin 8) (q : U32) (s : State) : State :=
  match takeScheduled (.inspOpen j q) s with
  | some (e, t) => openMeasurement j q e.pos t
  | none => s

/-- INSPECTION_WINDOW_OPEN (06 R104, R105). -/
def execInspectionWindowOpen (ch : Fin 8) (seq : U32) (s : State) : Result :=
  .next (event (inspectionWindowOpen ch seq) s)

def inspectionWindowEnd (j : Fin 8) (q : U32) (s : State) : State :=
  match takeScheduled (.inspEnd j q) s with
  | some (_, t) => endMeasurement j q t
  | none => s

/-- INSPECTION_WINDOW_END (06 R107). -/
def execInspectionWindowEnd (ch : Fin 8) (seq : U32) (s : State) : Result :=
  .next (event (inspectionWindowEnd ch seq) s)

def sampleEvent (j : Fin 8) (q : U32) (reading : Int) (s : State) : State :=
  match takeScheduled (.inspSample j q) s with
  | some (_, t) => sampleMeasurement j q reading t
  | none => s

/-- SAMPLE_EVENT (06 R106). -/
def execSampleEvent (ch : Fin 8) (seq : U32) (reading : Int) (s : State) : Result :=
  .next (event (sampleEvent ch seq reading) s)

end Sys2Proof.Machine
end

