-- ==== Sys2Proof/Machine/Orders.lean ====
section
/-! DEFINITION. Order requests, feed holds and the feed event (chapter 07). -/

namespace Sys2Proof.Machine

/-! ## ORDER_QUEUE (07 R115, R117) -/

/-- The range checks of the fields of an ORDER_QUEUE, in the order of R115's table. -/
def orderChecks (a : List Byte) : List Bool :=
  [within 1 65535 (u16 a 0), within 0 1 (u8 a 2), within 0 7 (u8 a 3), within 1 999999 (u32 a 4),
    within 1 9999 (u16 a 8), within 0 15 (u8 a 10), within 0 999 (u16 a 11), within 0 1 (u8 a 13),
    within 0 1 (u8 a 14)]

/-- The order that an ORDER_QUEUE describes, as it stands at queuing (07 R115). -/
def newOrder (s : State) (a : List Byte) : Order where
  id := s.orders.nextId
  tag := u16 a 0
  lane := if u8 a 2 = 0 then .normal else .priority
  slot := Fin.ofNat 8 (u8 a 3)
  quantity := u32 a 4
  boxQuantity := u16 a 8
  spare := u8 a 10
  early := u16 a 11
  holdAfter := u8 a 13 == 0
  quiet := u8 a 14 == 0
  state := .queued
  delivered := 0
  boxesClosed := 0
  earlySent := false
  aborted := false

/-- Why an ORDER_QUEUE for order `o` is refused after its range checks (07 R117), if it is. -/
def queueRefusal (s : State) (o : Order) : Option ResultCode :=
  if (findOrder s o.tag).isSome then some .duplicate
  else if 16 ≤ s.orders.list.length then some .full
  else if (slotOf s o.slot).state ≠ .usable then some .notUsable
  else none

/-- The order joins the tail of its lane. -/
def joinList (o : Order) (s : State) : State :=
  { s with orders := { s.orders with list := s.orders.list ++ [o], nextId := s.orders.nextId + 1 } }

/-- An ORDER_QUEUE is taken (07 R117). -/
def enqueue (o : Order) (s : State) : State :=
  let t := updateSource (refUp o.slot (joinList o s))
  match t.orders.feedState with
  | .noOrder => select t
  | .changeover => if (nextOrder t).map Order.tag = some o.tag then reexamine t else t
  | .feeding => t
  | .suspended => t

/-- The orders of a lane, in lane order (07 R114). -/
def laneOrders (s : State) (l : Lane) : List Order := s.orders.list.filter (fun o => o.lane == l)

def orderQueue (args : List Byte) (s : State) : State × Reply :=
  match firstBad (orderChecks args) with
  | some n => (s, ⟨.badArg, le8 n⟩)
  | none =>
    match queueRefusal s (newOrder s args) with
    | some c => (s, bare c)
    | none =>
      let t := enqueue (newOrder s args) s
      (t, ⟨.ok, le8 (codeFeed t.orders.feedState) ++ le8 (laneOrders t .normal).length
        ++ le8 (laneOrders t .priority).length⟩)

/-- ORDER_QUEUE. -/
def execOrderQueue (args : List Byte) (s : State) : Result := .next (request 40 15 args (orderQueue args) s)

/-! ## ORDER_READ (07 R118) -/

/-- The summary of the Order Unit. -/
def orderSummary (s : State) : List Byte :=
  le8 (codeFeed s.orders.feedState) ++ le8 (holdReasons s).toNat ++ le8 s.orders.countdown
    ++ leOpt8 s.orders.runningClass ++ leTag ((activeOrder s).map Order.tag) ++ leTag ((nextOrder s).map Order.tag)
    ++ leBool (isStartable s) ++ (laneOrders s .priority).flatMap (fun o => le16 o.tag)
    ++ (laneOrders s .normal).flatMap (fun o => le16 o.tag)

/-- A need, absent as the most negative value (11 R172). -/
def needBytes (n : Option Int) : List Byte := leInt32 (n.getD (-2147483648))

/-- Every field of R115, then the derived quantities of R116. -/
def orderBytes (s : State) (o : Order) : List Byte :=
  let derived (x : Int) : Option Int := if o.state = .active then some x else none
  le16 o.tag ++ le8 (codeLane o.lane) ++ le8 o.slot.val ++ le32 o.quantity ++ le16 o.boxQuantity ++ le8 o.spare
    ++ le16 o.early ++ leFlag o.holdAfter ++ leFlag o.quiet ++ le8 (codeOrder o.state) ++ le32 o.delivered
    ++ le32 o.boxesClosed ++ leFlag o.earlySent ++ leFlag o.aborted ++ le8 (formatClassOf s o)
    ++ le8 (committedOf s o.tag) ++ le8 (hopefulOf s o.tag) ++ le32 (passedOf s o)
    ++ leOpt32 ((derived (targetOf s o)).map Int.toNat) ++ needBytes (derived (needOf s o))

def orderRead (args : List Byte) (s : State) : State × Reply :=
  if u16 args 0 = 0 then (s, ⟨.ok, orderSummary s⟩)
  else match findOrder s (u16 args 0) with
    | none => (s, bare .notHeld)
    | some o => (s, ⟨.ok, orderBytes s o⟩)

/-- ORDER_READ. -/
def execOrderRead (args : List Byte) (s : State) : Result := .next (request 41 2 args (orderRead args) s)

/-! ## ORDER_ABORT (07 R132) -/

/-- The aborted flag is set, an ACTIVE order becomes FEED_DONE, and every OPEN record of the order receives ABORTED. -/
def markAbort (o : Order) (s : State) : State :=
  markAborted o.tag (modifyOrder o.tag (fun x => { x with state := .feedDone, aborted := true }) s)

/-- What an ORDER_ABORT of order `o` does before its completion test. -/
def abortOrder (o : Order) (s : State) : State :=
  if o.state = .active then afterActive o.holdAfter (markAbort o s) else markAbort o s

/-- The order's state, or the end state with which it has left, each absent where the other is given
(log entry 15). -/
def abortReply (st : Option OrderState) (e : Option EndState) : Reply :=
  ⟨.ok, leOpt8 (st.map codeOrder) ++ leOpt8 (e.map codeEnd)⟩

/-- The end of an abort of order `o`: the completion test (07 R130), and the reply. -/
def finishAbort (o : Order) (s : State) : State × Reply :=
  match findOrder s o.tag with
  | none => (s, abortReply none none)
  | some x =>
    if inTransit s o.tag then (s, abortReply (some x.state) none)
    else match endStateOf x with
      | none => (s, abortReply (some x.state) none)
      | some e => (depart x e s, abortReply none (some e))

def orderAbort (args : List Byte) (s : State) : State × Reply :=
  if u16 args 0 = 0 then (s, bare .badArg)
  else match findOrder s (u16 args 0) with
    | none => (s, bare .notHeld)
    | some o =>
      if o.state = .queued then (depart o .aborted s, abortReply none (some .aborted))
      else if o.state = .feedDone ∧ o.aborted then (s, abortReply (some .feedDone) none)
      else finishAbort o (abortOrder o s)

/-- ORDER_ABORT. -/
def execOrderAbort (args : List Byte) (s : State) : Result := .next (request 42 2 args (orderAbort args) s)

/-! ## ORDER_RESUME (07 R122) -/

/-- The reply to an ORDER_RESUME that activated order `o`. -/
def resumeReply (o : Order) (s : State) : Reply := ⟨.ok, le8 (codeFeed s.orders.feedState) ++ le16 o.tag⟩

/-- A resume in SUSPENDED or CHANGEOVER with next order `o`. One taken without an activation carries the feed state alone
(log entry 15, DESIGN CHOICE). -/
def resumeNext (o : Order) (s : State) : State × Reply :=
  if s.orders.runningClass = some (formatClassOf s o) ∨ s.track.records = [] then
    (activate o s, resumeReply o (activate o s))
  else if s.orders.feedState = .suspended then
    let t := offer (.feedWait true o.tag) (setFeed .changeover s)
    (t, ⟨.ok, le8 (codeFeed t.orders.feedState)⟩)
  else (s, bare .state)

def orderResume (s : State) : State × Reply :=
  match s.orders.feedState with
  | .noOrder => (s, bare .state)
  | .feeding => (s, bare .state)
  | .suspended =>
    match nextOrder s with
    | none => (setFeed .noOrder s, ⟨.ok, le8 (codeFeed .noOrder)⟩)
    | some o => resumeNext o s
  | .changeover =>
    match nextOrder s with
    | none => (s, bare .state)
    | some o => resumeNext o s

/-- ORDER_RESUME. -/
def execOrderResume (args : List Byte) (s : State) : Result := .next (request 43 0 args orderResume s)

/-! ## FEED_HOLD, FEED_RELEASE, PULL_SAMPLE (07 R124, R133) -/

/-- Set or clear the forced-hold flag; FORCED follows it (07 R123). -/
def setForced (b : Bool) (s : State) : State := { s with orders := { s.orders with forcedHold := b } }

def feedHold (b : Bool) (s : State) : State × Reply :=
  (setForced b s, ⟨.ok, le8 (holdReasons (setForced b s)).toNat⟩)

/-- FEED_HOLD. -/
def execFeedHold (args : List Byte) (s : State) : Result := .next (request 44 0 args (feedHold true) s)

/-- FEED_RELEASE. -/
def execFeedRelease (args : List Byte) (s : State) : Result := .next (request 45 0 args (feedHold false) s)

/-- Set the sample countdown. -/
def setCountdown (n : Nat) (s : State) : State := { s with orders := { s.orders with countdown := n } }

def pullSample (args : List Byte) (s : State) : State × Reply :=
  if within 1 15 (u8 args 0) then (setCountdown (u8 args 0) s, ⟨.ok, le8 (u8 args 0)⟩) else (s, bare .badArg)

/-- PULL_SAMPLE. -/
def execPullSample (args : List Byte) (s : State) : Result := .next (request 46 1 args (pullSample args) s)

/-! ## FEED_EVENT (07 R125) -/

def feedEvent (s : State) : State :=
  match takeFired .feed s with
  | some (x, t) => feedAt (posPitch x) t
  | none => s

/-- FEED_EVENT. A command for a feed event that has not fired has no effect (log entry 2). -/
def execFeedEvent (s : State) : Result := .next (event feedEvent s)

end Sys2Proof.Machine
end

