-- ==== Sys2Proof/Machine/Delivery.lean ====
section
/-! DEFINITION. Box requests and the events of the Delivery Unit (chapter 08). A command for an event that has not fired
has no effect (log entry 2). -/

namespace Sys2Proof.Machine

/-! ## CLOSE_BOX (08 R146) -/

def closeBox (s : State) : State × Reply :=
  match s.deliv.openBox with
  | none => (s, bare .empty)
  | some b =>
    if 4 ≤ s.deliv.waiting + s.deliv.committedCloses then (s, bare .full)
    else
      let t := rebuildProjection (closeOpenBox b .request false s)
      (t, ⟨.ok, le32 s.deliv.nextBox.toNat ++ le8 t.deliv.waiting ++ le8 t.deliv.committedCloses⟩)

/-- CLOSE_BOX. -/
def execCloseBox (args : List Byte) (s : State) : Result := .next (request 50 0 args closeBox s)

/-! ## BOX_LOG_READ (08 R148) -/

/-- The entry of box sequence number `q`, where the log holds it. -/
def findEntry (s : State) (q : U32) : Option BoxEntry := s.deliv.log.find? (fun e => e.seq == q)

/-- The fields of an entry; each absent where no entry is held (log entry 15). -/
def entryBytes (e : Option BoxEntry) : List Byte :=
  leWord (e.map BoxEntry.seq) ++ leTag (e.map BoxEntry.tag) ++ leOpt32 (e.map BoxEntry.number)
    ++ leOpt16 (e.map BoxEntry.count) ++ leOpt8 (e.map (fun x => codeClose x.reason)) ++ leWord (e.map BoxEntry.pitch)

/-- The Delivery Unit summary. -/
def deliverySummary (s : State) : List Byte :=
  le32 s.deliv.nextBox.toNat ++ le8 s.deliv.log.length ++ le8 s.deliv.waiting ++ le8 s.deliv.committedCloses
    ++ leTag (s.deliv.openBox.map Box.tag) ++ leOpt32 (s.deliv.openBox.map Box.number)
    ++ leOpt16 (s.deliv.openBox.map Box.count)
    ++ leTag (s.deliv.projected.map ProjectedBox.tag) ++ leOpt16 (s.deliv.projected.map ProjectedBox.count)

def boxLogRead (args : List Byte) (s : State) : State × Reply :=
  let e := findEntry s (BitVec.ofNat 32 (u32 args 0))
  (s, ⟨if e.isSome then .ok else .notHeld, entryBytes e ++ deliverySummary s⟩)

/-- BOX_LOG_READ. -/
def execBoxLogRead (args : List Byte) (s : State) : Result := .next (request 51 4 args (boxLogRead args) s)

/-! ## Events -/

def gateEvent (q : U32) (s : State) : State :=
  match takeScheduled (.gate q) s with
  | some (e, t) => gateAt q e.pos t
  | none => s

/-- GATE_EVENT (08 R137). -/
def execGateEvent (seq : U32) (s : State) : Result := .next (event (gateEvent seq) s)

def rejectGateEnd (s : State) : State :=
  match takeScheduled .rejectGateEnd s with
  | some (_, t) => endRejectGate t
  | none => s

/-- REJECT_GATE_END (08 R138). -/
def execRejectGateEnd (s : State) : Result := .next (event rejectGateEnd s)

def deliveryEvent (q : U32) (s : State) : State :=
  match takeScheduled (.delivery q) s with
  | some (_, t) => deliverAt q t
  | none => s

/-- DELIVERY_EVENT (08 R142). -/
def execDeliveryEvent (seq : U32) (s : State) : Result := .next (event (deliveryEvent seq) s)

def separatorPulseEnd (s : State) : State :=
  match takeScheduled .separatorEnd s with
  | some (_, t) => endSeparator t
  | none => s

/-- SEPARATOR_PULSE_END (08 R144). -/
def execSeparatorPulseEnd (s : State) : Result := .next (event separatorPulseEnd s)

end Sys2Proof.Machine
end

