-- ==== Sys2Proof/Machine/LineControl.lean ====
section
/-! DEFINITION. Requests of Line Control and the resets (chapter 09). Every reply carries the run state and the fault set
as they stand after the request (R151). -/

namespace Sys2Proof.Machine

/-- Run state and fault set. -/
def lineRecord (s : State) : List Byte := le8 (codeRun s.line.run) ++ le8 s.line.faults.toNat

/-- A reply of Line Control over the state that the request leaves. -/
def lineReply (c : ResultCode) (s : State) : State × Reply := (s, ⟨c, lineRecord s⟩)

/-- IDLE and DRAINING, the states that LINE_START leaves (09 R152). -/
def canStart : RunState → Bool
  | .idle => true
  | .draining => true
  | _ => false

/-! ## LINE_START (09 R152) -/

def lineStart (s : State) : State × Reply :=
  if !canStart s.line.run then lineReply .state s
  else if s.store.validity = .invalid then lineReply .state s
  else if anyHalting s then lineReply .state s
  else lineReply .ok (setRun .running s)

/-- LINE_START. -/
def execLineStart (args : List Byte) (s : State) : Result := .next (request 60 0 args lineStart s)

/-! ## LINE_DRAIN (09 R153) -/

/-- DRAINING while records are in transit, else IDLE. -/
def drainTarget (s : State) : RunState := if s.track.records = [] then .idle else .draining

def lineDrain (s : State) : State × Reply :=
  match s.line.run with
  | .idle => lineReply .state s
  | .draining => lineReply .state s
  | .running => lineReply .ok (setRun (drainTarget s) s)
  | .halted => if anyHalting s then lineReply .state s else lineReply .ok (leaveHalted (drainTarget s) s)

/-- LINE_DRAIN. -/
def execLineDrain (args : List Byte) (s : State) : Result := .next (request 61 0 args lineDrain s)

/-! ## LINE_RESUME (09 R155) -/

def lineResume (s : State) : State × Reply :=
  if s.line.run = .halted ∧ anyHalting s = false then lineReply .ok (leaveHalted .running s) else lineReply .state s

/-- LINE_RESUME. -/
def execLineResume (args : List Byte) (s : State) : Result := .next (request 62 0 args lineResume s)

/-! ## LINE_PURGE (09 R161, 03 R54) -/

/-- `n` removals of the head record, each counted LOST. -/
def removeHeads : Nat → State → State
  | 0, s => s
  | n + 1, s =>
    match s.track.records with
    | [] => s
    | r :: _ => removeHeads n (removeRecord r [.lost] s)

/-- Every record leaves the list, head first (03 R54). -/
def removeAll (s : State) : State := removeHeads s.track.records.length s

/-- A purge: the list empties, open watches are dropped (06 R112) and the projection is worked out anew (08 R149). -/
def purge (s : State) : State := rebuildProjection (dropWatches (removeAll s))

def linePurge (s : State) : State × Reply :=
  if s.line.run = .halted then
    (purge s, ⟨.ok, le8 s.track.records.length ++ lineRecord (purge s)⟩)
  else lineReply .state s

/-- LINE_PURGE. -/
def execLinePurge (args : List Byte) (s : State) : Result := .next (request 63 0 args linePurge s)

/-! ## CLEAR_STATUS (09 R158, R159) -/

/-- The monitor's clear test, the gum pressure line reading `reading` (05 R92). -/
def gumClears (s : State) (reading : Int) : Bool :=
  match s.store.inForce.gum.line with
  | none => true
  | some l => decide (s.store.inForce.gum.threshold + s.store.inForce.gum.hysteresis ≤ analogRead s l reading)

/-- Whether a latched fault's condition for clearing holds (09 R158). -/
def clears (s : State) (reading : Int) : FaultKind → Bool
  | .encoder => true
  | .reverse => s.track.records.isEmpty
  | .ring => s.ring.validFrame
  | .masterStop => !s.ring.lineStop
  | .tracking => true
  | .gumSupply => gumClears s reading

/-- What the clearing of a fault hands to the owning block (09 R159). The hold reason GUM_SUPPLY follows by its
condition (07 R123). -/
def handClearing (f : FaultKind) (s : State) : State :=
  match f with
  | .reverse => rebase s
  | .tracking => clearLosses s
  | .encoder => s
  | .ring => s
  | .masterStop => s
  | .gumSupply => s

/-- Test one fault and clear it where it is latched and its condition holds. -/
def clearFault (reading : Int) (s : State) (f : FaultKind) : State :=
  if hasFault s f && clears s reading f then handClearing f (unlatch f s) else s

/-- All faults, in the order of 09 R151. -/
def allFaults : List FaultKind := [.encoder, .reverse, .ring, .masterStop, .tracking, .gumSupply]

def clearStatus (reading : Int) (s : State) : State × Reply :=
  lineReply .ok (allFaults.foldl (clearFault reading) s)

/-- CLEAR_STATUS. -/
def execClearStatus (args : List Byte) (reading : Int) (s : State) : Result :=
  .next (request 64 0 args (clearStatus reading) s)

/-! ## RESET_FULL and the resets (09 R162) -/

/-- A full reset is awaited: at once where no passing frame carries the request (log entry 11). -/
def awaitReset (inFrame : Bool) (s : State) : State :=
  { s with line := { s.line with reset := if inFrame then .inFrame else .due } }

def resetFull (args : List Byte) (s : State) : State × Reply :=
  lineReply .ok (awaitReset (carriedAs 65 args s).isSome s)

/-- RESET_FULL. -/
def execResetFull (args : List Byte) (s : State) : Result := .next (request 65 0 args (resetFull args) s)

/-- The end of a reset: every block takes its values after reset. The queue of commands and the index of free values
are the model's own and stand (log entries 10, 11). -/
def takeReset (pins : ResetPins) (s : State) : State :=
  { State.resetWith pins with freeIndex := s.freeIndex, pending := s.pending }

def fullReset (pins : ResetPins) (s : State) : State := if s.line.reset = .due then takeReset pins s else s

/-- FULL_RESET. One that no RESET_FULL has called for has no effect (log entry 11). -/
def execFullReset (pins : ResetPins) (s : State) : Result := .next (event (fullReset pins) s)

/-- POWER_ON_RESET: the release of the reset pin (log entry 20). -/
def execPowerOnReset (pins : ResetPins) (s : State) : Result := .next (takeReset pins s)

/-- RESET_PIN_HELD: the pin is held and every output is low (01 R9). -/
def execResetPinHeld (s : State) : Result := .next { s with resetHeld := true }

end Sys2Proof.Machine
end

