-- ==== Sys2Proof/Machine/Counters.lean ====
section
/-! DEFINITION. Requests on the Counter Block and the Notice Queue (chapter 10). -/

namespace Sys2Proof.Machine

/-! ## COUNTERS_READ (10 R165) -/

/-- The argument checks of COUNTERS_READ and SNAPSHOT_READ. -/
def rangeOk (first n : Nat) : Bool := within 0 19 first && within 1 12 n && decide (first + n ≤ 20)

/-- Values `first` to `first + n - 1` of a counter vector. -/
def valueBytes (v : Vector U32 20) (first n : Nat) : List Byte :=
  ((v.toList.drop first).take n).flatMap (fun x => le32 x.toNat)

def countersRead (args : List Byte) (s : State) : State × Reply :=
  if rangeOk (u8 args 0) (u8 args 1) then (s, ⟨.ok, valueBytes s.counters.live (u8 args 0) (u8 args 1)⟩)
  else (s, bare .badArg)

/-- COUNTERS_READ. -/
def execCountersRead (args : List Byte) (s : State) : Result := .next (request 70 2 args (countersRead args) s)

/-! ## Snapshots (10 R166 to R168) -/

/-- Copy the live counters into the buffer and set the valid flag (10 R166). -/
def snapshot (s : State) : State :=
  { s with counters := { s.counters with buffer := s.counters.live, valid := true } }

/-- COUNTERS_SNAPSHOT. -/
def execCountersSnapshot (args : List Byte) (s : State) : Result :=
  .next (request 71 0 args (fun t => (snapshot t, bare .ok)) s)

/-- The counters of a new period that begins with `n` blanks in transit (10 R167). -/
def freshCounters (n : Nat) : Vector U32 20 :=
  put (put (Vector.replicate 20 0#32) (counterIdx .cutTotal) (BitVec.ofNat 32 n)) (counterIdx .accepted)
    (BitVec.ofNat 32 n)

def snapshotReset (s : State) : State × Reply :=
  let t := snapshot s
  ({ t with counters := { t.counters with live := freshCounters s.track.records.length } },
    ⟨.ok, le8 s.track.records.length⟩)

/-- COUNTERS_SNAPSHOT_RESET. -/
def execCountersSnapshotReset (args : List Byte) (s : State) : Result := .next (request 72 0 args snapshotReset s)

def snapshotRead (args : List Byte) (s : State) : State × Reply :=
  if rangeOk (u8 args 0) (u8 args 1) then
    if s.counters.valid then (s, ⟨.ok, valueBytes s.counters.buffer (u8 args 0) (u8 args 1)⟩) else (s, bare .empty)
  else (s, bare .badArg)

/-- SNAPSHOT_READ. -/
def execSnapshotRead (args : List Byte) (s : State) : Result := .next (request 73 2 args (snapshotRead args) s)

/-! ## NOTICE_READ (10 R170) -/

/-- The two oldest notices leave the queue; an empty queue clears the overflow flag. -/
def dropNotices (s : State) : State :=
  let rest := s.notices.queue.drop 2
  { s with notices := { queue := rest, overflow := if rest.isEmpty then false else s.notices.overflow } }

def noticeRead (s : State) : State × Reply :=
  let taken := s.notices.queue.take 2
  (dropNotices s, ⟨.ok, le8 taken.length ++ taken.flatMap noticeBytes⟩)

/-- NOTICE_READ. -/
def execNoticeRead (args : List Byte) (s : State) : Result := .next (request 74 0 args noticeRead s)

end Sys2Proof.Machine
end

