-- ==== Sys2Proof/WellFormed.lean ====
section
/-! DEFINITION. Which commands are well formed: the bounds that a wire or a pin puts on an operand. -/

namespace Sys2Proof

/-- The request kind codes of the table of 11 section 11.4. -/
def knownKinds : List Nat :=
  [1, 2] ++ [10, 11, 12, 13, 14, 15, 16, 17] ++ [20, 30] ++ [40, 41, 42, 43, 44, 45, 46] ++ [50, 51]
    ++ [60, 61, 62, 63, 64, 65] ++ [70, 71, 72, 73, 74, 80]

/-- The length field of a management record is one byte (11 R172). -/
def argsWF (args : List Byte) : Bool := decide (args.length ≤ 255)

/-- A cam list holds at most 24 entries and an entry at most 15 dots (02 R28, R30). -/
def pairWF (entry dot : Nat) : Bool := decide (entry < 24) && decide (dot < 15)

/-- A received frame holds at least one byte; a damaged one may be of any other length (11 R173). -/
def frameWF (bytes : List Byte) : Bool := decide (1 ≤ bytes.length)

/-- A command whose operands the wire, the pins and the tables can carry. -/
def Instr.wf : Instr → Bool
  | .positionSet a => argsWF a
  | .outputSet a => argsWF a
  | .machineTableWrite a _ => argsWF a
  | .machineTableRead a => argsWF a
  | .machineTableApply a _ _ => argsWF a
  | .recipeEdit a _ => argsWF a
  | .recipeWrite a _ => argsWF a
  | .recipeCheck a => argsWF a
  | .recipeClear a _ => argsWF a
  | .recipeRead a => argsWF a
  | .checkCompletion => true
  | .clearCompletion => true
  | .transitRead a => argsWF a
  | .channelResultRead a => argsWF a
  | .orderQueue a => argsWF a
  | .orderRead a => argsWF a
  | .orderAbort a => argsWF a
  | .orderResume a => argsWF a
  | .feedHold a => argsWF a
  | .feedRelease a => argsWF a
  | .pullSample a => argsWF a
  | .closeBox a => argsWF a
  | .boxLogRead a => argsWF a
  | .lineStart a => argsWF a
  | .lineDrain a => argsWF a
  | .lineResume a => argsWF a
  | .linePurge a => argsWF a
  | .clearStatus a _ => argsWF a
  | .resetFull a => argsWF a
  | .fullReset _ => true
  | .powerOnReset _ => true
  | .countersRead a => argsWF a
  | .countersSnapshot a => argsWF a
  | .countersSnapshotReset a => argsWF a
  | .snapshotRead a => argsWF a
  | .noticeRead a => argsWF a
  | .mgmtStatus a _ => argsWF a
  | .unknownRequest k a => argsWF a && !knownKinds.contains k.toNat
  | .frameArrival b => frameWF b
  | .watchdogExpiry => true
  | .encoderStep _ => true
  | .speedWindowEnd => true
  | .edgeEvent _ _ => true
  | .gumPressureLow _ => true
  | .feedEvent => true
  | .captureArm => true
  | .windowClose => true
  | .onEvent _ _ e d => pairWF e d
  | .offEvent _ _ e d => pairWF e d
  | .watchOpen _ => true
  | .watchEnd _ => true
  | .inspectionWindowOpen _ _ => true
  | .inspectionWindowEnd _ _ => true
  | .sampleEvent _ _ _ => true
  | .gateEvent _ => true
  | .rejectGateEnd => true
  | .deliveryEvent _ => true
  | .separatorPulseEnd => true
  | .resetPinHeld => true

end Sys2Proof
end

