-- ==== Sys2Proof/Machine/Ring.lean ====
section
/-! DEFINITION. Commands of the Ring Port and the Management Unit (chapter 11). -/

namespace Sys2Proof.Machine

/-! ## MGMT_STATUS (11 R182) -/

/-- The long operation in flight, kind and slot. -/
def flightBytes (o : Option InFlight) : List Byte :=
  leOpt8 (o.map (fun x => codeOp x.op)) ++ leOpt8 (o.map (fun x => x.slot.val))

/-- The last long-operation result, with its failing check, item and field, absent for a result other than
BAD_RECIPE. -/
def lastBytes (o : Option OpResult) : List Byte :=
  leOpt8 (o.map (fun x => codeOp x.op)) ++ leOpt8 (o.map (fun x => x.slot.val))
    ++ leOpt8 (o.map (fun x => codeResult x.result))
    ++ ((o.bind OpResult.failure).map failureBytes).getD [255#8, 255#8, 255#8, 255#8]

/-- The reply of MGMT_STATUS, the Table Lock line being active or not. -/
def mgmtRecord (s : State) (lock : Bool) : List Byte :=
  leBool (working s) ++ flightBytes s.mgmt.inFlight ++ lastBytes s.mgmt.last ++ le8 s.ring.node.toNat
    ++ le8 (codeValidity s.store.validity) ++ leBool lock ++ le16 s.ring.cycle

/-- MGMT_STATUS. -/
def execMgmtStatus (args : List Byte) (lock : Bool) (s : State) : Result :=
  .next (request 80 0 args (fun t => (t, ⟨.ok, mgmtRecord t lock⟩)) s)

/-! ## UNKNOWN_REQUEST (11 R181) -/

/-- A request of kind code `kind`, not in the table of 11 section 11.4, is answered UNKNOWN before its length is
looked at. A kind of the table is no such request (log entry 24). -/
def unknownRequest (kind : Byte) (args : List Byte) (s : State) : State :=
  if knownKinds.contains kind.toNat then s
  else if reachable s then giveReply (carriedAs kind.toNat args s) (bare .unknown) s
  else s

/-- UNKNOWN_REQUEST. -/
def execUnknownRequest (kind : Byte) (args : List Byte) (s : State) : Result :=
  .next (unknownRequest kind args s)

/-! ## FRAME_ARRIVAL (11 R173 to R180) -/

/-- Forward a frame that is not acted on. -/
def sendFrame (f : List Byte) (s : State) : State := { s with ring := { s.ring with sent := f } }

/-- Steps 1 and 2 of R175: the watchdog restarts, the valid-frame flag is set, the LINE_STOP flag is held. -/
def noteFrame (f : List Byte) (s : State) : State :=
  { s with ring := { s.ring with watchdog := some s.pos.timebase, validFrame := true, lineStop := lineStopFlag f,
                                 cycle := u16 f 2 } }

/-- A frame with LINE_STOP set reports MASTER_STOP (11 R178). -/
def reportStop (f : List Byte) (s : State) : State := if lineStopFlag f then report .masterStop s else s

/-- A valid cycle frame (11 R175): steps 1 to 4, then the frame passes or waits for its requests. -/
def actOnFrame (f : List Byte) (s : State) : State :=
  let t := reportStop f (noteFrame f s)
  passFrame (clearReserved (writeSlots t f)) (readTakes f t)

/-- A frame is received whole and judged (11 R173 to R175). -/
def receiveFrame (f : List Byte) (s : State) : State :=
  if isDamaged f then sendFrame (markDamaged f) s
  else if u8 f 0 ≠ 1 then sendFrame f s
  else actOnFrame f s

/-- The pins as the part last found them: sampled levels, phase pair and node address. -/
def heldPins (s : State) : ResetPins where
  levels := s.lines.levels
  phases := s.pos.phases
  address := s.ring.node

/-- A full reset that is due takes effect before the next frame, which is received under the reset values (11 R183). Its
pins are those last found (log entry 11). -/
def resetBeforeFrame (s : State) : State := fullReset (heldPins s) s

/-- A frame arrives (11 R173 to R176). One that arrives while another is passing has no effect (log entry 21). -/
def frameArrival (f : List Byte) (s : State) : State :=
  if repeating s then sendFrame f s
  else if s.ring.passage.isSome then s
  else receiveFrame f (resetBeforeFrame s)

/-- FRAME_ARRIVAL. -/
def execFrameArrival (bytes : List Byte) (s : State) : Result := .next (event (frameArrival bytes) s)

/-! ## WATCHDOG_EXPIRY (11 R177) -/

/-- Expiry of a watchdog that last restarted at `t0`: RING is reported and the watchdog stops. -/
def expire (t0 : U32) (s : State) : State :=
  let t := timeAtLeast t0 (1000 * s.ring.watchdogMs) s
  report .ring { t with ring := { t.ring with watchdog := none, validFrame := false } }

/-- A stopped watchdog does not expire (log entry 2). -/
def watchdogExpiry (s : State) : State :=
  match s.ring.watchdog with
  | some t0 => expire t0 s
  | none => s

/-- WATCHDOG_EXPIRY. -/
def execWatchdogExpiry (s : State) : Result := .next (event watchdogExpiry s)

end Sys2Proof.Machine
end

