-- ==== Sys2Proof/Machine/Timebase.lean ====
section
/-! DEFINITION. What the part does while no command waits (log entry 4): events of its own that are due, else one
microsecond of the timebase (01 R17). -/

namespace Sys2Proof.Machine

/-- An event of the part that the timebase brings about. -/
inductive TimeEvent where
  | windowEnd
  | watchdog
  | completion
  deriving DecidableEq, Repr

/-- The time-driven events that are due: the end of a speed window of 10,000 µs (01 R18), the watchdog's expiry (11
R177), and the completion of a long operation at the end of its 5,000 µs (11 R182). -/
def dueTimes (s : State) : List TimeEvent :=
  (if 10000 ≤ elapsed s s.pos.windowStart then [.windowEnd] else [])
    ++ (match s.ring.watchdog with
        | some t0 => if 1000 * s.ring.watchdogMs ≤ elapsed s t0 then [.watchdog] else []
        | none => [])
    ++ (match s.mgmt.inFlight with
        | some o => if o.carried = false ∧ 5000 ≤ elapsed s o.taken then [.completion] else []
        | none => [])

/-- Take a time-driven event. -/
def takeTime (e : TimeEvent) (s : State) : State :=
  match e with
  | .windowEnd => endWindow s
  | .watchdog => watchdogExpiry s
  | .completion => clearCompletion (checkCompletion s)

/-- One microsecond passes. -/
def microsecond (s : State) : State := { s with pos := { s.pos with timebase := s.pos.timebase + 1#32 } }

/-- Take one of the due time-driven events, a free value choosing among several, or let a microsecond pass. -/
def timeStep (s : State) : State :=
  match dueTimes s with
  | [] => microsecond s
  | [e] => takeTime e s
  | e :: es => takeTime ((e :: es).getD (Config.eventChoice s.freeIndex % (es.length + 1)) e) (bumpFree s)

/-- A step with no command waiting: a fired station event first, else the time. While the reset pin is held nothing
happens. -/
def tick (s : State) : State :=
  if s.resetHeld then s
  else match chooseDue s with
    | some (e, t) => takeDue e t
    | none => timeStep s

end Sys2Proof.Machine
end

