-- ==== Sys2Proof/Machine/Dispatch.lean ====
section
/-! DEFINITION. Which meaning each command has: one arm per row of the table, in the table's order. -/

namespace Sys2Proof.Machine

-- The effect of a command on everything but the queue.
def exec (i : Instr) (s : State) : Host.Outcome State Fault Refusal :=
  match i with
  | .positionSet args => Sys2Proof.Machine.execPositionSet args s
  | .outputSet args => Sys2Proof.Machine.execOutputSet args s
  | .machineTableWrite args lock => Sys2Proof.Machine.execMachineTableWrite args lock s
  | .machineTableRead args => Sys2Proof.Machine.execMachineTableRead args s
  | .machineTableApply args lock levels => Sys2Proof.Machine.execMachineTableApply args lock levels s
  | .recipeEdit args lock => Sys2Proof.Machine.execRecipeEdit args lock s
  | .recipeWrite args lock => Sys2Proof.Machine.execRecipeWrite args lock s
  | .recipeCheck args => Sys2Proof.Machine.execRecipeCheck args s
  | .recipeClear args lock => Sys2Proof.Machine.execRecipeClear args lock s
  | .recipeRead args => Sys2Proof.Machine.execRecipeRead args s
  | .checkCompletion => Sys2Proof.Machine.execCheckCompletion s
  | .clearCompletion => Sys2Proof.Machine.execClearCompletion s
  | .transitRead args => Sys2Proof.Machine.execTransitRead args s
  | .channelResultRead args => Sys2Proof.Machine.execChannelResultRead args s
  | .orderQueue args => Sys2Proof.Machine.execOrderQueue args s
  | .orderRead args => Sys2Proof.Machine.execOrderRead args s
  | .orderAbort args => Sys2Proof.Machine.execOrderAbort args s
  | .orderResume args => Sys2Proof.Machine.execOrderResume args s
  | .feedHold args => Sys2Proof.Machine.execFeedHold args s
  | .feedRelease args => Sys2Proof.Machine.execFeedRelease args s
  | .pullSample args => Sys2Proof.Machine.execPullSample args s
  | .closeBox args => Sys2Proof.Machine.execCloseBox args s
  | .boxLogRead args => Sys2Proof.Machine.execBoxLogRead args s
  | .lineStart args => Sys2Proof.Machine.execLineStart args s
  | .lineDrain args => Sys2Proof.Machine.execLineDrain args s
  | .lineResume args => Sys2Proof.Machine.execLineResume args s
  | .linePurge args => Sys2Proof.Machine.execLinePurge args s
  | .clearStatus args reading => Sys2Proof.Machine.execClearStatus args reading s
  | .resetFull args => Sys2Proof.Machine.execResetFull args s
  | .fullReset pins => Sys2Proof.Machine.execFullReset pins s
  | .powerOnReset pins => Sys2Proof.Machine.execPowerOnReset pins s
  | .countersRead args => Sys2Proof.Machine.execCountersRead args s
  | .countersSnapshot args => Sys2Proof.Machine.execCountersSnapshot args s
  | .countersSnapshotReset args => Sys2Proof.Machine.execCountersSnapshotReset args s
  | .snapshotRead args => Sys2Proof.Machine.execSnapshotRead args s
  | .noticeRead args => Sys2Proof.Machine.execNoticeRead args s
  | .mgmtStatus args lock => Sys2Proof.Machine.execMgmtStatus args lock s
  | .unknownRequest kind args => Sys2Proof.Machine.execUnknownRequest kind args s
  | .frameArrival bytes => Sys2Proof.Machine.execFrameArrival bytes s
  | .watchdogExpiry => Sys2Proof.Machine.execWatchdogExpiry s
  | .encoderStep pair => Sys2Proof.Machine.execEncoderStep pair s
  | .speedWindowEnd => Sys2Proof.Machine.execSpeedWindowEnd s
  | .edgeEvent line level => Sys2Proof.Machine.execEdgeEvent line level s
  | .gumPressureLow reading => Sys2Proof.Machine.execGumPressureLow reading s
  | .feedEvent => Sys2Proof.Machine.execFeedEvent s
  | .captureArm => Sys2Proof.Machine.execCaptureArm s
  | .windowClose => Sys2Proof.Machine.execWindowClose s
  | .onEvent seq ch entry dot => Sys2Proof.Machine.execOnEvent seq ch entry dot s
  | .offEvent seq ch entry dot => Sys2Proof.Machine.execOffEvent seq ch entry dot s
  | .watchOpen ch => Sys2Proof.Machine.execWatchOpen ch s
  | .watchEnd ch => Sys2Proof.Machine.execWatchEnd ch s
  | .inspectionWindowOpen ch seq => Sys2Proof.Machine.execInspectionWindowOpen ch seq s
  | .inspectionWindowEnd ch seq => Sys2Proof.Machine.execInspectionWindowEnd ch seq s
  | .sampleEvent ch seq reading => Sys2Proof.Machine.execSampleEvent ch seq reading s
  | .gateEvent seq => Sys2Proof.Machine.execGateEvent seq s
  | .rejectGateEnd => Sys2Proof.Machine.execRejectGateEnd s
  | .deliveryEvent seq => Sys2Proof.Machine.execDeliveryEvent seq s
  | .separatorPulseEnd => Sys2Proof.Machine.execSeparatorPulseEnd s
  | .resetPinHeld => Sys2Proof.Machine.execResetPinHeld s

end Sys2Proof.Machine
end

