-- ==== Sys2Proof/Safety.lean ====
section
/-! DEFINITION. What a safe run keeps, in the terms that the statements use: the laws of the device as predicates of a
state, and the shapes of an answered request. -/

namespace Sys2Proof.Machine

/-! ## Requests -/

/-- Kind code, length of the fields the kind needs and payload of a request whose kind is in the table of 11 section
11.4; none for the other commands. -/
def requestOf : Instr → Option (Nat × Nat × List Byte)
  | .positionSet a => some (1, 2, a)
  | .outputSet a => some (2, 4, a)
  | .machineTableWrite a _ => some (10, 2 + tableItemSize (u8 a 0), a)
  | .machineTableRead a => some (11, 2, a)
  | .machineTableApply a _ _ => some (12, 0, a)
  | .recipeEdit a _ => some (13, 1, a)
  | .recipeWrite a _ => some (14, 3 + recipeItemSize (u8 a 1), a)
  | .recipeCheck a => some (15, 1, a)
  | .recipeClear a _ => some (16, 1, a)
  | .recipeRead a => some (17, 3, a)
  | .checkCompletion => none
  | .clearCompletion => none
  | .transitRead a => some (20, 5, a)
  | .channelResultRead a => some (30, 1, a)
  | .orderQueue a => some (40, 15, a)
  | .orderRead a => some (41, 2, a)
  | .orderAbort a => some (42, 2, a)
  | .orderResume a => some (43, 0, a)
  | .feedHold a => some (44, 0, a)
  | .feedRelease a => some (45, 0, a)
  | .pullSample a => some (46, 1, a)
  | .closeBox a => some (50, 0, a)
  | .boxLogRead a => some (51, 4, a)
  | .lineStart a => some (60, 0, a)
  | .lineDrain a => some (61, 0, a)
  | .lineResume a => some (62, 0, a)
  | .linePurge a => some (63, 0, a)
  | .clearStatus a _ => some (64, 0, a)
  | .resetFull a => some (65, 0, a)
  | .fullReset _ => none
  | .powerOnReset _ => none
  | .countersRead a => some (70, 2, a)
  | .countersSnapshot a => some (71, 0, a)
  | .countersSnapshotReset a => some (72, 0, a)
  | .snapshotRead a => some (73, 2, a)
  | .noticeRead a => some (74, 0, a)
  | .mgmtStatus a _ => some (80, 0, a)
  | .unknownRequest _ _ => none
  | .frameArrival _ => none
  | .watchdogExpiry => none
  | .encoderStep _ => none
  | .speedWindowEnd => none
  | .edgeEvent _ _ => none
  | .gumPressureLow _ => none
  | .feedEvent => none
  | .captureArm => none
  | .windowClose => none
  | .onEvent _ _ _ _ => none
  | .offEvent _ _ _ _ => none
  | .watchOpen _ => none
  | .watchEnd _ => none
  | .inspectionWindowOpen _ _ => none
  | .inspectionWindowEnd _ _ => none
  | .sampleEvent _ _ _ => none
  | .gateEvent _ => none
  | .rejectGateEnd => none
  | .deliveryEvent _ => none
  | .separatorPulseEnd => none
  | .resetPinHeld => none

/-- The kinds that the Management Unit refuses with BUSY while WORKING (02 R36). -/
def busyKinds : List Nat := [10, 11, 12, 13, 14, 15, 16, 17]

/-- The outcome of a request of kind `k` that came with `args` in state `s`, changed its owner's state to `t` and is
answered with code `c` and payload `p`. The reply is written into the record that carried the request (11 R181). -/
def answered (k : Nat) (args : List Byte) (s : State) (c : ResultCode) (p : List Byte) (t : State) : Result :=
  .next (giveReply (carriedAs k args s) ⟨c, p⟩ t)

/-- Whether a request with payload `args` of a kind that needs `need` bytes goes to its owner (11 R181, R176). -/
def accepts (s : State) (need : Nat) (args : List Byte) : Bool :=
  reachable s && decide (need ≤ args.length) && decide (args.length ≤ 48)

/-- The Transit List in which the record of sequence number `q` is changed by `f` and no other is touched (03 R45). -/
def amended (s : State) (q : U32) (f : Record → Record) : TrackingUnit :=
  { s.track with records := s.track.records.map (fun x => if x.seq == q then f x else x) }

/-- The orders, the Register Unit and the fired events of `t` and the notices `ns` are what the completion test of the order
with tag `tag` (07 R130), with the switch event that it may bring (04 R58), makes of those of `s`, over the records left in
`t`; recipes stay. -/
def AfterTest (tag : Nat) (s t : State) (ns : NoticeQueue) : Prop :=
  (∀ k, recipeOf t k = recipeOf s k) ∧
  ∃ v : State, v.orders = s.orders ∧ v.notices = s.notices ∧ v.reg = s.reg ∧ v.pos.due = s.pos.due ∧
    v.track = t.track ∧ (∀ k, recipeOf v k = recipeOf s k) ∧
    t.orders = (completionTest tag v).orders ∧ t.reg = (completionTest tag v).reg ∧
    t.pos.due = (completionTest tag v).pos.due ∧ ns = (completionTest tag v).notices

/-- What an item reads as whose fields lie in their ranges as `oks` says, in the order of its fields: the first field out of
range, or the item `x` (02 R21). -/
def inRanges {α : Type} (oks : List Bool) (x : α) : Parsed α :=
  match oks.findIdx? (fun ok => !ok) with
  | some n => .badField n
  | none => .item x

/-! ## What leaves with a blank or an entry -/

/-- The Application and Inspection units of `t` are those of `s` without the blanks `qs`: their applications and
measurements in progress have ended and their entries are dropped (05 R87, 06 R108). -/
def BlanksLeft (qs : List U32) (s t : State) : Prop :=
  t.app.blanks = s.app.blanks.filter (fun b => !qs.contains b.seq) ∧
  (∀ k : Fin 12, getAt t.app.channels k = { getAt s.app.channels k with
    serving := (getAt s.app.channels k).serving.filter (fun v => !qs.contains v.seq) }) ∧
  ∀ j : Fin 8, (inspChannel t j).measurement = (inspChannel s j).measurement.filter (fun m => !qs.contains m.seq)

/-- The scheduled events that stay when the blanks `qs` leave: those of other blanks and those of no blank (05 R87, 06
R108, 08 R136). -/
def eventsLeft (qs : List U32) (es : List Pending) : List Pending :=
  es.filter (fun e => match eventBlank e.event with
    | some q => !qs.contains q
    | none => true)

/-- Whether an added defect gives up entry `i` of blank `q`, record `r` being that blank's with the class added: the
record holds a class of its effective reject set and the entry has skip-on-defect (05 R86). -/
def cutAt (s : State) (r : Record) (q : U32) (i : Nat) : Bool :=
  q == r.seq && isRejectable s r && ((recipeOf s r.slot).cams[i]?).any CamEntry.skip

/-- Channels and schedule of `t` are those of `s` without the cam entries that `cut` picks out by blank and index: their
applications have ended and their on and off events are withdrawn (05 R86). -/
def EntriesCut (cut : U32 → Nat → Bool) (s t : State) : Prop :=
  (∀ k : Fin 12, getAt t.app.channels k = { getAt s.app.channels k with
    serving := (getAt s.app.channels k).serving.filter (fun v => !cut v.seq v.entry) }) ∧
  t.pos = { s.pos with schedule := s.pos.schedule.filter (fun e => match e.event with
    | .appOn q _ i _ => !cut q i
    | .appOff q _ i _ => !cut q i
    | _ => true) }

/-! ## What happens with no command waiting -/

/-- The command that takes a fired recurring event (01 section 1.4). -/
def firedCommand : Recurring → Instr
  | .feed => .feedEvent
  | .captureArm => .captureArm
  | .windowClose => .windowClose
  | .watchOpen j => .watchOpen j
  | .watchEnd j => .watchEnd j

/-- The command that takes a scheduled event that is due, a sample with its reading (01 R15). -/
def dueCommand (reading : Int) : Scheduled → Instr
  | .appOn q k i d => .onEvent q k i d
  | .appOff q k i d => .offEvent q k i d
  | .inspOpen j q => .inspectionWindowOpen j q
  | .inspEnd j q => .inspectionWindowEnd j q
  | .inspSample j q => .sampleEvent j q reading
  | .gate q => .gateEvent q
  | .delivery q => .deliveryEvent q
  | .rejectGateEnd => .rejectGateEnd
  | .separatorEnd => .separatorPulseEnd

/-- `c` is the command of an event of position `x` that has fired and is not yet taken: a recurring one that fired there, or
a scheduled one whose position is not beyond the high-water mark (01 R15, R16). `u` is `s` with that event put first in its
list, where `c` takes it before any other of its name. -/
def HasFired (s : State) (c : Instr) (x : Pos) (u : State) : Prop :=
  (∃ f, f ∈ s.pos.due ∧ f.pos = x ∧ c = firedCommand f.event ∧
    u = { s with pos := { s.pos with due := f :: s.pos.due.erase f } }) ∨
  (∃ p r, p ∈ s.pos.schedule ∧ posDist s.pos.hwm p.pos ≤ 0 ∧ p.pos = x ∧ c = dueCommand r p.event ∧
    u = { s with pos := { s.pos with schedule := p :: s.pos.schedule.erase p } })

/-- `c` takes, on `u`, a fired event of `s` of the earliest position among those that have fired. -/
def FiredFirst (s : State) (c : Instr) (u : State) : Prop :=
  ∃ x, HasFired s c x u ∧ ∀ d y v, HasFired s d y v → posDist s.pos.hwm x ≤ posDist s.pos.hwm y

/-- `t` is what the part makes of `s` by taking one event that has fired, of the earliest position, as that event's command
does. At most two free values are spent on it: the choice among several of one position, and a reading. -/
def FiredTaken (s t : State) : Prop :=
  ∃ (c : Instr) (u : State) (n : Nat), FiredFirst s c u ∧ s.freeIndex ≤ n ∧ n ≤ s.freeIndex + 2 ∧
    exec c { u with freeIndex := n } = .next t

/-- `t` is what the hand-over of a new V makes of `s` by taking one application event not beyond the high-water mark: the
first by firing position, then by nominal position, then by channel number (05 R82). -/
def AppTaken (s t : State) : Prop :=
  ∃ p : Pending, p ∈ s.pos.schedule ∧ isAppEvent p.event = true ∧ posDist s.pos.hwm p.pos ≤ 0 ∧
    (∀ y, y ∈ s.pos.schedule → isAppEvent y.event = true → posDist s.pos.hwm y.pos ≤ 0 →
      posDist s.pos.hwm p.pos < posDist s.pos.hwm y.pos ∨
      (posDist s.pos.hwm p.pos = posDist s.pos.hwm y.pos ∧
        (posDist s.pos.hwm p.nominal < posDist s.pos.hwm y.nominal ∨
          (posDist s.pos.hwm p.nominal = posDist s.pos.hwm y.nominal ∧
            eventChannel p.event ≤ eventChannel y.event)))) ∧
    exec (dueCommand 0 p.event) { s with pos := { s.pos with schedule := p :: s.pos.schedule.erase p } } = .next t

/-- `c` is the command of an event of the timebase whose moment has come: the end of a speed window of 10,000 µs (01 R17,
R18), the expiry of a running watchdog (11 R177), and the completion, 5,000 µs after it was taken, of a long operation whose
request's frame has passed (11 R182). -/
def TimeHasCome (s : State) (c : Instr) : Prop :=
  (c = .speedWindowEnd ∧ 10000 ≤ (s.pos.timebase - s.pos.windowStart).toNat) ∨
  (∃ t, s.ring.watchdog = some t ∧ 1000 * s.ring.watchdogMs ≤ (s.pos.timebase - t).toNat ∧ c = .watchdogExpiry) ∨
  (∃ o, s.mgmt.inFlight = some o ∧ o.carried = false ∧ 5000 ≤ (s.pos.timebase - o.taken).toNat ∧
    c = match o.op with | .recipeCheck => .checkCompletion | .recipeClear => .clearCompletion)

/-! ## What a step carries out -/

/-- The commands before which the part takes what has fired (log entry 3). -/
def SettlesFirst (c : Instr) : Prop :=
  (∃ p, c = .encoderStep p) ∨ (∃ a, c = .positionSet a) ∨ ∃ a l v, c = .machineTableApply a l v

/-- A step of `s` carries out `c` on `v`: the command at the front of the queue on the queue's rest; with none waiting, the
event that the part takes of itself; and each event that it takes on the way, before a command that settles first. -/
def Carries (s : State) (c : Instr) (v : State) : Prop :=
  (∃ q, s.pending = c :: q ∧ v = { s with pending := q }) ∨
  (s.pending = [] ∧ FiredFirst s c v) ∨
  (∃ d q w, s.pending = d :: q ∧ SettlesFirst d ∧ Relation.ReflTransGen FiredTaken { s with pending := q } w ∧
    FiredFirst w c v)

/-- `c` comes in the order in which 03 R51 to R53 have the blanks leave: a gate event that can be taken finds its record OPEN
and every record ahead of it COMMITTED, a delivery event finds its record COMMITTED and the head, and a LOST judgement finds
its record OPEN. -/
def InTurn (v : State) (c : Instr) : Prop :=
  (∀ q before r behind, c = .gateEvent q → takeScheduled (.gate q) v ≠ none →
    v.track.records = before ++ r :: behind → r.seq = q →
    r.stage = .opened ∧ ∀ y, y ∈ before → y.stage = .committed) ∧
  (∀ q r, c = .deliveryEvent q → takeScheduled (.delivery q) v ≠ none → findRecord v q = some r →
    v.track.records.head? = some r ∧ r.stage = .committed) ∧
  (∀ j x u w r, c = .watchEnd j → takeFired (.watchEnd j) v = some (x, u) → isPresence v j = true →
    (inspChannel v j).watch = some w → w.pitch = posPitch x → w.seen = false →
    v.track.records.find? (fun a => a.cutPitch == w.pitch - BitVec.ofNat 32 (inspOf v j).station) = some r →
    r.stage = .opened)

/-! ## What a feed event decides -/

/-- `v` is `u` with CUT_TOTAL counted (07 R125). -/
def CutCounted (u v : State) : Prop :=
  counter v .cutTotal = counter u .cutTotal + 1#32 ∧ (∀ c, c ≠ .cutTotal → counter v c = counter u c) ∧
  v = { u with counters := { u.counters with live := v.counters.live } }

/-- `t` is `v` with the blank diverted: DIVERTED is counted and FEED_GATE becomes active (07 R126). -/
def Diverted (v t : State) : Prop :=
  counter t .diverted = counter v .diverted + 1#32 ∧ (∀ c, c ≠ .diverted → counter t c = counter v c) ∧
  t.orders.feedGate = true ∧
  t = { v with counters := { v.counters with live := t.counters.live }, orders := { v.orders with feedGate := true } }

/-- `e` is an event that the announcement of the blank cut at pitch `p` for order `o` schedules: an on event for each dot
of each cam entry at its nominal position less the on lead, the window events of enabled SPAN and COUNT channels, the
sample of enabled LEVEL channels, and the gate and delivery events (05 R79, 06 R98, 08 R136). -/
def Announced (p : U32) (o : Order) (v : State) (e : Pending) : Prop :=
  (∃ (i d : Nat) (c : CamEntry), (recipeOf v o.slot).cams[i]? = some c ∧ (d < c.dots ∨ (c.dots = 0 ∧ d = 0)) ∧
    e.event = .appOn v.track.nextSeq c.channel i d ∧ e.floor = none ∧
    e.nominal = posAt (p + BitVec.ofNat 32 (getAt v.store.inForce.apps c.channel).station) (c.on + d * c.dotSpacing) ∧
    e.pos = posSub e.nominal (getAt v.app.channels c.channel).onLead) ∨
  (∃ (j : Fin 8) (c : InspSettings) (w : InspectionSetting) (a : Nat), c = getAt v.store.inForce.insps j ∧
    w = getAt (recipeOf v o.slot).settings j ∧ c.enabled = true ∧ w.enabled = true ∧
    ((c.kind = .level ∧ a = w.on ∧ e.event = .inspSample j v.track.nextSeq) ∨
      ((c.kind = .span ∨ c.kind = .count) ∧ ((a = w.on ∧ e.event = .inspOpen j v.track.nextSeq) ∨
        (a = w.off ∧ e.event = .inspEnd j v.track.nextSeq)))) ∧
    e = plainEvent (posAt (p + BitVec.ofNat 32 c.station) a) e.event) ∨
  e = plainEvent (posAt (p + BitVec.ofNat 32 v.store.inForce.general.gateOffset)
    v.store.inForce.general.gateAngle) (.gate v.track.nextSeq) ∨
  e = plainEvent (posAt (p + BitVec.ofNat 32 v.store.inForce.general.deliveryOffset)
    v.store.inForce.general.deliveryAngle) (.delivery v.track.nextSeq)

/-- `t` is `v` with the blank cut at pitch `p` accepted for order `o`: its record joins the tail, ACCEPTED is counted, the
slot's reference count rises, its events are scheduled, a sample lowers the countdown and FEED_GATE becomes inactive (03
R41 to R43, 07 R127; 02 R38). -/
def Accepted (p : U32) (o : Order) (v t : State) : Prop :=
  t.track.nextSeq = v.track.nextSeq + 1#32 ∧
  (∃ r : Record, t.track.records = v.track.records ++ [r] ∧ r.seq = v.track.nextSeq ∧
    r.cutPitch = p ∧ r.tag = o.tag ∧ r.slot = o.slot ∧ r.stage = .opened ∧
    r.verdict = verdictOf v p ∧ r.error = errorOf v p ∧
    (∀ c, hasDefect r.defects c = ((c == .register && verdictOf v p == some .outOfRegister)
      || (c == .sample && decide (0 < v.orders.countdown)))) ∧
    r.applied = 0#12 ∧ r.suppressed = 0#12 ∧ ∀ j, getAt r.values j = none) ∧
  counter t .accepted = counter v .accepted + 1#32 ∧ (∀ c, c ≠ .accepted → counter t c = counter v c) ∧
  slotOf t o.slot = { slotOf v o.slot with refs := (slotOf v o.slot).refs + 1 } ∧
  (∀ k, k ≠ o.slot → slotOf t k = slotOf v k) ∧
  t.orders = { v.orders with feedGate := false, countdown := v.orders.countdown - 1 } ∧
  t.app = { v.app with blanks := v.app.blanks ++ [⟨v.track.nextSeq, p, false⟩] } ∧
  (∃ new : List Pending, t.pos = { v.pos with schedule := v.pos.schedule ++ new } ∧
    ∀ e : Pending, e ∈ new ↔ Announced p o v e) ∧
  t = { v with track := t.track, counters := { v.counters with live := t.counters.live },
               store := { v.store with slots := t.store.slots }, orders := t.orders, app := t.app, pos := t.pos }

/-! ## Laws of the device -/

/-- Counter conservation (10 R164). -/
def Conserved (s : State) : Prop :=
  counter s .cutTotal = counter s .diverted + counter s .accepted ∧
  counter s .accepted = counter s .deliveredGood + counter s .rejected + counter s .lost
    + BitVec.ofNat 32 s.track.records.length ∧
  counter s .rejected = counter s .rejectRegister + counter s .rejectWindow + counter s .rejectGum
    + counter s .rejectFold + counter s .rejectThickness + counter s .rejectSample + counter s .rejectAborted
    + counter s .rejectSurplus + counter s .rejectNoRoom

/-- A slot in which a long operation works is CHECKING or CLEARING (02 R32, R34). -/
def workState : LongOp → SlotState
  | .recipeCheck => .checking
  | .recipeClear => .clearing

/-- The law of reference counts (02 R38): each count is the number of orders and records naming the slot, a slot with a
non-zero count is USABLE, and the slot of the operation in flight is in that operation's state. -/
def RefsHold (s : State) : Prop :=
  (∀ k : Fin 8, (slotOf s k).refs = s.orders.list.countP (fun o => o.slot == k)
    + s.track.records.countP (fun r => r.slot == k)) ∧
  (∀ k : Fin 8, 0 < (slotOf s k).refs → (slotOf s k).state = .usable) ∧
  (∀ o : InFlight, s.mgmt.inFlight = some o → (slotOf s o.slot).state = workState o.op)

/-- How many records have been created since record `r`, itself among them (03 R43). -/
def ageOf (s : State) (r : Record) : Nat := (s.track.nextSeq - r.seq).toNat

/-- Sequence numbers rise along the Transit List up to the next one (03 R43): ages fall along it and none is 0. -/
def SeqsFit (s : State) : Prop :=
  (s.track.records.map (ageOf s)).Pairwise (fun a b => b < a) ∧ ∀ r, r ∈ s.track.records → 0 < ageOf s r

/-- The law of the outfeed (08 R141): waiting + K is at most 4. -/
def Room (s : State) : Prop := s.deliv.waiting + s.deliv.committedCloses ≤ 4

/-- At most one order is ACTIVE, exactly in FEEDING (07 R119, R120), and no two orders have one tag (R114). -/
def OneActive (s : State) : Prop :=
  (s.orders.list.map Order.tag).Nodup ∧
  s.orders.list.countP (fun o => o.state == .active) = (if s.orders.feedState = .feeding then 1 else 0)

/-- The register source is that of the ACTIVE order, else of the next order, else none; the register state is OFF exactly
where no section is in force, and no window is open then (04 R58, R59, R63). -/
def SourceFits (s : State) : Prop :=
  s.reg.source = wantedSource s ∧ (s.reg.state = .off ↔ sectionInForce s = none) ∧
  (sectionInForce s = none → s.reg.window = none)

/-- In IDLE the Transit List is empty, and in DRAINING it is not (09 section 9.1, R154). -/
def RunFits (s : State) : Prop :=
  (s.line.run = .idle → s.track.records = []) ∧ (s.line.run = .draining → s.track.records ≠ [])

/-- The trim lies within ±1800, and so does every slot's trim limit (04 R66). -/
def TrimFits (s : State) : Prop :=
  s.reg.trim.natAbs ≤ 1800 ∧ ∀ k : Fin 8, (recipeOf s k).register.tlim ≤ 1800

/-- Capacities: Notice Queue (10 R169), Box Log (08 R147), Order List (07 R114), cam lists (02 R28), sample countdown
(07 R133), reverse depth (01 R12), V (01 R18), leads (05 R80) and consecutive-loss counts (06 R102). -/
def Fits (s : State) : Prop :=
  s.notices.queue.length ≤ 16 ∧ s.deliv.log.length ≤ 32 ∧ s.orders.list.length ≤ 16 ∧
  (∀ k : Fin 8, (recipeOf s k).cams.length ≤ 24) ∧ s.orders.countdown ≤ 15 ∧ s.pos.depth ≤ 2147483647 ∧
  s.pos.speed ≤ 4095 ∧
  (∀ k : Fin 12, (getAt s.app.channels k).onLead ≤ 1799 ∧ (getAt s.app.channels k).offLead ≤ 1799) ∧
  (∀ j : Fin 8, (inspChannel s j).losses ≤ 255)

/-- Held states exist in HALTED alone, where every CHANNEL and MANUAL line has one (01 R6). -/
def HeldFits (s : State) : Prop :=
  (s.line.run ≠ .halted → ∀ i : Fin 16, (getAt s.lines.outs i).held = none) ∧
  (s.line.run = .halted → ∀ i : Fin 16,
    ((getAt s.lines.outs i).function = .manual ∨ ∃ k, (getAt s.lines.outs i).function = .channel k) →
    (getAt s.lines.outs i).held ≠ none)

/-- Every record's order is in the list and is no longer QUEUED (03 R42, 07 R130). -/
def Owned (s : State) : Prop :=
  ∀ r, r ∈ s.track.records → ∃ o, o ∈ s.orders.list ∧ o.tag = r.tag ∧ o.state ≠ .queued

/-- For every order in the list, delivered + committed is at most Q (08 R139), and delivered + committed + hopeful at most
Q + S (07 R127). -/
def OrdersFit (s : State) : Prop :=
  ∀ o, o ∈ s.orders.list → o.delivered + committedOf s o.tag ≤ o.quantity ∧
    o.delivered + committedOf s o.tag + hopefulOf s o.tag ≤ o.quantity + o.spare

/-- An open box holds fewer envelopes than its B, so that none ever holds more (08 R142); every order's B is at least 1
(07 R115). -/
def BoxFits (s : State) : Prop :=
  (∀ b, s.deliv.openBox = some b → b.count < b.boxQuantity) ∧ ∀ o, o ∈ s.orders.list → 1 ≤ o.boxQuantity

/-- How many pitches ago pitch `p` was. -/
def pitchAge (s : State) (p : U32) : Nat := (pitchNumber s - p).toNat

/-- The pitches of the feed events that have fired and wait to be taken, oldest first. -/
def firedFeeds (s : State) : List U32 := (s.pos.due.filter (fun f => f.event == .feed)).map (fun f => posPitch f.pos)

/-- Cut pitches rise strictly along the Transit List (03 R44), on through the feed events that have fired and wait, and
the feed event of a pitch comes after all of them. -/
def PitchesRise (s : State) : Prop :=
  ((s.track.records.map Record.cutPitch ++ firedFeeds s).map (pitchAge s)).Pairwise (fun a b => b < a) ∧
  (posAngle s.pos.hwm < s.store.inForce.general.feedAngle →
    ∀ p, p ∈ s.track.records.map Record.cutPitch ++ firedFeeds s → 0 < pitchAge s p)

/-- A recurring event that has fired waits only while the machine stands at its high-water mark (01 R11, R12). -/
def FiredAtMark (s : State) : Prop := s.pos.due = [] ∨ s.pos.depth = 0

/-- `x` is `r` as amendments may leave it: the fields set at creation stand, OPEN may become COMMITTED, classes and channels
are only added, and a value once present stays present (03 R45 to R48). -/
def Grown (r x : Record) : Prop :=
  x.seq = r.seq ∧ x.cutPitch = r.cutPitch ∧ x.tag = r.tag ∧ x.slot = r.slot ∧
  x.verdict = r.verdict ∧ x.error = r.error ∧
  (r.stage = .committed → x.stage = .committed) ∧ r.defects &&& x.defects = r.defects ∧
  r.applied &&& x.applied = r.applied ∧ r.suppressed &&& x.suppressed = r.suppressed ∧
  ∀ j, getAt r.values j ≠ none → getAt x.values j ≠ none

/-- K and the projected box are those of the replay (08 R140). -/
def ProjectionHolds (s : State) : Prop := (s.deliv.committedCloses, s.deliv.projected) = replay s

/-- The COMMITTED records stand ahead of the OPEN ones (03 R51). -/
def CommittedFirst (s : State) : Prop :=
  s.track.records.Pairwise (fun x y => y.stage = .committed → x.stage = .committed)

/-- No two orders have one identity, no order and no open box has one still to be given, and an open box of an order in the
list has that order's tag and B (08 R142). -/
def IdsFit (s : State) : Prop :=
  (s.orders.list.map Order.id).Nodup ∧ (∀ o, o ∈ s.orders.list → o.id < s.orders.nextId) ∧
  ∀ b, s.deliv.openBox = some b → b.order < s.orders.nextId ∧
    ∀ o, o ∈ s.orders.list → o.id = b.order → b.tag = o.tag ∧ b.boxQuantity = o.boxQuantity

/-- The records of each order form one unbroken run of the list, and those of the ACTIVE order stand at its tail (03 R44). -/
def RunsUnbroken (s : State) : Prop :=
  (∀ a x b y c, s.track.records = a ++ x :: (b ++ y :: c) → x.tag = y.tag → ∀ z, z ∈ b → z.tag = x.tag) ∧
  ∀ o a x b, o ∈ s.orders.list → o.state = .active → s.track.records = a ++ x :: b → x.tag = o.tag →
    ∀ z, z ∈ b → z.tag = o.tag

/-- While the table is VALID, and in every run state but IDLE, the table in force passes the apply check (09 R152, 02 R24);
gate and delivery angles lie in their ranges (02 R22). -/
def TableFits (s : State) : Prop :=
  (s.store.validity = .valid ∨ s.line.run ≠ .idle → checkTable s.store.inForce = none) ∧
  ∀ t, t = s.store.working ∨ t = s.store.inForce → t.general.gateAngle ≤ 3599 ∧ t.general.deliveryAngle ≤ 3599

/-- The gate event of the blank of cut pitch `n` (08 R136). -/
def gateEventAt (s : State) (q n : U32) : Pending :=
  plainEvent (posAt (n + BitVec.ofNat 32 s.store.inForce.general.gateOffset) s.store.inForce.general.gateAngle) (.gate q)

/-- The delivery event of the blank of cut pitch `n` (08 R136). -/
def deliveryEventAt (s : State) (q n : U32) : Pending :=
  plainEvent (posAt (n + BitVec.ofNat 32 s.store.inForce.general.deliveryOffset) s.store.inForce.general.deliveryAngle)
    (.delivery q)

/-- Every fired recurring event fired at the high-water mark, where the machine stands. Every record is at most D pitches old
and has its delivery event pending, not yet passed; an OPEN one has its gate event so too, and a COMMITTED one has come to its
gate. No other gate or delivery event is pending, and none twice (08 R136, 03 R44 and R51). -/
def EventsStand (s : State) : Prop :=
  (∀ f, f ∈ s.pos.due → f.pos = s.pos.hwm ∧ s.pos.depth = 0) ∧
  (∀ r, r ∈ s.track.records → pitchAge s r.cutPitch ≤ s.store.inForce.general.deliveryOffset ∧
    deliveryEventAt s r.seq r.cutPitch ∈ s.pos.schedule ∧
    0 ≤ posDist s.pos.hwm (deliveryEventAt s r.seq r.cutPitch).pos ∧
    (r.stage = .opened → gateEventAt s r.seq r.cutPitch ∈ s.pos.schedule ∧
      0 ≤ posDist s.pos.hwm (gateEventAt s r.seq r.cutPitch).pos) ∧
    (r.stage = .committed → posDist s.pos.hwm (gateEventAt s r.seq r.cutPitch).pos ≤ 0)) ∧
  (∀ e q, e ∈ s.pos.schedule → e.event = .gate q →
    ∃ r, r ∈ s.track.records ∧ r.seq = q ∧ r.stage = .opened ∧ e = gateEventAt s q r.cutPitch) ∧
  (∀ e q, e ∈ s.pos.schedule → e.event = .delivery q →
    ∃ r, r ∈ s.track.records ∧ r.seq = q ∧ e = deliveryEventAt s q r.cutPitch) ∧
  ((s.pos.schedule.map Pending.event).filter isDeliveryEvent).Nodup

end Sys2Proof.Machine
end

