-- ==== Sys2Proof/Certificates/Slice0/Obligations.lean ====
section
/-! DEFINITION. The statements for the provers. -/

open Sys2Proof Sys2Proof.Machine

/-! ## Steps and requests as such -/

/-- A step takes the command at the front of the queue and is its effect on the state with the queue's rest. -/
def Obligations.StepRunsFront : Prop :=
  ∀ (c : Instr) (s : State), step { s with pending := c :: s.pending } = exec c s

/-- Every command in every state is taken, answered or without effect, and leaves the queue as it is; a step takes one command
from the queue and answers a next state. None ends in a fault or a refusal. With no command waiting a step takes one event that
has fired, of the earliest position, as that event's command does; where none has fired, one event of the timebase whose moment
has come; else the timebase rises by one microsecond. While the reset pin is held it changes nothing. All this is the model's
choice: what such a step does log entry 4, the order of events and the counter of free values entries 3 and 30, no fault or
refusal entry 26. -/
def Obligations.EveryCommandCompletes : Prop :=
  (∀ (c : Instr) (s : State), ∃ t, exec c s = .next t ∧ t.pending = s.pending) ∧
  (∀ (c : Instr) (q : List Instr) (s : State), s.pending = c :: q → ∃ t, step s = .next t ∧ t.pending = q) ∧
  (∀ s : State, s.pending = [] → ∃ t, step s = .next t ∧ t.pending = []) ∧
  (∀ s : State, s.pending = [] → s.resetHeld = true → step s = .next s) ∧
  (∀ s : State, s.pending = [] → s.resetHeld = false → (∃ c x u, HasFired s c x u) →
    ∃ t, step s = .next t ∧ FiredTaken s t) ∧
  (∀ s : State, s.pending = [] → s.resetHeld = false → (∀ c x u, ¬ HasFired s c x u) →
    ((∃ c, TimeHasCome s c) → ∃ (c : Instr) (n : Nat), step s = exec c { s with freeIndex := n } ∧
      s.freeIndex ≤ n ∧ n ≤ s.freeIndex + 1 ∧ TimeHasCome s c) ∧
    ((∀ c, ¬ TimeHasCome s c) →
      step s = .next { s with pos := { s.pos with timebase := s.pos.timebase + 1#32 } }))

/-- With node address 0 or 63 no management request reaches the part, one of an unknown kind neither. A request with a length
above 48, or shorter than the fields its kind needs, is answered BAD_ARG with length 0 before any check of its owner. While
WORKING every recipe and table request of a length that passes is refused with BUSY before any other check of its owner. An
UNKNOWN_REQUEST, whose kind code is outside the table of 11 section 11.4, is answered UNKNOWN with length 0 whatever its length
(11 R176, R181; 02 R36). -/
def Obligations.RequestsTurnedAway : Prop :=
 (∀ (c : Instr) (s : State) (k n : Nat) (a : List Byte), requestOf c = some (k, n, a) →
    (s.ring.node = 0#6 ∨ s.ring.node = 63#6) → exec c s = .next s) ∧
 (∀ (c : Instr) (s : State) (k n : Nat) (a : List Byte), requestOf c = some (k, n, a) → reachable s = true →
    48 < a.length ∨ a.length < n → exec c s = answered k a s .badArg [] s) ∧
 (∀ (c : Instr) (s : State) (k n : Nat) (a : List Byte), requestOf c = some (k, n, a) → k ∈ busyKinds →
    accepts s n a = true → s.mgmt.inFlight ≠ none → exec c s = answered k a s .busy [] s) ∧
 (∀ (kind : Byte) (args : List Byte) (s : State), kind.toNat ∉ knownKinds → reachable s = true →
    exec (.unknownRequest kind args) s = answered kind.toNat args s .unknown [] s) ∧
 (∀ (kind : Byte) (args : List Byte) (s : State), s.ring.node = 0#6 ∨ s.ring.node = 63#6 →
    exec (.unknownRequest kind args) s = .next s)

/-- The answer to a record keeps its destination, kind and tag, makes its state REPLY, writes length, result code, zero reserved
bytes and the payload padded with zeros, and leaves every byte outside the record as it was. The result codes are those of the
table of 11 section 11.4. The records stand behind the slots, each of 56 bytes. The one to be answered is the first, in record
order, whose destination is this node and whose state is REQUEST; its payload is the bytes in use, which its length byte counts
(11 R172, R181). A length byte above 48 counts bytes that no record has, which are read as zeros by the model's choice (log
entry 32). -/
def Obligations.ReplyReplacesRecord : Prop :=
 (∀ (f : List Byte) (j : Nat) (r : Reply), f.length = statedLength f → j < recordCount f → r.payload.length ≤ 48 →
    (writeReply f j r).length = f.length ∧
    u8 (writeReply f j r) (recordOff f j + 1) = 2 ∧
    u8 (writeReply f j r) (recordOff f j + 4) = r.payload.length ∧
    u8 (writeReply f j r) (recordOff f j + 5) = codeResult r.result ∧
    u8 (writeReply f j r) (recordOff f j + 6) = 0 ∧
    u8 (writeReply f j r) (recordOff f j + 7) = 0 ∧
    (∀ i, i < 48 → (writeReply f j r).getD (recordOff f j + 8 + i) 0#8 = r.payload.getD i 0#8) ∧
    (∀ i, i ≤ recordOff f j ∨ i = recordOff f j + 2 ∨ i = recordOff f j + 3 ∨ recordOff f j + 56 ≤ i →
      (writeReply f j r).getD i 0#8 = f.getD i 0#8)) ∧
 ([ResultCode.ok, .accepted, .busy, .state, .badArg, .locked, .inUse, .notUsable, .full, .duplicate, .notHeld, .empty,
    .badTable, .badRecipe, .unknown].map codeResult = List.range 15) ∧
 (∀ (f : List Byte) (n j : Nat), recordOff f j = 8 + 16 * u8 f 4 + 56 * j ∧ recordCount f = u8 f 5 ∧
    statedLength f = 12 + 16 * u8 f 4 + 56 * u8 f 5 ∧
    (nextRequest n f = some j ↔ j < u8 f 5 ∧ u8 f (recordOff f j) = n ∧ u8 f (recordOff f j + 1) = 1 ∧
      ∀ i, i < j → u8 f (recordOff f i) ≠ n ∨ u8 f (recordOff f i + 1) ≠ 1) ∧
    (f.length = statedLength f → j < u8 f 5 →
      (u8 f (recordOff f j + 4) ≤ 48 →
        recordArgs f j = (f.drop (recordOff f j + 8)).take (u8 f (recordOff f j + 4))) ∧
      (48 < u8 f (recordOff f j + 4) → recordArgs f j = (f.drop (recordOff f j + 8)).take 48
        ++ List.replicate (u8 f (recordOff f j + 4) - 48) 0#8)))

/-- What the making of a reply changes. Without a frame that carries the request only the reply register changes. A frame with a
request left stays, with the reply in its record. One with none left is forwarded with a new check: an operation in flight is
then no longer carried by it, and a reset that waited for it is due. Nothing else changes (11 R175, R181, R182; 09 R162). The
new check is the CRC-32 of every byte but the last four, which hold it with the least significant byte first (R173, R175). That
a request command stands for the next request left in the frame now passing, where its kind and payload are that record's, and
that the reply also stands in a register of the model, is the model's choice (log entry 6). -/
def Obligations.ReplyTouchesTheFrameOnly : Prop :=
 (∀ (place : Option (List Byte × Nat)) (r : Reply) (s : State),
    (place = none → giveReply place r s = { s with reply := some r }) ∧
    (∀ f j, place = some (f, j) → nextRequest s.ring.node.toNat (writeReply f j r) ≠ none →
      giveReply place r s
        = { s with reply := some r, ring := { s.ring with passage := some (writeReply f j r) } }) ∧
    (∀ f j, place = some (f, j) → nextRequest s.ring.node.toNat (writeReply f j r) = none →
      giveReply place r s = { s with
        reply := some r
        ring := { s.ring with sent := withCheck (writeReply f j r), passage := none }
        mgmt := { s.mgmt with inFlight := s.mgmt.inFlight.map (fun o => { o with carried := false }) }
        line := { s.line with reset := if s.line.reset = .inFrame then .due else s.line.reset } })) ∧
 (∀ (kind : Nat) (args f : List Byte) (j : Nat) (s : State), carriedAs kind args s = some (f, j) ↔
    s.ring.passage = some f ∧ nextRequest s.ring.node.toNat f = some j ∧ u8 f (recordOff f j + 2) = kind ∧
    recordArgs f j = args) ∧
 (∀ (f : List Byte) (c : Nat), c = (crc32 (f.take (f.length - 4))).toNat →
    withCheck f = f.take (f.length - 4)
      ++ [BitVec.ofNat 8 c, BitVec.ofNat 8 (c / 256), BitVec.ofNat 8 (c / 65536), BitVec.ofNat 8 (c / 16777216)])

/-! ## Resets -/

/-- What power-on reset and full reset leave, for whatever the pins show at its end: the values of 01 R9 and R19, 02 R20,
R22, R26 and R36, 03 R56, 04 R57, 05 R95, 06 R113, 07 R134, 08 R135, 09 R151, 10 R163 and R169, 11 R183. Both copies of the
Machine Table hold the reset values of 02 R22. -/
def Obligations.ResetValues : Prop :=
  ∀ pins : ResetPins,
    (State.resetWith pins).pos = ⟨0, 0, pins.phases, 0#32, 0#32, 0, 0, [], []⟩ ∧
    (State.resetWith pins).lines.modes = 0#16 ∧ (State.resetWith pins).lines.levels = pins.levels ∧
    (∀ i : Fin 16, getAt (State.resetWith pins).lines.outs i = ⟨.none, .activeHigh, .release, false, none⟩) ∧
    (∀ i : Fin 16, outputLevel (State.resetWith pins) i = false) ∧
    (State.resetWith pins).store.validity = .invalid ∧
    (∀ t : MachineTable, t = (State.resetWith pins).store.working ∨ t = (State.resetWith pins).store.inForce →
      t.general = ⟨0, 0, 0, 0, 0, 0, 0, .ring, 0⟩ ∧ t.gum = ⟨none, 0, 0⟩ ∧
      (∀ k : Fin 12, getAt t.apps k = ⟨false, .windowCut, 0, 0, 0, 0⟩) ∧
      (∀ j : Fin 8, getAt t.insps j = ⟨false, .presence, 0, 0⟩) ∧ t.modes = 0#16 ∧
      (∀ i : Fin 16, getAt t.outs i = ⟨.none, .activeHigh, .release⟩)) ∧
    (∀ k : Fin 8, slotOf (State.resetWith pins) k = ⟨.empty, 0, Recipe.initial⟩) ∧
    (Recipe.initial.header = ⟨0, List.replicate 12 32#8⟩ ∧
      Recipe.initial.register = ⟨false, 0, 0, 0, 0, 0, 0, 0, 0, 0⟩ ∧ Recipe.initial.cams = [] ∧
      (∀ j : Fin 8, getAt Recipe.initial.settings j = ⟨false, 0, 0, 0, 0, .register⟩) ∧
      Recipe.initial.rejectMask = 0#5) ∧
    (State.resetWith pins).track = ⟨[], 1#32⟩ ∧
    (State.resetWith pins).reg = ⟨.off, 0, 0, 0, 0, none, none, none⟩ ∧
    (∀ k : Fin 12, getAt (State.resetWith pins).app.channels k = ⟨none, 0, 0⟩) ∧
    (State.resetWith pins).app.blanks = [] ∧
    (∀ j : Fin 8, inspChannel (State.resetWith pins) j = ⟨none, none, none, false, false, 0⟩) ∧
    (State.resetWith pins).orders.list = [] ∧ (State.resetWith pins).orders.feedState = .noOrder ∧
    (State.resetWith pins).orders.forcedHold = false ∧
    holdReasons (State.resetWith pins) = 0#5 ∧ (State.resetWith pins).orders.countdown = 0 ∧
    (State.resetWith pins).orders.runningClass = none ∧ (State.resetWith pins).orders.feedGate = false ∧
    (State.resetWith pins).deliv = ⟨none, none, 0, 0, [], 1#32, false, false⟩ ∧
    (State.resetWith pins).line.run = .idle ∧ (State.resetWith pins).line.faults = 0#6 ∧
    (∀ c : Counter, counter (State.resetWith pins) c = 0#32) ∧
    (∀ i : Fin 20, getAt (State.resetWith pins).counters.buffer i = 0#32) ∧
    (State.resetWith pins).counters.valid = false ∧ (State.resetWith pins).notices = ⟨[], false⟩ ∧
    (State.resetWith pins).mgmt = ⟨none, none⟩ ∧ (State.resetWith pins).ring.node = pins.address ∧
    (State.resetWith pins).ring.watchdogMs = 20 ∧ (State.resetWith pins).ring.validFrame = false ∧
    (State.resetWith pins).ring.lineStop = false ∧ (State.resetWith pins).ring.takeCount = none ∧
    ((State.resetWith pins).ring.watchdog = none ↔ pins.address = 0#6 ∨ pins.address = 63#6)

/-- While the reset pin is held no request is taken and no fault latches (09 R162, 01 R10). That no event, completion, window
end or frame has an effect either, a frame not even being forwarded, is the model's choice (log entry 8, DEDUCED).
POWER_ON_RESET alone has an effect. RESET_FULL is answered OK in every run state; the reset is due once the frame that carried
it has passed, at once where none carried it. FULL_RESET then gives every block its reset value, POWER_ON_RESET does so in every
state, and both keep the model's own queue and free-value index (09 R162; log entries 11 and 20). RESET_PIN_HELD makes every
line low (01 R9). -/
def Obligations.ResetsTakeEffect : Prop :=
 (∀ (c : Instr) (s : State), s.resetHeld = true → (∀ pins, c ≠ .powerOnReset pins) → exec c s = .next s) ∧
 ((∀ (args : List Byte) (s : State), accepts s 0 args = true →
    exec (.resetFull args) s = answered 65 args s .ok [BitVec.ofNat 8 (codeRun s.line.run),
        BitVec.ofNat 8 s.line.faults.toNat]
      { s with line := { s.line with reset := if (carriedAs 65 args s).isSome then .inFrame else .due } }) ∧
  (∀ (pins : ResetPins) (s : State), s.resetHeld = false → s.line.reset = .due →
    exec (.fullReset pins) s
      = .next { State.resetWith pins with freeIndex := s.freeIndex, pending := s.pending }) ∧
  (∀ (pins : ResetPins) (s : State),
    exec (.powerOnReset pins) s
      = .next { State.resetWith pins with freeIndex := s.freeIndex, pending := s.pending }) ∧
  (∀ s : State, exec .resetPinHeld s = .next { s with resetHeld := true } ∧
    ∀ i : Fin 16, outputLevel { s with resetHeld := true } i = false))

/-! ## Line Control -/

/-- LINE_START makes the run state RUNNING from IDLE or DRAINING with a VALID table and no halting fault. LINE_DRAIN
leaves RUNNING, or HALTED without a halting fault, for DRAINING, or for IDLE where the Transit List is empty. LINE_RESUME
takes HALTED without a halting fault to RUNNING. From HALTED every held state becomes absent. Each is otherwise refused
with STATE, changing nothing, and every reply carries run state, coded by its place in R151's list, and fault set (09 R151
to R153, R155; 01 R6). -/
def Obligations.LineStartDrainResume : Prop :=
 (∀ (args : List Byte) (s : State), accepts s 0 args = true →
    ((s.line.run = .idle ∨ s.line.run = .draining) ∧ s.store.validity = .valid
        ∧ (∀ f, f ≠ .gumSupply → hasFault s f = false) →
      exec (.lineStart args) s = answered 60 args s .ok [1#8, BitVec.ofNat 8 s.line.faults.toNat]
        { s with line := { s.line with run := .running } }) ∧
    (¬ ((s.line.run = .idle ∨ s.line.run = .draining) ∧ s.store.validity = .valid
        ∧ (∀ f, f ≠ .gumSupply → hasFault s f = false)) →
      exec (.lineStart args) s = answered 60 args s .state
        [BitVec.ofNat 8 (codeRun s.line.run), BitVec.ofNat 8 s.line.faults.toNat] s)) ∧
 (∀ (args : List Byte) (s : State), accepts s 0 args = true →
    (s.line.run = .running ∨ (s.line.run = .halted ∧ ∀ f, f ≠ .gumSupply → hasFault s f = false) →
      ∃ t : State, exec (.lineDrain args) s = answered 61 args s .ok
          [if s.track.records = [] then 0#8 else 2#8, BitVec.ofNat 8 s.line.faults.toNat] t ∧
        t = { s with line := { s.line with run := if s.track.records = [] then .idle else .draining },
                     lines := { s.lines with outs := t.lines.outs } } ∧
        ∀ i : Fin 16, getAt t.lines.outs i = { getAt s.lines.outs i with
          held := if s.line.run = .halted then none else (getAt s.lines.outs i).held }) ∧
    (s.line.run = .idle ∨ s.line.run = .draining
        ∨ (s.line.run = .halted ∧ ∃ f, f ≠ .gumSupply ∧ hasFault s f = true) →
      exec (.lineDrain args) s = answered 61 args s .state
        [BitVec.ofNat 8 (codeRun s.line.run), BitVec.ofNat 8 s.line.faults.toNat] s)) ∧
 (∀ (args : List Byte) (s : State), accepts s 0 args = true →
    (s.line.run = .halted ∧ (∀ f, f ≠ .gumSupply → hasFault s f = false) →
      ∃ t : State, exec (.lineResume args) s
          = answered 62 args s .ok [1#8, BitVec.ofNat 8 s.line.faults.toNat] t ∧
        t = { s with line := { s.line with run := .running }, lines := { s.lines with outs := t.lines.outs } } ∧
        ∀ i : Fin 16, getAt t.lines.outs i = { getAt s.lines.outs i with held := none }) ∧
    (s.line.run ≠ .halted ∨ (∃ f, f ≠ .gumSupply ∧ hasFault s f = true) →
      exec (.lineResume args) s = answered 62 args s .state
        [BitVec.ofNat 8 (codeRun s.line.run), BitVec.ofNat 8 s.line.faults.toNat] s)) ∧
 ([RunState.idle, .running, .draining, .halted].map codeRun = List.range 4)

/-- LINE_PURGE in HALTED empties the Transit List, counts each record LOST and changes no other counter, keeps run state,
faults, next sequence number and position, drops every open watch, makes K 0 and the projected box the open box, and answers the
number removed. Applications, measurements in progress, blank entries and pending events of the blanks removed go with them (05
R87, 06 R108), and the other pending events stay. With each removal, head first, the completion test of the record's order is
made, so that every FEED_DONE order with a record in transit leaves with its ORDER_END and the register source follows. In
another run state it is refused with STATE (09 R161, 03 R50 and R54, 06 R112, 07 R130 and R134, 08 R149). -/
def Obligations.LinePurge : Prop :=
  ∀ (args : List Byte) (s : State), accepts s 0 args = true →
    (s.line.run = .halted →
      ∃ t : State, exec (.linePurge args) s = answered 63 args s .ok
          [BitVec.ofNat 8 s.track.records.length, 3#8, BitVec.ofNat 8 s.line.faults.toNat] t ∧
        t.track = { s.track with records := [] } ∧ t.line = s.line ∧
        counter t .lost = counter s .lost + BitVec.ofNat 32 s.track.records.length ∧
        (∀ c, c ≠ .lost → counter t c = counter s c) ∧
        (∀ j, inspChannel t j = { inspChannel s j with watch := none,
                                                       measurement := (inspChannel t j).measurement }) ∧
        t.deliv = { s.deliv with committedCloses := 0,
                                 projected := s.deliv.openBox.map (fun b => ⟨b.order, b.tag, b.count⟩) } ∧
        BlanksLeft (s.track.records.map Record.seq) s t ∧
        t.pos = { s.pos with schedule := eventsLeft (s.track.records.map Record.seq) s.pos.schedule,
                             due := t.pos.due } ∧ t.lines = s.lines ∧
        t.store.working = s.store.working ∧ t.store.inForce = s.store.inForce ∧
        t.orders.forcedHold = s.orders.forcedHold ∧ t.orders.countdown = s.orders.countdown ∧
        t.reg.trim = s.reg.trim ∧ t.reg.last = s.reg.last ∧ t.mgmt = s.mgmt ∧ t.ring = s.ring ∧
        (∀ u : State, u = (List.range s.track.records.length).foldl (fun v i =>
            completionTest ((s.track.records.map Record.tag).getD i 0)
              { v with track := { v.track with records := s.track.records.drop (i + 1) } }) s →
          t.orders = u.orders ∧ t.notices = u.notices ∧ t.reg = u.reg ∧ t.pos.due = u.pos.due) ∧
        ((s.orders.list.map Order.tag).Nodup → ∀ o, o ∈ s.orders.list → o.state = .feedDone →
          (∃ r, r ∈ s.track.records ∧ r.tag = o.tag) → ∀ x, x ∈ t.orders.list → x.tag ≠ o.tag)) ∧
    (s.line.run ≠ .halted →
      exec (.linePurge args) s = answered 63 args s .state
        [BitVec.ofNat 8 (codeRun s.line.run), BitVec.ofNat 8 s.line.faults.toNat] s)

/-- CLEAR_STATUS leaves a latched fault latched exactly where its condition fails: REVERSE with records in transit, RING
without a valid frame, MASTER_STOP with the last LINE_STOP flag set, GUM_SUPPLY with the gum pressure line below threshold
and hysteresis together; ENCODER and TRACKING clear. Clearing REVERSE re-bases, clearing TRACKING makes every PRESENCE
channel's loss count 0, and nothing else changes (09 R158, R159; 05 R92; 01 R13; 06 R102). -/
def Obligations.ClearStatus : Prop :=
  ∀ (args : List Byte) (reading : Int) (s : State), accepts s 0 args = true →
    ∃ t : State, exec (.clearStatus args reading) s = answered 64 args s .ok
        [BitVec.ofNat 8 (codeRun s.line.run), BitVec.ofNat 8 t.line.faults.toNat] t ∧
      hasFault t .encoder = false ∧ hasFault t .tracking = false ∧
      hasFault t .reverse = (hasFault s .reverse && !s.track.records.isEmpty) ∧
      hasFault t .ring = (hasFault s .ring && !s.ring.validFrame) ∧
      hasFault t .masterStop = (hasFault s .masterStop && s.ring.lineStop) ∧
      hasFault t .gumSupply = (hasFault s .gumSupply && (match s.store.inForce.gum.line with
        | none => false
        | some l => decide (analogRead s l reading
            < s.store.inForce.gum.threshold + s.store.inForce.gum.hysteresis))) ∧
      t = { s with line := { s.line with faults := t.line.faults }, pos := t.pos, insp := t.insp } ∧
      (hasFault s .reverse = true ∧ s.track.records = [] →
        t.pos = { s.pos with hwm := currentPos s, depth := 0 }) ∧
      (hasFault s .reverse = false ∨ s.track.records ≠ [] → t.pos = s.pos) ∧
      (∀ j : Fin 8, inspChannel t j = if hasFault s .tracking && isPresence s j then
        { inspChannel s j with losses := 0 } else inspChannel s j)

/-- A reported fault that is not latched latches and is offered as a notice; a halting one takes RUNNING or DRAINING to
HALTED, where every CHANNEL and MANUAL line has its driven state of that moment as its held state; a fault already latched
changes nothing (09 R156, R157; 01 R6). -/
def Obligations.ReportLatches : Prop :=
  ∀ (f : FaultKind) (s : State),
    (hasFault s f = true → report f s = s) ∧
    (hasFault s f = false →
      (∀ g, hasFault (report f s) g = (hasFault s g || g == f)) ∧
      (report f s).notices = (offer (.fault f) s).notices ∧
      (report f s).line.run = (if f ≠ .gumSupply ∧ (s.line.run = .running ∨ s.line.run = .draining) then .halted
        else s.line.run) ∧
      (∀ i : Fin 16, getAt (report f s).lines.outs i = { getAt s.lines.outs i with
        held := if f ≠ .gumSupply ∧ (s.line.run = .running ∨ s.line.run = .draining) then
            (if followsSafeMode (getAt s.lines.outs i).function then some (drivenState s i) else none)
          else (getAt s.lines.outs i).held }) ∧
      report f s = { s with line := { s.line with run := (report f s).line.run, faults := (report f s).line.faults },
                            lines := { s.lines with outs := (report f s).lines.outs },
                            notices := (report f s).notices })

/-! ## Counters and notices -/

/-- COUNTERS_READ is refused with BAD_ARG for a first number outside 0..19, a number n outside 1..12 or a sum above 20;
otherwise it answers the live values of counters first to first + n - 1, four bytes each, in every run state and unit state,
and changes nothing (10 R165). SNAPSHOT_READ makes the same checks, is then refused with EMPTY where the valid flag is
clear, and otherwise answers the buffer's values; it changes nothing (10 R168). -/
def Obligations.CounterReads : Prop :=
 (∀ (args : List Byte) (s : State), accepts s 2 args = true →
    (19 < u8 args 0 ∨ u8 args 1 = 0 ∨ 12 < u8 args 1 ∨ 20 < u8 args 0 + u8 args 1 →
      exec (.countersRead args) s = answered 70 args s .badArg [] s) ∧
    (u8 args 0 ≤ 19 → 1 ≤ u8 args 1 → u8 args 1 ≤ 12 → u8 args 0 + u8 args 1 ≤ 20 →
      ∃ p : List Byte, exec (.countersRead args) s = answered 70 args s .ok p s ∧
        p.length = 4 * u8 args 1 ∧
        ∀ c : Counter, u8 args 0 ≤ (counterIdx c).val → (counterIdx c).val < u8 args 0 + u8 args 1 →
          u32 p (4 * ((counterIdx c).val - u8 args 0)) = (counter s c).toNat)) ∧
 (∀ (args : List Byte) (s : State), accepts s 2 args = true →
    (19 < u8 args 0 ∨ u8 args 1 = 0 ∨ 12 < u8 args 1 ∨ 20 < u8 args 0 + u8 args 1 →
      exec (.snapshotRead args) s = answered 73 args s .badArg [] s) ∧
    (u8 args 0 ≤ 19 → 1 ≤ u8 args 1 → u8 args 1 ≤ 12 → u8 args 0 + u8 args 1 ≤ 20 →
      (s.counters.valid = false → exec (.snapshotRead args) s = answered 73 args s .empty [] s) ∧
      (s.counters.valid = true → ∃ p : List Byte, exec (.snapshotRead args) s = answered 73 args s .ok p s ∧
        p.length = 4 * u8 args 1 ∧
        ∀ i : Fin 20, u8 args 0 ≤ i.val → i.val < u8 args 0 + u8 args 1 →
          u32 p (4 * (i.val - u8 args 0)) = (getAt s.counters.buffer i).toNat)))

/-- COUNTERS_SNAPSHOT copies the live counters into the buffer and sets the valid flag, leaving them as they are.
COUNTERS_SNAPSHOT_RESET copies them too, then makes CUT_TOTAL and ACCEPTED the length of the Transit List and every other
counter 0, answers that length, and conservation holds from then on (10 R166, R167). -/
def Obligations.Snapshots : Prop :=
  ∀ (args : List Byte) (s : State), accepts s 0 args = true →
    exec (.countersSnapshot args) s = answered 71 args s .ok []
      { s with counters := { s.counters with buffer := s.counters.live, valid := true } } ∧
    ∃ t : State, exec (.countersSnapshotReset args) s
        = answered 72 args s .ok [BitVec.ofNat 8 s.track.records.length] t ∧
      t = { s with counters := { live := t.counters.live, buffer := s.counters.live, valid := true } } ∧
      (∀ c : Counter, counter t c = if c = .cutTotal ∨ c = .accepted then BitVec.ofNat 32 s.track.records.length
        else 0#32) ∧ Conserved t

/-- NOTICE_READ removes the two oldest notices, or all when fewer are held, and answers their number in byte 0 and each in
sixteen bytes from byte 1; the overflow flag is cleared where the queue is left empty and unchanged otherwise. A notice offered
to a queue of fewer than 16 joins its tail, and the flag stands; one offered to a queue of 16 is dropped and the flag is set (10
R169). A notice is its kind's place in the table of 10 section 10.3 and then the fields of that table, the rest zeros (10 R170,
11 R172). The codes of end states and of FEED_WAIT's feed state, the field sizes and the codes of OP_DONE's operation are the
model's choice (log entries 14, 15 and 41). -/
def Obligations.NoticeRead : Prop :=
 (∀ (args : List Byte) (s : State), accepts s 0 args = true →
    ∃ (t : State) (p : List Byte), exec (.noticeRead args) s = answered 74 args s .ok p t ∧
      t = { s with notices := { queue := s.notices.queue.drop 2,
                                overflow := s.notices.overflow && decide (2 < s.notices.queue.length) } } ∧
      p.length = 1 + 16 * min s.notices.queue.length 2 ∧
      u8 p 0 = min s.notices.queue.length 2 ∧
      (∀ n rest, s.notices.queue = n :: rest → (p.drop 1).take 16 = noticeBytes n) ∧
      (∀ n m rest, s.notices.queue = n :: m :: rest → p.drop 17 = noticeBytes m)) ∧
 (∀ (n : Notice) (p : List Byte), p = noticeBytes n → p.length = 16 ∧
    (∀ tag e d b sh, n = .orderEnd tag e d b sh → u8 p 0 = 0 ∧ u16 p 1 = tag % 65536 ∧
      u8 p 3 = (match e with | .complete => 0 | .short => 1 | .aborted => 2) ∧
      u32 p 4 = d % 4294967296 ∧ u32 p 8 = b % 4294967296 ∧ u32 p 12 = sh % 4294967296) ∧
    (∀ tag left, n = .earlyEnd tag left → u8 p 0 = 1 ∧ u16 p 1 = tag % 65536 ∧ u16 p 3 = left % 65536 ∧
      ∀ i, 5 ≤ i → u8 p i = 0) ∧
    (∀ q, n = .boxClosed q → u8 p 0 = 2 ∧ u32 p 1 = q.toNat ∧ ∀ i, 5 ≤ i → u8 p i = 0) ∧
    (∀ c tag, n = .feedWait c tag → u8 p 0 = 3 ∧ u8 p 1 = (if c then 1 else 0) ∧ u16 p 2 = tag % 65536 ∧
      ∀ i, 4 ≤ i → u8 p i = 0) ∧
    (∀ f, n = .fault f → u8 p 0 = 4 ∧ u8 p 1 = (match f with
        | .encoder => 0 | .reverse => 1 | .ring => 2 | .masterStop => 3 | .tracking => 4 | .gumSupply => 5) ∧
      ∀ i, 2 ≤ i → u8 p i = 0) ∧
    (∀ o k c f, n = .opDone o k c f → u8 p 0 = 5 ∧ u8 p 1 = (match o with | .recipeCheck => 0 | .recipeClear => 1) ∧
      u8 p 2 = k.val ∧ u8 p 3 = codeResult c ∧ (f = none → ∀ i, 4 ≤ i → u8 p i = 0) ∧
      (∀ x, f = some x → u8 p 4 = x.check % 256 ∧ u8 p 5 = x.kind % 256 ∧ u8 p 6 = x.index % 256 ∧
        u8 p 7 = x.field % 256 ∧ ∀ i, 8 ≤ i → u8 p i = 0)) ∧
    (n = .takeSpurious → u8 p 0 = 6 ∧ ∀ i, 1 ≤ i → u8 p i = 0)) ∧
 (∀ (n : Notice) (s : State),
    (s.notices.queue.length < 16 →
      offer n s = { s with notices := ⟨s.notices.queue ++ [n], s.notices.overflow⟩ }) ∧
    (16 ≤ s.notices.queue.length → offer n s = { s with notices := ⟨s.notices.queue, true⟩ }))

/-! ## Lines and position -/

/-- POSITION_SET is refused with BAD_ARG above 3599, then with STATE outside IDLE, the position left as it was. In IDLE it
places angle and high-water mark in the present pitch, makes the reverse depth 0 and fires an end of the reject gate or of the
separator pulse that the mark has come to or beyond; nothing else changes. Every reply carries the position record (01 R14).
That every event fired before it is taken first, by settle, which FiredEventsTaken spells, is the model's choice (log entries 3
and 34). OUTPUT_SET writes the masked manual values alone and answers manual values, driven states and digital input levels as
they then stand; in HALTED and for a line of another function the driven state is kept (01 R8). The driven state follows the
function as 01 R5's table says; in HALTED a CHANNEL or MANUAL line with RELEASE is inactive and one with HOLD stands at its held
state (R6), and a STOP_REQUEST line is active in HALTED alone (R7). The level is the driven state, inverted for ACTIVE_LOW (R4),
and low while the reset pin is held (R9). The position record is pitch number, angle, high-water angle, reverse depth and V
(R14); the lines' record is three sets of one bit a line, an ANALOG line inactive in the last (R8). -/
def Obligations.PositionAndOutputSet : Prop :=
 (∀ (args : List Byte) (s : State), accepts s 2 args = true →
    (3599 < u16 args 0 → exec (.positionSet args) s = answered 1 args s .badArg (positionRecord s) s) ∧
    (u16 args 0 ≤ 3599 → s.line.run ≠ .idle →
      exec (.positionSet args) s = answered 1 args s .state (positionRecord s) s) ∧
    (u16 args 0 ≤ 3599 → s.line.run = .idle → ∀ u : State, u = settle s →
      ∃ t : State, exec (.positionSet args) s = answered 1 args s .ok (positionRecord t) t ∧
        pitchNumber t = pitchNumber u ∧ currentAngle t = u16 args 0 ∧ posAngle t.pos.hwm = u16 args 0 ∧
        t.pos.depth = 0 ∧
        t = { u with pos := { u.pos with hwm := t.pos.hwm, depth := 0, schedule := t.pos.schedule },
                     deliv := { u.deliv with rejectGate := t.deliv.rejectGate, separator := t.deliv.separator } } ∧
        (∀ e, e ∈ t.pos.schedule → e ∈ u.pos.schedule) ∧
        (∀ e, e ∈ u.pos.schedule →
          (e.event ≠ .rejectGateEnd ∧ e.event ≠ .separatorEnd) ∨ isDue t.pos.hwm e = false → e ∈ t.pos.schedule) ∧
        t.deliv.rejectGate = (u.deliv.rejectGate &&
          !u.pos.schedule.any (fun e => e.event == .rejectGateEnd && isDue t.pos.hwm e)) ∧
        t.deliv.separator = (u.deliv.separator &&
          !u.pos.schedule.any (fun e => e.event == .separatorEnd && isDue t.pos.hwm e)))) ∧
 (∀ (args : List Byte) (s : State), accepts s 4 args = true →
    ∃ t : State, exec (.outputSet args) s = answered 2 args s .ok (linesRecord t) t ∧
      t = { s with lines := { s.lines with outs := t.lines.outs } } ∧
      (∀ i : Fin 16, getAt t.lines.outs i = { getAt s.lines.outs i with
        manual := if (u16 args 0).testBit i.val then (u16 args 2).testBit i.val
          else (getAt s.lines.outs i).manual }) ∧
      (∀ i : Fin 16, s.line.run = .halted ∨ (getAt s.lines.outs i).function ≠ .manual →
        drivenState t i = drivenState s i)) ∧
 (∀ (s : State) (i : Fin 16) (o : OutLine), o = getAt s.lines.outs i →
    (o.function = .none → drivenState s i = false) ∧
    (o.function = .manual → s.line.run ≠ .halted → drivenState s i = o.manual) ∧
    (∀ k, o.function = .channel k → s.line.run ≠ .halted →
      drivenState s i = (getAt s.app.channels k).serving.isSome) ∧
    (o.function = .feedGate → drivenState s i = s.orders.feedGate) ∧
    (o.function = .rejectGate → drivenState s i = s.deliv.rejectGate) ∧
    (o.function = .separator → drivenState s i = s.deliv.separator) ∧
    (o.function = .stopRequest → drivenState s i = decide (s.line.run = .halted)) ∧
    (s.line.run = .halted → (o.function = .manual ∨ ∃ k, o.function = .channel k) →
      (o.safeMode = .release → drivenState s i = false) ∧
      (∀ b, o.safeMode = .hold → o.held = some b → drivenState s i = b)) ∧
    outputLevel s i = (!s.resetHeld && (drivenState s i != decide (o.polarity = .activeLow)))) ∧
 (∀ s : State, positionRecord s = le32 (s.pos.hwm.val / 3600) ++ le16 ((s.pos.hwm - Fin.ofNat _ s.pos.depth).val % 3600)
    ++ le16 (s.pos.hwm.val % 3600) ++ le32 s.pos.depth ++ le16 s.pos.speed) ∧
 (∀ (s : State) (i : Fin 16), (linesRecord s).length = 6 ∧
    (u16 (linesRecord s) 0).testBit i.val = (getAt s.lines.outs i).manual ∧
    (u16 (linesRecord s) 2).testBit i.val = drivenState s i ∧
    (u16 (linesRecord s) 4).testBit i.val = (!s.lines.modes.getLsbD i.val && s.lines.levels.getLsbD i.val))

/-- ENCODER_STEP. That every event fired before it is taken first, by settle, which FiredEventsTaken spells, and that the events
it fires wait in the list of fired events, is the model's choice (log entry 3, DESIGN CHOICE). In forward motion the pair passes
low-low, high-low, high-high, low-high and back to low-low, phase A named first. A pair equal to the reference changes nothing
more. A forward step lowers a positive reverse depth, or raises the high-water mark by one, counts for speed and fires the
recurring events of the new angle. A reverse step raises the depth and reports REVERSE as it becomes 3600; at 2^31 - 1 it is the
ENCODER condition. Both phases together report ENCODER and move nothing. The pair becomes the reference (01 R10 to R12, R16). At
each angle the recurring events are the feed event at A_feed (07, 01 R16), the capture arm at M - W and the window close at M +
W of the section in force (04 R60), and at 100 and 3500 the watch open and the watch end of each enabled PRESENCE channel (06
R99), each once. -/
def Obligations.EncoderStep : Prop :=
 (∀ (pair : PhasePair) (s u : State), s.resetHeld = false → u = settle s →
    (pair = u.pos.phases → exec (.encoderStep pair) s = .next u) ∧
    (pair = forwardPair u.pos.phases → 0 < u.pos.depth →
      exec (.encoderStep pair) s
        = .next { u with pos := { u.pos with phases := pair, depth := u.pos.depth - 1 } }) ∧
    (pair = forwardPair u.pos.phases → u.pos.depth = 0 →
      exec (.encoderStep pair) s = .next { u with pos := { u.pos with
        phases := pair, hwm := u.pos.hwm + 1, windowCount := u.pos.windowCount + 1,
        due := u.pos.due
          ++ (recurringAt u (posAngle (u.pos.hwm + 1))).map (fun e => ⟨e, u.pos.hwm + 1⟩) } }) ∧
    (u.pos.phases = forwardPair pair → u.pos.depth < 2147483647 →
      exec (.encoderStep pair) s = .next
        (if u.pos.depth = 3599 then
          report .reverse { u with pos := { u.pos with phases := pair, depth := 3600 } }
        else { u with pos := { u.pos with phases := pair, depth := u.pos.depth + 1 } })) ∧
    (u.pos.phases = forwardPair pair → 2147483647 ≤ u.pos.depth →
      exec (.encoderStep pair) s = .next (report .encoder { u with pos := { u.pos with phases := pair } })) ∧
    (pair.a ≠ u.pos.phases.a → pair.b ≠ u.pos.phases.b →
      exec (.encoderStep pair) s = .next (report .encoder { u with pos := { u.pos with phases := pair } }))) ∧
 (∀ (s : State) (a : Nat), (recurringAt s a).Nodup ∧ ∀ e : Recurring, e ∈ recurringAt s a ↔
    (e = .feed ∧ a = s.store.inForce.general.feedAngle) ∨
    (∃ (k : Fin 8) (g : RegisterSettings), s.reg.source = some k ∧ g = (recipeOf s k).register ∧ g.enabled = true ∧
      ((e = .captureArm ∧ a + g.w = g.m) ∨ (e = .windowClose ∧ a = g.m + g.w))) ∨
    (∃ j : Fin 8, (getAt s.store.inForce.insps j).enabled = true ∧ (getAt s.store.inForce.insps j).kind = .presence ∧
      ((e = .watchOpen j ∧ a = 100) ∨ (e = .watchEnd j ∧ a = 3500)))) ∧
 (forwardPair ⟨false, false⟩ = ⟨true, false⟩ ∧ forwardPair ⟨true, false⟩ = ⟨true, true⟩ ∧
    forwardPair ⟨true, true⟩ = ⟨false, true⟩ ∧ forwardPair ⟨false, true⟩ = ⟨false, false⟩)

/-- SPEED_WINDOW_END makes V the window's count clamped to 4095, starts a new count from 0 and the next window where this one
ended. A V that stays hands nothing over; a new V gives every enabled channel the leads of its latencies, moves every pending
application event to the position its new lead gives, an off event not before its floor, and fires those left behind the
high-water mark, in R82's order, which FiredEventsTaken spells; position, orders, boxes and register stay (01 R17, R18; 05 R80
to R82). That it has this effect whatever time has passed, bringing the timebase forward to the window's end where it has not
come there, is the model's choice (log entry 5, DESIGN CHOICE); so is the taking first, in the same order, of application events
fired under the old leads (log entry 3, DESIGN CHOICE). That a disabled channel keeps its leads is log entry 35, DEDUCED. -/
def Obligations.SpeedWindowEnd : Prop :=
  ∀ s : State, s.resetHeld = false →
    ∃ t : State, exec .speedWindowEnd s = .next t ∧
      t.pos.speed = min s.pos.windowCount 4095 ∧ t.pos.windowCount = 0 ∧
      t.pos.windowStart = s.pos.windowStart + 10000#32 ∧
      t.pos.timebase = (if (s.pos.timebase - s.pos.windowStart).toNat < 10000 then s.pos.windowStart + 10000#32
        else s.pos.timebase) ∧
      t.pos = { t.pos with hwm := s.pos.hwm, depth := s.pos.depth, phases := s.pos.phases, due := s.pos.due } ∧
      (t.pos.speed = s.pos.speed → t = { s with pos := { s.pos with
        timebase := t.pos.timebase, windowStart := t.pos.windowStart, windowCount := 0 } }) ∧
      (t.pos.speed ≠ s.pos.speed → ∀ k : Fin 12, (getAt s.store.inForce.apps k).enabled = true →
        (getAt t.app.channels k).onLead
          = min (((getAt s.store.inForce.apps k).onLatency * t.pos.speed + 5000) / 10000) 1799 ∧
        (getAt t.app.channels k).offLead
          = min (((getAt s.store.inForce.apps k).offLatency * t.pos.speed + 5000) / 10000) 1799) ∧
      (∀ k : Fin 12, (getAt s.store.inForce.apps k).enabled = false →
        (getAt t.app.channels k).onLead = (getAt s.app.channels k).onLead ∧
        (getAt t.app.channels k).offLead = (getAt s.app.channels k).offLead) ∧
      t.orders = s.orders ∧ t.deliv = s.deliv ∧ t.reg = s.reg ∧ t.line = s.line ∧ t.lines = s.lines ∧
      t.store = s.store ∧ t.insp = s.insp ∧
      (t.pos.speed ≠ s.pos.speed → ∀ u v w : State,
        w = { s with pos := { s.pos with timebase := t.pos.timebase, windowStart := t.pos.windowStart,
                                         windowCount := 0, speed := t.pos.speed } } →
        u = takeFiredApps w →
        v = { u with
          app := { u.app with channels := v.app.channels }
          pos := { u.pos with schedule := u.pos.schedule.map (fun e => { e with pos := match e.event with
            | .appOn _ k _ _ => posSub e.nominal (getAt v.app.channels k).onLead
            | .appOff _ k _ _ => match e.floor with
              | some fl => posLater (posSub e.nominal (getAt v.app.channels k).offLead) fl
              | none => posSub e.nominal (getAt v.app.channels k).offLead
            | _ => e.pos }) } } →
        (∀ k : Fin 12, getAt v.app.channels k = { getAt u.app.channels k with
          onLead := (getAt t.app.channels k).onLead, offLead := (getAt t.app.channels k).offLead }) →
        t = takeFiredApps v ∧
        ((∀ e, e ∈ s.pos.schedule → isAppEvent e.event = true → isDue s.pos.hwm e = false) → u = w) ∧
        ((∀ e, e ∈ v.pos.schedule → isAppEvent e.event = true → isDue s.pos.hwm e = false) → t = v))

/-- An edge of a DIGITAL line updates its sampled level and no other. A rising edge of the mark line of the section in force,
inside an open window on that line without a capture and not before its start, latches the current angle; any other edge
leaves the Register Unit. It sets the seen flag of an open watch of an enabled PRESENCE channel on the line, opens or closes
an enabled SPAN channel's segment, a rising edge in an open segment and a falling one outside it being ignored, raises an
enabled COUNT channel's value with the machine at its high-water mark, and on the take source line is one take. Nothing else
changes. An ANALOG line, and a level that is no change, give no edge (01 R2, 04 R62, 06 R97, R100, R104 and R105, 08
R145). -/
def Obligations.EdgeEvent : Prop :=
  ∀ (l : Fin 16) (level : Bool) (s : State), s.resetHeld = false →
    (s.lines.modes.getLsbD l.val = true ∨ s.lines.levels.getLsbD l.val = level →
      exec (.edgeEvent l level) s = .next s) ∧
    (s.lines.modes.getLsbD l.val = false → s.lines.levels.getLsbD l.val ≠ level →
      ∃ t : State, exec (.edgeEvent l level) s = .next t ∧
        t = { s with lines := { s.lines with levels := t.lines.levels },
                     reg := t.reg,
                     insp := t.insp,
                     deliv := { s.deliv with waiting := t.deliv.waiting },
                     notices := t.notices } ∧
        (∀ i : Fin 16, t.lines.levels.getLsbD i.val = if i = l then level else s.lines.levels.getLsbD i.val) ∧
        (level = false ∨ s.reg.window = none ∨ sectionInForce s = none → t.reg = s.reg) ∧
        (∀ w g, level = true → s.reg.window = some w → sectionInForce s = some g →
          (g.markLine = l → w.line = l → w.capture = none → 0 ≤ posDist w.start (currentPos s) →
            t.reg = { s.reg with window := some { w with capture := some (currentAngle s) } }) ∧
          (g.markLine ≠ l ∨ w.line ≠ l ∨ w.capture ≠ none ∨ posDist w.start (currentPos s) < 0 →
            t.reg = s.reg)) ∧
        (∀ j : Fin 8, (getAt s.store.inForce.insps j).enabled = true → (getAt s.store.inForce.insps j).line = l →
          ((getAt s.store.inForce.insps j).kind = .presence → inspChannel t j = { inspChannel s j with
            watch := (inspChannel s j).watch.map (fun w => { w with seen := w.seen || level }) }) ∧
          ((getAt s.store.inForce.insps j).kind = .count → inspChannel t j = { inspChannel s j with
            measurement := (inspChannel s j).measurement.map (fun m => { m with
              value := if level = true ∧ s.pos.depth = 0 then min (m.value + 1) 255 else m.value }) }) ∧
          ((getAt s.store.inForce.insps j).kind = .span → inspChannel t j = { inspChannel s j with
            measurement := (inspChannel s j).measurement.map (fun m => match level, m.segment with
              | true, none => { m with segment := some (posLater m.start s.pos.hwm) }
              | true, some _ => m
              | false, some b => { m with
                  value := m.value + (posDist b (posLater m.start s.pos.hwm)).toNat, segment := none }
              | false, none => m) }) ∧
          ((getAt s.store.inForce.insps j).kind = .level → inspChannel t j = inspChannel s j)) ∧
        (∀ j : Fin 8, (getAt s.store.inForce.insps j).enabled = false ∨ (getAt s.store.inForce.insps j).line ≠ l →
          inspChannel t j = inspChannel s j) ∧
        (level = true ∧ s.store.inForce.general.takeSource = .line l →
          (0 < s.deliv.waiting → t.deliv.waiting = s.deliv.waiting - 1 ∧ t.notices = s.notices) ∧
          (s.deliv.waiting = 0 → t.deliv.waiting = 0 ∧ t.notices = (offer .takeSpurious s).notices)) ∧
        (level = false ∨ s.store.inForce.general.takeSource ≠ .line l →
          t.deliv = s.deliv ∧ t.notices = s.notices))

/-- A gum pressure below the threshold of the table in force reports GUM_SUPPLY: latched with its notice where it was not, and
the run state kept. No gum pressure line, a value at or above the threshold, or a fault already latched change nothing (05 R91,
09 R156). A running watchdog's expiry clears the valid-frame flag, stops the watchdog and reports RING as ReportLatches spells,
which halts a line that runs or drains, its CHANNEL and MANUAL lines held as they are then driven (01 R6); a stopped watchdog
does not expire (11 R177). That a WATCHDOG_EXPIRY has this effect whatever time has passed since the restart, bringing the
timebase forward to the expiry time where it has not come there, is the model's choice (log entry 5, DESIGN CHOICE). -/
def Obligations.ConditionsReported : Prop :=
 (∀ (reading : Int) (s : State), s.resetHeld = false →
    (s.store.inForce.gum.line = none → exec (.gumPressureLow reading) s = .next s) ∧
    (∀ l, s.store.inForce.gum.line = some l →
      (s.store.inForce.gum.threshold ≤ analogRead s l reading ∨ hasFault s .gumSupply = true →
        exec (.gumPressureLow reading) s = .next s) ∧
      (analogRead s l reading < s.store.inForce.gum.threshold → hasFault s .gumSupply = false →
        exec (.gumPressureLow reading) s = .next (offer (.fault .gumSupply)
          { s with line := { s.line with faults := s.line.faults ||| 32#6 } })))) ∧
 (∀ s : State, s.resetHeld = false →
    (s.ring.watchdog = none → exec .watchdogExpiry s = .next s) ∧
    (∀ t0, s.ring.watchdog = some t0 →
      ∃ v t : State, exec .watchdogExpiry s = .next t ∧
        v = { s with pos := { s.pos with timebase := v.pos.timebase },
                     ring := { s.ring with watchdog := none, validFrame := false } } ∧
        v.pos.timebase = (if (s.pos.timebase - t0).toNat < 1000 * s.ring.watchdogMs then
          t0 + BitVec.ofNat 32 (1000 * s.ring.watchdogMs) else s.pos.timebase) ∧
        t = report .ring v ∧ t.ring.watchdog = none ∧ t.ring.validFrame = false ∧
        (∀ i : Fin 16, getAt t.lines.outs i = { getAt s.lines.outs i with
          held := if hasFault s .ring = false ∧ (s.line.run = .running ∨ s.line.run = .draining) then
              (if followsSafeMode (getAt s.lines.outs i).function then some (drivenState s i) else none)
            else (getAt s.lines.outs i).held }) ∧
        hasFault t .ring = true ∧ (∀ g, g ≠ .ring → hasFault t g = hasFault s g) ∧
        (hasFault s .ring = true → t.line = s.line ∧ t.notices = s.notices) ∧
        (hasFault s .ring = false → t.notices = (offer (.fault .ring) s).notices ∧
          t.line.run = (if s.line.run = .running ∨ s.line.run = .draining then .halted else s.line.run)) ∧
        t = { v with line := t.line, lines := { v.lines with outs := t.lines.outs }, notices := t.notices }))

/-! ## Ring -/

/-- A valid cycle frame restarts the watchdog, sets the valid-frame flag, is held as the last LINE_STOP flag and cycle
number, reports MASTER_STOP with LINE_STOP set, has its slots written and its reserved header bytes made 0, and has its TAKE
slot read; it then leaves with a new check where it holds no request for this node, and is held with one (11 R172, R175 to
R180). A damaged frame, one whose counts, length, check or DAMAGED flag say so, is forwarded with its DAMAGED flag set and
every other byte as it arrived; a valid frame of another kind than CYCLE, and with node address 0 or 63 every frame, is
forwarded as it arrived; nothing else changes (11 R173, R174, R176). A frame that finds a reset due is received under the
reset values (11 R183), the pins standing as last found by the model's choice (log entry 11); one that arrives while another
is passing has no effect, by the model's choice (log entry 21). The zero header bytes and the check's bit order are log
entries 42 and 12. -/
def Obligations.FrameArrival : Prop :=
 (∀ (f g : List Byte) (s v r : State), s.resetHeld = false → repeating s = false → s.line.reset ≠ .due →
    s.ring.passage = none → isDamaged f = false → u8 f 0 = 1 →
    v = (if (f.getD 1 0#8).getLsbD 0 then report .masterStop else id)
      { s with ring := { s.ring with watchdog := some s.pos.timebase, validFrame := true,
                                     lineStop := (f.getD 1 0#8).getLsbD 0, cycle := u16 f 2 } } →
    r = readTakes f v → g = clearReserved (writeSlots v f) →
    (nextRequest s.ring.node.toNat g ≠ none →
      exec (.frameArrival f) s = .next { r with ring := { r.ring with passage := some g } }) ∧
    (nextRequest s.ring.node.toNat g = none →
      exec (.frameArrival f) s = .next { r with
        ring := { r.ring with sent := withCheck g, passage := none }
        mgmt := { s.mgmt with inFlight := s.mgmt.inFlight.map (fun o => { o with carried := false }) }
        line := { r.line with reset := if s.line.reset = .inFrame then .due else s.line.reset } })) ∧
 (∀ f : List Byte, isDamaged f = true ↔ 32 < u8 f 4 ∨ 4 < u8 f 5 ∨ f.length ≠ 12 + 16 * u8 f 4 + 56 * u8 f 5 ∨
    (f.getD 1 0#8).getLsbD 7 = true ∨ u32 f (f.length - 4) ≠ (crc32 (f.take (f.length - 4))).toNat) ∧
 (crc32 [] = 0#32 ∧ ∀ (bs : List Byte) (b : Byte), crc32 (bs ++ [b]) = ~~~ (List.range 8).foldl
    (fun c _ => if c.getLsbD 0 then (c >>> 1) ^^^ 0xEDB88320#32 else c >>> 1) (~~~ crc32 bs ^^^ b.zeroExtend 32)) ∧
 (∀ (f : List Byte) (s : State), s.resetHeld = false →
    (repeating s = true → exec (.frameArrival f) s = .next { s with ring := { s.ring with sent := f } }) ∧
    (repeating s = false → s.ring.passage ≠ none → exec (.frameArrival f) s = .next s) ∧
    (repeating s = false → s.ring.passage = none → s.line.reset = .due →
      exec (.frameArrival f) s = exec (.frameArrival f)
        { State.resetWith ⟨s.lines.levels, s.pos.phases, s.ring.node⟩ with
          freeIndex := s.freeIndex, pending := s.pending }) ∧
    (repeating s = false → s.ring.passage = none → s.line.reset ≠ .due → isDamaged f = true →
      ∃ g : List Byte, exec (.frameArrival f) s = .next { s with ring := { s.ring with sent := g } } ∧
        g.length = f.length ∧ (∀ i, i ≠ 1 → g.getD i 0#8 = f.getD i 0#8) ∧
        (2 ≤ f.length → g.getD 1 0#8 = f.getD 1 0#8 ||| 0x80#8)) ∧
    (repeating s = false → s.ring.passage = none → s.line.reset ≠ .due → isDamaged f = false → u8 f 0 ≠ 1 →
      exec (.frameArrival f) s = .next { s with ring := { s.ring with sent := f } }))

/-- Every STATUS slot of this node is written with its valid flag and the STATUS payload, every TRIM slot with the TRIM
payload; slots of other writers and kinds, the header and all that follows the slots stay as they arrived (11 R179). The
payloads hold the fields of 11 R172's table, byte by byte. The header's two reserved bytes are then made 0 and no other byte
is changed (11 R172; log entry 42, DEDUCED). -/
def Obligations.SlotsWritten : Prop :=
 (∀ (f : List Byte) (s : State), f.length = statedLength f →
    (writeSlots s f).length = f.length ∧
    (∀ i, i < 8 ∨ recordOff f 0 ≤ i → (writeSlots s f).getD i 0#8 = f.getD i 0#8) ∧
    (∀ k, k < slotCount f →
      (∀ i, i < 3 → (writeSlots s f).getD (slotOff k + i) 0#8 = f.getD (slotOff k + i) 0#8) ∧
      (u8 f (slotOff k) = s.ring.node.toNat → u8 f (slotOff k + 2) = 1 →
        ((writeSlots s f).drop (slotOff k + 3)).take 13 = 1#8 :: statusPayload s) ∧
      (u8 f (slotOff k) = s.ring.node.toNat → u8 f (slotOff k + 2) = 2 →
        ((writeSlots s f).drop (slotOff k + 3)).take 13 = 1#8 :: trimPayload s) ∧
      (u8 f (slotOff k) ≠ s.ring.node.toNat ∨ (u8 f (slotOff k + 2) ≠ 1 ∧ u8 f (slotOff k + 2) ≠ 2) →
        ((writeSlots s f).drop (slotOff k)).take 16 = (f.drop (slotOff k)).take 16))) ∧
 (∀ f : List Byte, 8 ≤ f.length → (clearReserved f).length = f.length ∧
    ∀ i, (clearReserved f).getD i 0#8 = if i = 6 ∨ i = 7 then 0#8 else f.getD i 0#8) ∧
 (∀ (s : State) (reg tag trim err pitch : Nat),
    reg = (match s.reg.state with | .off => 0 | .seek => 1 | .locked => 2 | .coast => 3 | .lost => 4) →
    tag = (match activeOrder s with | some o => o.tag | none => 0) →
    trim = (s.reg.trim % 65536).toNat →
    err = (match s.reg.last with | some c => (c.error % 65536).toNat | none => 0) →
    pitch = (match s.reg.last with | some c => c.pitch.toNat | none => 0) →
    statusPayload s = [
      BitVec.ofNat 8 (match s.line.run with | .idle => 0 | .running => 1 | .draining => 2 | .halted => 3),
      BitVec.ofNat 8 (match s.orders.feedState with
        | .noOrder => 0 | .feeding => 1 | .suspended => 2 | .changeover => 3),
      (holdReasons s).setWidth 8, BitVec.ofNat 8 reg, s.line.faults.setWidth 8,
      BitVec.ofNat 8 (s.notices.queue.length + if s.notices.overflow then 128 else 0),
      BitVec.ofNat 8 tag, BitVec.ofNat 8 (tag / 256), BitVec.ofNat 8 s.pos.speed, BitVec.ofNat 8 (s.pos.speed / 256),
      BitVec.ofNat 8 trim, BitVec.ofNat 8 (trim / 256)] ∧
    trimPayload s = [BitVec.ofNat 8 trim, BitVec.ofNat 8 (trim / 256), BitVec.ofNat 8 reg,
      BitVec.ofNat 8 err, BitVec.ofNat 8 (err / 256), BitVec.ofNat 8 pitch, BitVec.ofNat 8 (pitch / 256),
      0#8, 0#8, 0#8, 0#8, 0#8])

/-- The first count read after a reset is held and takes nothing. Each later one is held, and where the take source is the ring
TAKE slot its difference modulo 256 from the last count is taken from the waiting count, each take beyond it being offered as
TAKE_SPURIOUS, with the overflow flag set where the queue has no room for it, and nothing else changes; from an input line the
count is followed and nothing is taken (11 R180, 08 R145). The slot read is the first of kind TAKE whose reader is this node and
whose valid flag is 1, its count the first payload byte; a frame without one leaves everything as it was (11 R180). That a valid
flag of 2 or more is not set is log entry 33, DEDUCED. -/
def Obligations.TakesRead : Prop :=
 (∀ (f : List Byte) (s : State) (c : Byte), takeSlot s f = some c →
    (readTakes f s).ring = { s.ring with takeCount := some c } ∧
    (s.ring.takeCount = none ∨ s.store.inForce.general.takeSource ≠ .ring →
      readTakes f s = { s with ring := { s.ring with takeCount := some c } }) ∧
    (∀ old, s.ring.takeCount = some old → s.store.inForce.general.takeSource = .ring →
      readTakes f s = { s with
        ring := { s.ring with takeCount := some c }
        deliv := { s.deliv with waiting := s.deliv.waiting - (c - old).toNat }
        notices := ⟨s.notices.queue ++ List.replicate
            (min ((c - old).toNat - s.deliv.waiting) (16 - s.notices.queue.length)) .takeSpurious,
          s.notices.overflow || decide (16 - s.notices.queue.length < (c - old).toNat - s.deliv.waiting)⟩ })) ∧
 (∀ (f : List Byte) (s : State),
    (∀ c, takeSlot s f = some c ↔ ∃ k, k < slotCount f ∧
      (u8 f (slotOff k + 2) = 3 ∧ u8 f (slotOff k + 1) = s.ring.node.toNat ∧ u8 f (slotOff k + 3) = 1) ∧
      (∀ j, j < k → ¬ (u8 f (slotOff j + 2) = 3 ∧ u8 f (slotOff j + 1) = s.ring.node.toNat ∧ u8 f (slotOff j + 3) = 1)) ∧
      c = f.getD (slotOff k + 4) 0#8) ∧
    (takeSlot s f = none → readTakes f s = s) ∧
    (∀ k, slotOff k = 8 + 16 * k) ∧ slotCount f = u8 f 4)

/-- MGMT_STATUS is answered OK in READY and WORKING with the unit state, the operation in flight, the last result, the node
address, the validity, the Table Lock level and the cycle number of the last valid cycle frame, and changes nothing
(11 R182). That Table Lock is coded 1 when active, that the reply always takes fifteen bytes with absent fields coded 255,
and the codes of the operations are the model's choice (log entries 13, 15 and 41, DESIGN CHOICE). -/
def Obligations.MgmtStatus : Prop :=
  ∀ (args : List Byte) (lock : Bool) (s : State), accepts s 0 args = true →
    ∃ p : List Byte, exec (.mgmtStatus args lock) s = answered 80 args s .ok p s ∧ p.length = 15 ∧
      u8 p 0 = (if s.mgmt.inFlight = none then 0 else 1) ∧
      (∀ o, s.mgmt.inFlight = some o → u8 p 1 = codeOp o.op ∧ u8 p 2 = o.slot.val) ∧
      (s.mgmt.inFlight = none → u8 p 1 = 255 ∧ u8 p 2 = 255) ∧
      (∀ r, s.mgmt.last = some r → u8 p 3 = codeOp r.op ∧ u8 p 4 = r.slot.val ∧ u8 p 5 = codeResult r.result) ∧
      (s.mgmt.last = none → u8 p 3 = 255 ∧ u8 p 4 = 255 ∧ u8 p 5 = 255) ∧
      (∀ r f, s.mgmt.last = some r → r.failure = some f → (p.drop 6).take 4
        = [BitVec.ofNat 8 f.check, BitVec.ofNat 8 f.kind, BitVec.ofNat 8 f.index, BitVec.ofNat 8 f.field]) ∧
      (∀ r, s.mgmt.last = some r → r.failure = none → (p.drop 6).take 4 = [255#8, 255#8, 255#8, 255#8]) ∧
      (s.mgmt.last = none → (p.drop 6).take 4 = [255#8, 255#8, 255#8, 255#8]) ∧
      codeOp .recipeCheck = 0 ∧ codeOp .recipeClear = 1 ∧
      u8 p 10 = s.ring.node.toNat ∧ u8 p 11 = (if s.store.validity = .valid then 1 else 0) ∧ u8 p 12 = lock.toNat ∧
      u16 p 13 = s.ring.cycle % 65536

/-! ## Machine Table and recipes -/

/-- MACHINE_TABLE_WRITE, once READY: BAD_ARG for an unknown item or a field outside its write range, then LOCKED, STATE
outside IDLE, IN_USE with a slot not EMPTY, each changing nothing; else the item is replaced in the working table and the
validity becomes INVALID, the table in force kept (02 R20, R21). The items, their fields in order and the write ranges are those
of 02 R22 with the codes of 11 R172, and the field named is the first out of range. That a kind without an index is unknown
under another index byte than 0 is the model's choice (log entry 16). -/
def Obligations.MachineTableWrite : Prop :=
 (∀ (args : List Byte) (lock : Bool) (s : State), accepts s (2 + tableItemSize (u8 args 0)) args = true →
    s.mgmt.inFlight = none →
    (parseTableItem (u8 args 0) (u8 args 1) (args.drop 2) = .unknown →
      exec (.machineTableWrite args lock) s = answered 10 args s .badArg [] s) ∧
    (∀ n, parseTableItem (u8 args 0) (u8 args 1) (args.drop 2) = .badField n →
      exec (.machineTableWrite args lock) s = answered 10 args s .badArg [BitVec.ofNat 8 n] s) ∧
    (∀ x, parseTableItem (u8 args 0) (u8 args 1) (args.drop 2) = .item x →
      (lock = true → exec (.machineTableWrite args lock) s = answered 10 args s .locked [] s) ∧
      (lock = false → s.line.run ≠ .idle →
        exec (.machineTableWrite args lock) s = answered 10 args s .state [] s) ∧
      (lock = false → s.line.run = .idle → (∃ k : Fin 8, (slotOf s k).state ≠ .empty) →
        exec (.machineTableWrite args lock) s = answered 10 args s .inUse [] s) ∧
      (lock = false → s.line.run = .idle → (∀ k : Fin 8, (slotOf s k).state = .empty) →
        exec (.machineTableWrite args lock) s = answered 10 args s .ok [] { s with store := { s.store with
          working := writeTableItem s.store.working x, validity := .invalid } }))) ∧
 (∀ (i : Nat) (b : List Byte),
    (∀ k, k = 0 ∨ 6 < k → parseTableItem k i b = .unknown) ∧
    (0 < i → parseTableItem 1 i b = .unknown ∧ parseTableItem 2 i b = .unknown ∧ parseTableItem 5 i b = .unknown) ∧
    (12 ≤ i → parseTableItem 3 i b = .unknown) ∧ (8 ≤ i → parseTableItem 4 i b = .unknown) ∧
    (16 ≤ i → parseTableItem 6 i b = .unknown) ∧
    parseTableItem 1 0 b = inRanges [decide (1 ≤ u16 b 0 ∧ u16 b 0 ≤ 3599), decide (2 ≤ u8 b 2 ∧ u8 b 2 ≤ 28),
        decide (u16 b 3 ≤ 3599), decide (4 ≤ u8 b 5 ∧ u8 b 5 ≤ 30), decide (u16 b 6 ≤ 3599),
        decide (1 ≤ u16 b 8 ∧ u16 b 8 ≤ 3599), decide (1 ≤ u8 b 10 ∧ u8 b 10 ≤ 4),
        decide (u8 b 11 ≤ 15 ∨ u8 b 11 = 255), decide (2 ≤ u8 b 12 ∧ u8 b 12 ≤ 100)]
      (.general ⟨u16 b 0, u8 b 2, u16 b 3, u8 b 5, u16 b 6, u16 b 8, u8 b 10,
        if u8 b 11 = 255 then .ring else .line (Fin.ofNat 16 (u8 b 11)), u8 b 12⟩) ∧
    parseTableItem 2 0 b = inRanges [decide (u8 b 0 ≤ 15 ∨ u8 b 0 = 255), decide (u16 b 1 ≤ 4095),
        decide (u16 b 3 ≤ 1000)]
      (.gum ⟨if u8 b 0 = 255 then none else some (Fin.ofNat 16 (u8 b 0)), u16 b 1, u16 b 3⟩) ∧
    (∀ k : Fin 12, parseTableItem 3 k.val b = inRanges [decide (u8 b 0 ≤ 1), decide (u8 b 1 ≤ 3),
        decide (2 ≤ u8 b 2 ∧ u8 b 2 ≤ 29), decide (u8 b 3 ≤ 15), decide (u16 b 4 ≤ 20000), decide (u16 b 6 ≤ 20000)]
      (.application k ⟨decide (u8 b 0 = 1), [.windowCut, .patch, .gum].getD (u8 b 1) .aux, u8 b 2,
        Fin.ofNat 16 (u8 b 3), u16 b 4, u16 b 6⟩)) ∧
    (∀ j : Fin 8, parseTableItem 4 j.val b = inRanges [decide (u8 b 0 ≤ 1), decide (u8 b 1 ≤ 3),
        decide (1 ≤ u8 b 2 ∧ u8 b 2 ≤ 27), decide (u8 b 3 ≤ 15)]
      (.inspection j ⟨decide (u8 b 0 = 1), [.presence, .span, .count].getD (u8 b 1) .level, u8 b 2,
        Fin.ofNat 16 (u8 b 3)⟩)) ∧
    parseTableItem 5 0 b = .item (.inputModes (BitVec.ofNat 16 (u16 b 0))) ∧
    (∀ l : Fin 16, parseTableItem 6 l.val b = inRanges [decide (u8 b 0 ≤ 5 ∨ (16 ≤ u8 b 0 ∧ u8 b 0 ≤ 27)),
        decide (u8 b 1 ≤ 1), decide (u8 b 2 ≤ 1)]
      (.output l ⟨[.none, .manual, .feedGate, .rejectGate, .separator, .stopRequest].getD (u8 b 0)
          (.channel (Fin.ofNat 12 (u8 b 0 - 16))),
        if u8 b 1 = 1 then .activeLow else .activeHigh, if u8 b 2 = 1 then .hold else .release⟩)))

/-- Every item of the Machine Table and of a recipe that the write ranges admit keeps every field: its bytes are those that
came, it reads back from the table or the recipe written, CAM_LENGTH as the new length, and no other item of the Machine
Table is changed (02 R21, R22, R25, R28 to R31, R35; 11 R172). -/
def Obligations.ItemsKeepEveryField : Prop :=
 (∀ (t : MachineTable) (kind index : Nat) (b : List Byte) (x : TableItem), b.length = tableItemSize kind →
    parseTableItem kind index b = .item x →
    readTableItem (writeTableItem t x) kind index = some x ∧ encodeTableItem x = b ∧
    (∀ kind' index', (kind', index') ≠ (kind, index) →
      readTableItem (writeTableItem t x) kind' index' = readTableItem t kind' index')) ∧
 (∀ (r : Recipe) (kind index : Nat) (b : List Byte) (x : RecipeItem), b.length = recipeItemSize kind →
    r.cams.length ≤ 24 → parseRecipeItem r.cams.length kind index b = .item x →
    encodeRecipeItem x = b ∧ readRecipeItem (writeRecipeItem r x) kind index = some x)

/-- MACHINE_TABLE_READ, once READY, answers the item of the working table that kind and index name, with the validity, and
BAD_ARG where they name none (02 R25). RECIPE_READ of a slot 0..7, once READY, answers the slot's state, reference count
and cam list length with the item named, in every slot state: HEADER, REGISTER, CAM_LENGTH and REJECT_MASK whatever the
index byte, a CAM below the length, an INSPECTION up to 7. A CAM index at or above the length is BAD_ARG with that record,
and an unknown kind and a slot above 7 too (02 R35). The slot state is coded by its place in R26's list. Neither changes
anything. BAD_ARG for an inspection index above 7, and the index byte 0 in the reply of a kind without an index, are log
entry 16; the bytes that lead an item are log entry 15 (both DESIGN CHOICE). -/
def Obligations.TableAndRecipeReads : Prop :=
 (∀ (args : List Byte) (s : State), accepts s 2 args = true → s.mgmt.inFlight = none →
    (readTableItem s.store.working (u8 args 0) (u8 args 1) = none →
      exec (.machineTableRead args) s = answered 11 args s .badArg [] s) ∧
    (∀ x, readTableItem s.store.working (u8 args 0) (u8 args 1) = some x →
      exec (.machineTableRead args) s = answered 11 args s .ok
        ([BitVec.ofNat 8 (u8 args 0), BitVec.ofNat 8 (u8 args 1)] ++ encodeTableItem x
          ++ [if s.store.validity = .valid then 1#8 else 0#8]) s)) ∧
 (∀ (args : List Byte) (s : State), accepts s 3 args = true → s.mgmt.inFlight = none →
    (7 < u8 args 0 → exec (.recipeRead args) s = answered 17 args s .badArg [] s) ∧
    (∀ k : Fin 8, u8 args 0 = k.val →
      (∀ x : RecipeItem,
        (u8 args 1 = 1 ∧ x = .header (recipeOf s k).header) ∨ (u8 args 1 = 2 ∧ x = .register (recipeOf s k).register) ∨
        (u8 args 1 = 3 ∧ ∃ c, (recipeOf s k).cams[u8 args 2]? = some c ∧ x = .cam (u8 args 2) c) ∨
        (u8 args 1 = 4 ∧ x = .camLength (recipeOf s k).cams.length) ∨
        (u8 args 1 = 5 ∧ ∃ j : Fin 8, u8 args 2 = j.val ∧ x = .inspection j (getAt (recipeOf s k).settings j)) ∨
        (u8 args 1 = 6 ∧ x = .rejectMask (recipeOf s k).rejectMask) →
        exec (.recipeRead args) s = answered 17 args s .ok
          ([BitVec.ofNat 8 (codeSlot (slotOf s k).state), BitVec.ofNat 8 (slotOf s k).refs,
            BitVec.ofNat 8 (recipeOf s k).cams.length, BitVec.ofNat 8 k.val, BitVec.ofNat 8 (u8 args 1),
            if u8 args 1 = 3 ∨ u8 args 1 = 5 then BitVec.ofNat 8 (u8 args 2) else 0#8] ++ encodeRecipeItem x) s) ∧
      (u8 args 1 = 3 → (recipeOf s k).cams.length ≤ u8 args 2 →
        exec (.recipeRead args) s = answered 17 args s .badArg
          [BitVec.ofNat 8 (codeSlot (slotOf s k).state), BitVec.ofNat 8 (slotOf s k).refs,
            BitVec.ofNat 8 (recipeOf s k).cams.length] s) ∧
      (u8 args 1 = 0 ∨ 6 < u8 args 1 ∨ (u8 args 1 = 5 ∧ 7 < u8 args 2) →
        exec (.recipeRead args) s = answered 17 args s .badArg [] s))) ∧
 ([SlotState.empty, .editing, .checking, .usable, .clearing].map codeSlot = List.range 5)

/-- MACHINE_TABLE_APPLY, once READY, unlocked, in IDLE and with every slot EMPTY: a failed check is answered BAD_TABLE with
check, item and field and leaves the validity INVALID; a check that passes makes the table VALID and in force, gives the lines
their modes and output fields, the watchdog its time and a restart, the inspection channels their reset values and every
application channel its leads (02 R20, R23; 01 R3, R9; 05 R95; 06 R113; 11 R177). A line that was ANALOG takes the level that
the command carries as sampled, and a DIGITAL one keeps its own (log entry 29, DEDUCED). That every event fired before it is
taken first, by settle, which FiredEventsTaken spells, is the model's choice (log entry 3), and so is the restart of a watchdog
that has expired (log entry 43). -/
def Obligations.MachineTableApply : Prop :=
  ∀ (args : List Byte) (lock : Bool) (levels : BitVec 16) (s : State), accepts s 0 args = true →
    s.mgmt.inFlight = none →
    (lock = true → exec (.machineTableApply args lock levels) s = answered 12 args s .locked [] s) ∧
    (lock = false → s.line.run ≠ .idle →
      exec (.machineTableApply args lock levels) s = answered 12 args s .state [] s) ∧
    (lock = false → s.line.run = .idle → (∃ k : Fin 8, (slotOf s k).state ≠ .empty) →
      exec (.machineTableApply args lock levels) s = answered 12 args s .inUse [] s) ∧
    (lock = false → s.line.run = .idle → (∀ k : Fin 8, (slotOf s k).state = .empty) →
      (∀ f, checkTable s.store.working = some f →
        exec (.machineTableApply args lock levels) s = answered 12 args s .badTable
          [BitVec.ofNat 8 f.check, BitVec.ofNat 8 f.kind, BitVec.ofNat 8 f.index, BitVec.ofNat 8 f.field]
          { s with store := { s.store with validity := .invalid } }) ∧
      (checkTable s.store.working = none → ∀ u : State, u = settle s →
        ∃ t : State, exec (.machineTableApply args lock levels) s = answered 12 args s .ok [] t ∧
          t = { u with store := { u.store with inForce := u.store.working, validity := .valid },
                       lines := t.lines,
                       app := { u.app with channels := t.app.channels },
                       insp := t.insp,
                       ring := { u.ring with watchdogMs := u.store.working.general.watchdogMs,
                                             watchdog := some u.pos.timebase } } ∧
          t.lines.modes = u.store.working.modes ∧
          (∀ i : Fin 16, t.lines.levels.getLsbD i.val
            = if u.lines.modes.getLsbD i.val then levels.getLsbD i.val else u.lines.levels.getLsbD i.val) ∧
          (∀ i : Fin 16, getAt t.lines.outs i = { getAt u.lines.outs i with
            function := (getAt u.store.working.outs i).function,
            polarity := (getAt u.store.working.outs i).polarity,
            safeMode := (getAt u.store.working.outs i).safeMode }) ∧
          (∀ j : Fin 8, inspChannel t j = ⟨none, none, none, false, false, 0⟩) ∧
          (∀ k : Fin 12, getAt t.app.channels k = { getAt u.app.channels k with
            onLead := leadOf (getAt u.store.working.apps k).onLatency u.pos.speed,
            offLead := leadOf (getAt u.store.working.apps k).offLatency u.pos.speed })))

/-- The apply check passes exactly a table in which GENERAL lies in its write ranges, G below D, the gum line ANALOG, the
take line DIGITAL, no single function on two lines, every enabled application channel at most at D - 1 on its own CHANNEL
line and no CHANNEL line otherwise, and every enabled inspection channel at most at G - 1 on a line of its mode
(02 R24). The failure reported is the first of R24's checks in its order, ascending in item index, with the item kind code,
index and field that R24 names: checks 6 and 7 are made together for each channel, and so are 9 and 10. -/
def Obligations.ApplyCheck : Prop :=
 (∀ t : MachineTable, checkTable t = none ↔
    (1 ≤ t.general.feedAngle ∧ t.general.feedAngle ≤ 3599 ∧ 2 ≤ t.general.gateOffset ∧ t.general.gateOffset ≤ 28 ∧
      4 ≤ t.general.deliveryOffset ∧ t.general.deliveryOffset ≤ 30 ∧ 1 ≤ t.general.separatorLength ∧
      t.general.separatorLength ≤ 3599 ∧ 1 ≤ t.general.outfeedHold ∧ t.general.outfeedHold ≤ 4 ∧
      2 ≤ t.general.watchdogMs ∧ t.general.watchdogMs ≤ 100) ∧
    t.general.gateOffset < t.general.deliveryOffset ∧
    (∀ l, t.gum.line = some l → t.modes.getLsbD l.val = true) ∧
    (∀ l, t.general.takeSource = .line l → t.modes.getLsbD l.val = false) ∧
    (∀ i j : Fin 16, j.val < i.val → isSingleFunction (getAt t.outs i).function = true →
      (getAt t.outs j).function ≠ (getAt t.outs i).function) ∧
    (∀ k : Fin 12, (getAt t.apps k).enabled = true → (getAt t.apps k).station ≤ t.general.deliveryOffset - 1 ∧
      (getAt t.outs (getAt t.apps k).line).function = .channel k) ∧
    (∀ (i : Fin 16) (k : Fin 12), (getAt t.outs i).function = .channel k →
      (getAt t.apps k).enabled = true ∧ (getAt t.apps k).line = i) ∧
    (∀ j : Fin 8, (getAt t.insps j).enabled = true → (getAt t.insps j).station ≤ t.general.gateOffset - 1 ∧
      t.modes.getLsbD (getAt t.insps j).line.val = ((getAt t.insps j).kind == .level))) ∧
 (∀ (t : MachineTable) (g : General), g = t.general → checkTable t = ((
    [(decide (g.feedAngle < 1 ∨ 3599 < g.feedAngle), (⟨1, 1, 0, 0⟩ : CheckFailure)),
      (decide (g.gateOffset < 2 ∨ 28 < g.gateOffset), ⟨1, 1, 0, 1⟩),
      (decide (g.deliveryOffset < 4 ∨ 30 < g.deliveryOffset), ⟨1, 1, 0, 3⟩),
      (decide (g.separatorLength < 1 ∨ 3599 < g.separatorLength), ⟨1, 1, 0, 5⟩),
      (decide (g.outfeedHold < 1 ∨ 4 < g.outfeedHold), ⟨1, 1, 0, 6⟩),
      (decide (g.watchdogMs < 2 ∨ 100 < g.watchdogMs), ⟨1, 1, 0, 8⟩),
      (decide (g.deliveryOffset ≤ g.gateOffset), ⟨2, 1, 0, 3⟩),
      (match t.gum.line with | some l => !t.modes.getLsbD l.val | none => false, ⟨3, 2, 0, 0⟩),
      (match g.takeSource with | .line l => t.modes.getLsbD l.val | .ring => false, ⟨4, 1, 0, 7⟩)]
    ++ (List.finRange 16).map (fun i => (
        ([.feedGate, .rejectGate, .separator, .stopRequest] : List OutFunction).contains (getAt t.outs i).function
          && decide (∃ j : Fin 16, j < i ∧ (getAt t.outs j).function = (getAt t.outs i).function), (⟨5, 6, i.val, 0⟩ : CheckFailure)))
    ++ (List.finRange 12).flatMap (fun k => [
        ((getAt t.apps k).enabled && decide (g.deliveryOffset - 1 < (getAt t.apps k).station),
          (⟨6, 3, k.val, 2⟩ : CheckFailure)),
        ((getAt t.apps k).enabled && decide ((getAt t.outs (getAt t.apps k).line).function ≠ OutFunction.channel k),
          ⟨7, 3, k.val, 3⟩)])
    ++ (List.finRange 16).map (fun i => (match (getAt t.outs i).function with
        | .channel k => !(getAt t.apps k).enabled || decide ((getAt t.apps k).line ≠ i)
        | _ => false, (⟨8, 6, i.val, 0⟩ : CheckFailure)))
    ++ (List.finRange 8).flatMap (fun j => [
        ((getAt t.insps j).enabled && decide (g.gateOffset - 1 < (getAt t.insps j).station),
          (⟨9, 4, j.val, 2⟩ : CheckFailure)),
        ((getAt t.insps j).enabled
          && (t.modes.getLsbD (getAt t.insps j).line.val != decide ((getAt t.insps j).kind = InspKind.level)),
          ⟨10, 4, j.val, 3⟩)])).find? Prod.fst).map Prod.snd)

/-- RECIPE_EDIT, once READY: LOCKED, then STATE with the table INVALID; an EMPTY slot becomes EDITING with the initial
content, an EDITING one stays, a USABLE one becomes EDITING with its content at reference count 0 and is IN_USE above
(02 R26, R27). RECIPE_WRITE, once READY: BAD_ARG for an unknown item or a field out of range, LOCKED, STATE for a slot not
EDITING; else the item is replaced in the slot and nothing else changes (02 R28). A slot number above 7 is BAD_ARG for both,
before LOCKED. The items, their fields in order and the
write ranges are those of 02 R28 to R31 with the codes of 11 R172, and the field named is the first out of range. Which of two
fields is named where each lies in its range and their relation fails is left free (log entry 17), and a kind without an
index is unknown under another index byte than 0 by the model's choice (log entry 16). -/
def Obligations.RecipeEditAndWrite : Prop :=
 (∀ (args : List Byte) (lock : Bool) (s : State), s.mgmt.inFlight = none → 7 < u8 args 0 →
    (accepts s 1 args = true → exec (.recipeEdit args lock) s = answered 13 args s .badArg [] s) ∧
    (accepts s (3 + recipeItemSize (u8 args 1)) args = true →
      exec (.recipeWrite args lock) s = answered 14 args s .badArg [] s)) ∧
 (∀ (args : List Byte) (lock : Bool) (s : State) (k : Fin 8), accepts s 1 args = true → s.mgmt.inFlight = none →
    u8 args 0 = k.val →
    (lock = true → exec (.recipeEdit args lock) s = answered 13 args s .locked [] s) ∧
    (lock = false → s.store.validity = .invalid →
      exec (.recipeEdit args lock) s = answered 13 args s .state [] s) ∧
    (lock = false → s.store.validity = .valid →
      ((slotOf s k).state = .empty → exec (.recipeEdit args lock) s = answered 13 args s .ok [1#8]
        { s with store := { s.store with
          slots := put s.store.slots k ⟨.editing, (slotOf s k).refs, Recipe.initial⟩ } }) ∧
      ((slotOf s k).state = .editing → exec (.recipeEdit args lock) s = answered 13 args s .ok [1#8] s) ∧
      ((slotOf s k).state = .usable → (slotOf s k).refs = 0 →
        exec (.recipeEdit args lock) s = answered 13 args s .ok [1#8] { s with store := { s.store with
          slots := put s.store.slots k { slotOf s k with state := .editing } } }) ∧
      ((slotOf s k).state = .usable → (slotOf s k).refs ≠ 0 →
        exec (.recipeEdit args lock) s = answered 13 args s .inUse [] s))) ∧
 (∀ (args : List Byte) (lock : Bool) (s : State) (k : Fin 8),
    accepts s (3 + recipeItemSize (u8 args 1)) args = true → s.mgmt.inFlight = none → u8 args 0 = k.val →
    (parseRecipeItem (recipeOf s k).cams.length (u8 args 1) (u8 args 2) (args.drop 3) = .unknown →
      exec (.recipeWrite args lock) s = answered 14 args s .badArg [] s) ∧
    (∀ n, parseRecipeItem (recipeOf s k).cams.length (u8 args 1) (u8 args 2) (args.drop 3) = .badField n →
      exec (.recipeWrite args lock) s = answered 14 args s .badArg [BitVec.ofNat 8 n] s) ∧
    (∀ x, parseRecipeItem (recipeOf s k).cams.length (u8 args 1) (u8 args 2) (args.drop 3) = .item x →
      (lock = true → exec (.recipeWrite args lock) s = answered 14 args s .locked [] s) ∧
      (lock = false → (slotOf s k).state ≠ .editing →
        exec (.recipeWrite args lock) s = answered 14 args s .state [] s) ∧
      (lock = false → (slotOf s k).state = .editing →
        exec (.recipeWrite args lock) s = answered 14 args s .ok [] { s with store := { s.store with
          slots := put s.store.slots k { slotOf s k with
            recipe := writeRecipeItem (recipeOf s k) x } } }))) ∧
 (∀ (len i : Nat) (b : List Byte),
    (∀ k, k = 0 ∨ 6 < k → parseRecipeItem len k i b = .unknown) ∧
    (0 < i → parseRecipeItem len 1 i b = .unknown ∧ parseRecipeItem len 2 i b = .unknown ∧
      parseRecipeItem len 4 i b = .unknown ∧ parseRecipeItem len 6 i b = .unknown) ∧
    (len < i ∨ 24 ≤ i → parseRecipeItem len 3 i b = .unknown) ∧ (8 ≤ i → parseRecipeItem len 5 i b = .unknown) ∧
    parseRecipeItem len 1 0 b = inRanges [decide (u8 b 0 ≤ 15),
        decide (∀ c, c ∈ (b.drop 1).take 12 → 32 ≤ c.toNat ∧ c.toNat ≤ 126)] (.header ⟨u8 b 0, (b.drop 1).take 12⟩) ∧
    parseRecipeItem len 2 0 b = inRanges [decide (u8 b 0 ≤ 1), decide (u16 b 1 ≤ 3599),
        decide (10 ≤ u16 b 3 ∧ u16 b 3 ≤ 900), decide (u16 b 5 ≤ 256), decide (1 ≤ u8 b 7 ∧ u8 b 7 ≤ 200),
        decide (u16 b 8 ≤ 1800), decide (1 ≤ u16 b 10 ∧ u16 b 10 ≤ 450), decide (1 ≤ u8 b 12 ∧ u8 b 12 ≤ 15),
        decide (1 ≤ u8 b 13 ∧ u8 b 13 ≤ 15), decide (u8 b 14 ≤ 15)]
      (.register ⟨decide (u8 b 0 = 1), u16 b 1, u16 b 3, u16 b 5, u8 b 7, u16 b 8, u16 b 10, u8 b 12, u8 b 13,
        Fin.ofNat 16 (u8 b 14)⟩) ∧
    (∀ oks : List Bool, i ≤ len → i < 24 →
      oks = [decide (u8 b 0 ≤ 11), decide (u16 b 1 ≤ 3599), decide (u16 b 3 ≤ 3599), decide (u8 b 5 ≤ 15),
        decide (u8 b 5 = 0 ∨ (1 ≤ u16 b 6 ∧ u16 b 6 ≤ 1799)), decide (u8 b 5 < 2 ∨ (1 ≤ u16 b 8 ∧ u16 b 8 ≤ 3000)),
        decide (u8 b 10 ≤ 1)] →
      (u16 b 1 < u16 b 3 → u16 b 3 - u16 b 1 ≤ 3000 → parseRecipeItem len 3 i b = inRanges oks
        (.cam i ⟨Fin.ofNat 12 (u8 b 0), u16 b 1, u16 b 3, u8 b 5, u16 b 6, u16 b 8, decide (u8 b 10 = 1)⟩)) ∧
      (u16 b 3 ≤ u16 b 1 ∨ 3000 < u16 b 3 - u16 b 1 →
        (∀ n, (oks.take 3).findIdx? (fun ok => !ok) = some n → parseRecipeItem len 3 i b = .badField n) ∧
        ((∀ ok, ok ∈ oks.take 3 → ok = true) →
          parseRecipeItem len 3 i b = .badField 1 ∨ parseRecipeItem len 3 i b = .badField 2))) ∧
    parseRecipeItem len 4 0 b = inRanges [decide (u8 b 0 ≤ len)] (.camLength (u8 b 0)) ∧
    (∀ (j : Fin 8) (oks : List Bool),
      oks = [decide (u8 b 0 ≤ 1), decide (u16 b 1 ≤ 3599), decide (u16 b 3 ≤ 3599), decide (u16 b 5 ≤ 4095),
        decide (u16 b 7 ≤ 4095), decide (u8 b 9 ≤ 4)] →
      (u16 b 1 < u16 b 3 → u16 b 5 ≤ u16 b 7 → parseRecipeItem len 5 j.val b = inRanges oks
        (.inspection j ⟨decide (u8 b 0 = 1), u16 b 1, u16 b 3, u16 b 5, u16 b 7,
          [.register, .window, .gum, .fold].getD (u8 b 9) .thickness⟩)) ∧
      (∀ m, (m = 3 ∧ u16 b 3 ≤ u16 b 1) ∨ (m = 5 ∧ u16 b 1 < u16 b 3 ∧ u16 b 7 < u16 b 5) →
        (∀ n, (oks.take m).findIdx? (fun ok => !ok) = some n → parseRecipeItem len 5 j.val b = .badField n) ∧
        ((∀ ok, ok ∈ oks.take m → ok = true) → parseRecipeItem len 5 j.val b = .badField (m - 2) ∨
          parseRecipeItem len 5 j.val b = .badField (m - 1)))) ∧
    parseRecipeItem len 6 0 b = inRanges [decide (u8 b 0 ≤ 31)] (.rejectMask (BitVec.ofNat 5 (u8 b 0)))) ∧
 (∀ r : Recipe, (∀ h, writeRecipeItem r (.header h) = { r with header := h }) ∧
    (∀ g, writeRecipeItem r (.register g) = { r with register := g }) ∧
    (∀ i e, i < r.cams.length → writeRecipeItem r (.cam i e) = { r with cams := r.cams.set i e }) ∧
    (∀ e, writeRecipeItem r (.cam r.cams.length e) = { r with cams := r.cams ++ [e] }) ∧
    (∀ n, writeRecipeItem r (.camLength n) = { r with cams := r.cams.take n }) ∧
    (∀ j c, writeRecipeItem r (.inspection j c) = { r with settings := put r.settings j c }) ∧
    (∀ m, writeRecipeItem r (.rejectMask m) = { r with rejectMask := m }))

/-- RECIPE_CHECK of an EDITING slot, and RECIPE_CLEAR of a slot neither EMPTY nor in use, once READY: ACCEPTED, the slot
CHECKING or CLEARING and the unit WORKING. A RECIPE_CHECK of another slot and a RECIPE_CLEAR of an EMPTY one are STATE, one of a
slot with references IN_USE, a locked clear LOCKED, a slot above 7 BAD_ARG (02 R32, R34, R36). The completion of a check makes
the slot USABLE where the recipe checks pass against the table in force, else EDITING with the failure; that of a clear makes it
EMPTY with the initial content. The unit is then READY, the last result is replaced and OP_DONE is offered (02 R33, R34, R36; 11
R182). -/
def Obligations.LongOperations : Prop :=
 (∀ (args : List Byte) (lock : Bool) (s : State), accepts s 1 args = true → s.mgmt.inFlight = none →
    (7 < u8 args 0 → exec (.recipeCheck args) s = answered 15 args s .badArg [] s ∧
      exec (.recipeClear args lock) s = answered 16 args s .badArg [] s) ∧
    (∀ k : Fin 8, u8 args 0 = k.val →
      ((slotOf s k).state ≠ .editing → exec (.recipeCheck args) s = answered 15 args s .state [] s) ∧
      ((slotOf s k).state = .editing → exec (.recipeCheck args) s = answered 15 args s .accepted []
        { s with store := { s.store with slots := put s.store.slots k { slotOf s k with state := .checking } },
                 mgmt := ⟨some ⟨.recipeCheck, k, s.pos.timebase, (carriedAs 15 args s).isSome⟩, s.mgmt.last⟩ }) ∧
      (lock = true → exec (.recipeClear args lock) s = answered 16 args s .locked [] s) ∧
      (lock = false → (slotOf s k).state = .empty →
        exec (.recipeClear args lock) s = answered 16 args s .state [] s) ∧
      (lock = false → (slotOf s k).state = .usable → (slotOf s k).refs ≠ 0 →
        exec (.recipeClear args lock) s = answered 16 args s .inUse [] s) ∧
      (lock = false → (slotOf s k).state ≠ .empty → ((slotOf s k).state = .usable → (slotOf s k).refs = 0) →
        exec (.recipeClear args lock) s = answered 16 args s .accepted []
          { s with store := { s.store with slots := put s.store.slots k { slotOf s k with state := .clearing } },
                   mgmt := ⟨some ⟨.recipeClear, k, s.pos.timebase, (carriedAs 16 args s).isSome⟩, s.mgmt.last⟩ }))) ∧
 (∀ (s : State) (o : InFlight), s.resetHeld = false → s.mgmt.inFlight = some o → o.carried = false →
    (o.op = .recipeCheck →
      (checkRecipe s.store.inForce (recipeOf s o.slot) = none →
        exec .checkCompletion s = .next (offer (.opDone .recipeCheck o.slot .ok none)
          { s with store := { s.store with slots := put s.store.slots o.slot { slotOf s o.slot with state := .usable } },
                   mgmt := ⟨none, some ⟨.recipeCheck, o.slot, .ok, none⟩⟩ })) ∧
      (∀ f, checkRecipe s.store.inForce (recipeOf s o.slot) = some f →
        exec .checkCompletion s = .next (offer (.opDone .recipeCheck o.slot .badRecipe (some f))
          { s with store := { s.store with slots := put s.store.slots o.slot { slotOf s o.slot with state := .editing } },
                   mgmt := ⟨none, some ⟨.recipeCheck, o.slot, .badRecipe, some f⟩⟩ }))) ∧
    (o.op = .recipeClear →
      exec .clearCompletion s = .next (offer (.opDone .recipeClear o.slot .ok none)
        { s with
          store := { s.store with slots := put s.store.slots o.slot ⟨.empty, (slotOf s o.slot).refs, Recipe.initial⟩ }
          mgmt := ⟨none, some ⟨.recipeClear, o.slot, .ok, none⟩⟩ })))

/-- The recipe checks pass exactly where an enabled register section has W at most M, M + W below A_feed and a DIGITAL mark
line; every entry names an enabled channel, its dots neither overlap nor pass its off angle, and shares no angle with an
entry of lower index on its channel; and every enabled inspection setting names an enabled channel of a kind other than
PRESENCE (02 R33). The failure reported is the first of R33's checks in its order, with the item kind code, index and field that
R33 names: checks 4 to 7 are made together for each entry in ascending index, and check 8 in ascending channel number. -/
def Obligations.RecipeChecks : Prop :=
 (∀ (t : MachineTable) (r : Recipe), checkRecipe t r = none ↔
    (r.register.enabled = true → r.register.w ≤ r.register.m ∧
      r.register.m + r.register.w < t.general.feedAngle ∧ t.modes.getLsbD r.register.markLine.val = false) ∧
    (∀ (i : Nat) (e : CamEntry), r.cams[i]? = some e → (getAt t.apps e.channel).enabled = true ∧
      (2 ≤ e.dots → e.dotLength ≤ e.dotSpacing) ∧
      (1 ≤ e.dots → e.on + (e.dots - 1) * e.dotSpacing + e.dotLength ≤ e.off) ∧
      (∀ (j : Nat) (d : CamEntry), j < i → r.cams[j]? = some d → d.channel = e.channel →
        d.off < e.on ∨ e.off < d.on)) ∧
    (∀ j : Fin 8, (getAt r.settings j).enabled = true → (getAt t.insps j).enabled = true ∧
      (getAt t.insps j).kind ≠ .presence)) ∧
 (∀ (t : MachineTable) (r : Recipe) (g : RegisterSettings), g = r.register → checkRecipe t r = ((
    [(g.enabled && decide (g.m < g.w), (⟨1, 2, 0, 2⟩ : CheckFailure)),
      (g.enabled && decide (t.general.feedAngle ≤ g.m + g.w), ⟨2, 2, 0, 2⟩),
      (g.enabled && t.modes.getLsbD g.markLine.val, ⟨3, 2, 0, 9⟩)]
    ++ r.cams.zipIdx.flatMap (fun (x : CamEntry × Nat) => [
        (!(getAt t.apps x.1.channel).enabled, (⟨4, 3, x.2, 0⟩ : CheckFailure)),
        (decide (2 ≤ x.1.dots ∧ x.1.dotSpacing < x.1.dotLength), ⟨5, 3, x.2, 5⟩),
        (decide (1 ≤ x.1.dots ∧ x.1.off < x.1.on + (x.1.dots - 1) * x.1.dotSpacing + x.1.dotLength), ⟨6, 3, x.2, 4⟩),
        ((r.cams.take x.2).any (fun d => d.channel == x.1.channel && decide (x.1.on ≤ d.off ∧ d.on ≤ x.1.off)),
          ⟨7, 3, x.2, 1⟩)])
    ++ (List.finRange 8).map (fun j => ((getAt r.settings j).enabled
        && (!(getAt t.insps j).enabled || decide ((getAt t.insps j).kind = InspKind.presence)),
          (⟨8, 5, j.val, 0⟩ : CheckFailure)))).find?
      Prod.fst).map Prod.snd)

/-! ## Reading the list, the channels, the orders and the log -/

/-- TRANSIT_READ answers BAD_ARG for an unknown selector or a position above 30, NOT_HELD where position or sequence number
names no record, and otherwise OK with the record; every reply carries length, head and next sequence number (03 R55).
CHANNEL_RESULT_READ answers BAD_ARG for a channel above 7, else OK with the channel as it stands, and clears its ready and
overrun flags alone (06 R110). ORDER_READ of tag 0 answers the summary of the Order Unit, of a tag in the list the order's
record, target and need for the ACTIVE order alone, and of another tag NOT_HELD (07 R118). BOX_LOG_READ answers OK with the
entry of the number asked for where the log holds one, else NOT_HELD, with the Delivery Unit summary in either case
(08 R148). Nothing else changes. Each record carries the fields that its rule lists, in that order, least significant byte
first, in the codes of 11 R172. That BOX_LOG_READ answers NOT_HELD with the fields of the entry absent before the summary,
36 bytes in either case, and that CHANNEL_RESULT_READ leaves the loss count out for another kind than PRESENCE, is the model's
choice (log entry 15), and so are the codes of the flags (log entry 13, DEDUCED) and the four-byte key of TRANSIT_READ (log
entry 40). -/
def Obligations.ListAndLogReads : Prop :=
 (∀ (args : List Byte) (s : State), accepts s 5 args = true →
    (1 < u8 args 0 ∨ (u8 args 0 = 0 ∧ 30 < u32 args 1) →
      exec (.transitRead args) s = answered 20 args s .badArg (transitSummary s) s) ∧
    (u8 args 0 = 0 → u32 args 1 ≤ 30 →
      (s.track.records.length ≤ u32 args 1 →
        exec (.transitRead args) s = answered 20 args s .notHeld (transitSummary s) s) ∧
      (∀ r, s.track.records[u32 args 1]? = some r →
        exec (.transitRead args) s
          = answered 20 args s .ok (transitSummary s ++ recordBytes s (u32 args 1) r) s)) ∧
    (u8 args 0 = 1 →
      ((∀ r, r ∈ s.track.records → r.seq ≠ BitVec.ofNat 32 (u32 args 1)) →
        exec (.transitRead args) s = answered 20 args s .notHeld (transitSummary s) s) ∧
      (∀ (i : Nat) r, s.track.records[i]? = some r → r.seq = BitVec.ofNat 32 (u32 args 1) →
        (∀ (j : Nat) q, j < i → s.track.records[j]? = some q → q.seq ≠ r.seq) →
        exec (.transitRead args) s = answered 20 args s .ok (transitSummary s ++ recordBytes s i r) s))) ∧
 (∀ (args : List Byte) (s : State), accepts s 1 args = true →
    (7 < u8 args 0 → exec (.channelResultRead args) s = answered 30 args s .badArg [] s) ∧
    (∀ j : Fin 8, u8 args 0 = j.val →
      exec (.channelResultRead args) s = answered 30 args s .ok (channelRecord s j)
        { s with insp := put s.insp j { inspChannel s j with ready := false, overrun := false } })) ∧
 (∀ (args : List Byte) (s : State), accepts s 2 args = true →
    (u16 args 0 = 0 → exec (.orderRead args) s = answered 41 args s .ok (orderSummary s) s) ∧
    (u16 args 0 ≠ 0 → (∀ o, o ∈ s.orders.list → o.tag ≠ u16 args 0) →
      exec (.orderRead args) s = answered 41 args s .notHeld [] s) ∧
    (∀ o, u16 args 0 ≠ 0 → findOrder s (u16 args 0) = some o →
      exec (.orderRead args) s = answered 41 args s .ok (orderBytes s o) s ∧ (orderBytes s o).length = 41 ∧
      u16 (orderBytes s o) 0 = o.tag % 65536 ∧
      (o.state ≠ .active → (orderBytes s o).drop 33 = [255#8, 255#8, 255#8, 255#8, 0#8, 0#8, 0#8, 128#8]))) ∧
 (∀ (args : List Byte) (s : State), accepts s 4 args = true →
    (∀ e, s.deliv.log.find? (fun x => x.seq == BitVec.ofNat 32 (u32 args 0)) = some e →
      exec (.boxLogRead args) s = answered 51 args s .ok (entryBytes (some e) ++ deliverySummary s) s) ∧
    ((∀ e, e ∈ s.deliv.log → e.seq ≠ BitVec.ofNat 32 (u32 args 0)) →
      exec (.boxLogRead args) s = answered 51 args s .notHeld (entryBytes none ++ deliverySummary s) s) ∧
    (∀ e : Option BoxEntry, (entryBytes e ++ deliverySummary s).length = 36)) ∧
 (∀ n : Nat, le16 n = [BitVec.ofNat 8 n, BitVec.ofNat 8 (n / 256)] ∧
    le32 n = [BitVec.ofNat 8 n, BitVec.ofNat 8 (n / 256), BitVec.ofNat 8 (n / 65536), BitVec.ofNat 8 (n / 16777216)]) ∧
 (∀ s : State, transitSummary s = [BitVec.ofNat 8 s.track.records.length]
    ++ le32 (match s.track.records.head? with | some r => r.seq.toNat | none => 0) ++ le32 s.track.nextSeq.toNat) ∧
 (∀ (s : State) (i : Nat) (r : Record), recordBytes s i r
    = le32 r.seq.toNat ++ le32 r.cutPitch.toNat ++ le16 r.tag
      ++ [BitVec.ofNat 8 r.slot.val, match r.stage with | .opened => 0#8 | .committed => 1#8,
        match r.verdict with | some .inRegister => 0#8 | some .outOfRegister => 1#8 | none => 255#8]
      ++ le16 (match r.error with | some e => (e % 65536).toNat | none => 32768) ++ [r.defects.setWidth 8]
      ++ le16 r.applied.toNat ++ le16 r.suppressed.toNat
      ++ (List.finRange 8).flatMap (fun j => le16 (match getAt r.values j with | some v => v | none => 65535))
      ++ [BitVec.ofNat 8 i, if r.stage = .opened ∧ isRejectable s r = false then 1#8 else 0#8]) ∧
 (∀ (s : State) (j : Fin 8) (c : InspSettings) (x : InspChannel), c = getAt s.store.inForce.insps j →
    x = inspChannel s j → channelRecord s j
    = [if c.enabled then 1#8 else 0#8,
        match c.kind with | .presence => 0#8 | .span => 1#8 | .count => 2#8 | .level => 3#8]
      ++ le32 (match x.result with | some ⟨some q, _, _, _⟩ => q.toNat | _ => 0)
      ++ le32 (match x.result with | some y => y.cutPitch.toNat | none => 0)
      ++ le16 (match x.result with | some y => y.value | none => 65535)
      ++ [match x.result with
          | some y => (match y.judgement with | .pass => 0#8 | .fail => 1#8 | .lost => 2#8 | .unexpected => 3#8)
          | none => 255#8,
        if x.ready then 0#8 else 1#8, if x.overrun then 0#8 else 1#8]
      ++ (if c.kind = .presence then [BitVec.ofNat 8 x.losses] else [])) ∧
 (∀ s : State, orderSummary s
    = [match s.orders.feedState with | .noOrder => 0#8 | .feeding => 1#8 | .suspended => 2#8 | .changeover => 3#8,
        (holdReasons s).setWidth 8, BitVec.ofNat 8 s.orders.countdown,
        match s.orders.runningClass with | some c => BitVec.ofNat 8 c | none => 255#8]
      ++ le16 (match activeOrder s with | some o => o.tag | none => 0)
      ++ le16 (match nextOrder s with | some o => o.tag | none => 0) ++ [if isStartable s then 1#8 else 0#8]
      ++ (s.orders.list.filter (fun o => o.lane == .priority)).flatMap (fun o => le16 o.tag)
      ++ (s.orders.list.filter (fun o => o.lane == .normal)).flatMap (fun o => le16 o.tag)) ∧
 (∀ (s : State) (o : Order), orderBytes s o
    = le16 o.tag ++ [match o.lane with | .normal => 0#8 | .priority => 1#8, BitVec.ofNat 8 o.slot.val]
      ++ le32 o.quantity ++ le16 o.boxQuantity ++ [BitVec.ofNat 8 o.spare] ++ le16 o.early
      ++ [if o.holdAfter then 0#8 else 1#8, if o.quiet then 0#8 else 1#8,
        match o.state with | .queued => 0#8 | .active => 1#8 | .feedDone => 2#8]
      ++ le32 o.delivered ++ le32 o.boxesClosed
      ++ [if o.earlySent then 0#8 else 1#8, if o.aborted then 0#8 else 1#8,
        BitVec.ofNat 8 (recipeOf s o.slot).header.formatClass, BitVec.ofNat 8 (committedOf s o.tag),
        BitVec.ofNat 8 (hopefulOf s o.tag)]
      ++ le32 (o.delivered + committedOf s o.tag)
      ++ le32 (if o.state = .active then (if isStartable s then o.quantity + o.spare else o.quantity) else 4294967295)
      ++ le32 (if o.state = .active then (needOf s o % 4294967296).toNat else 2147483648)) ∧
 (∀ s : State, deliverySummary s = le32 s.deliv.nextBox.toNat
    ++ [BitVec.ofNat 8 s.deliv.log.length, BitVec.ofNat 8 s.deliv.waiting, BitVec.ofNat 8 s.deliv.committedCloses]
    ++ (match s.deliv.openBox with
      | some b => le16 b.tag ++ le32 b.number ++ le16 b.count
      | none => le16 0 ++ le32 4294967295 ++ le16 65535)
    ++ (match s.deliv.projected with | some b => le16 b.tag ++ le16 b.count | none => le16 0 ++ le16 65535)) ∧
 (∀ e : BoxEntry, entryBytes (some e) = le32 e.seq.toNat ++ le16 e.tag ++ le32 e.number ++ le16 e.count
    ++ [match e.reason with | .full => 0#8 | .final => 1#8 | .orderChange => 2#8 | .request => 3#8]
    ++ le32 e.pitch.toNat) ∧
 entryBytes none = le32 0 ++ le16 0 ++ le32 4294967295 ++ le16 65535 ++ [255#8] ++ le32 0

/-! ## Register -/

/-- A window close with a capture at C: D is C - M, the last capture becomes D with its tolerance flag, T becomes T and the
limited step within the trim limit, TRIM_CLAMPED counting where their sum lay outside, the window is gone, and state and
counts move as 04 section 4.5 says (04 R63 to R66, R69 to R72, R77). That a close which finds an open window of another pitch
acts on it and records that window's pitch is the model's choice (log entry 39). -/
def Obligations.WindowCloseWithCapture : Prop :=
  ∀ (s u : State) (x : Pos) (w : CaptureWindow) (g : RegisterSettings) (c : Nat), s.resetHeld = false →
    takeFired .windowClose s = some (x, u) → s.reg.window = some w → w.capture = some c →
    sectionInForce s = some g → s.reg.state ≠ .off →
    ∃ t : State, exec .windowClose s = .next t ∧
      t.reg.last = some ⟨w.pitch, (c : Int) - w.m, decide (g.tol < ((c : Int) - w.m).natAbs)⟩ ∧
      t.reg.window = none ∧ t.reg.source = s.reg.source ∧
      t.reg.trim = clampTo g.tlim (trimSum g s.reg.state s.reg.trim ((c : Int) - w.m)) ∧
      counter t .trimClamped = counter s .trimClamped
        + (if t.reg.trim = trimSum g s.reg.state s.reg.trim ((c : Int) - w.m) then 0#32 else 1#32) ∧
      (∀ k, k ≠ .trimClamped → counter t k = counter s k) ∧
      (((c : Int) - w.m).natAbs ≤ g.tol →
        (s.reg.state = .seek → t.reg.outliers = (if s.reg.good + 1 = g.kLock then 0 else s.reg.outliers) ∧
          t.reg.misses = (if s.reg.good + 1 = g.kLock then 0 else s.reg.misses) ∧
          t.reg.good = (if s.reg.good + 1 = g.kLock then 0 else s.reg.good + 1) ∧
          t.reg.state = (if s.reg.good + 1 = g.kLock then .locked else .seek)) ∧
        (s.reg.state = .locked → t.reg.state = .locked ∧ t.reg.good = s.reg.good ∧ t.reg.outliers = 0 ∧
          t.reg.misses = s.reg.misses) ∧
        (s.reg.state = .coast → t.reg.state = .locked ∧ t.reg.good = 0 ∧ t.reg.outliers = 0 ∧ t.reg.misses = 0) ∧
        (s.reg.state = .lost → t.reg.state = (if g.kLock = 1 then .locked else .seek) ∧
          t.reg.good = (if g.kLock = 1 then 0 else 1) ∧ t.reg.outliers = 0 ∧ t.reg.misses = 0)) ∧
      (g.tol < ((c : Int) - w.m).natAbs →
        (s.reg.state = .seek → t.reg.state = .seek ∧ t.reg.good = 0 ∧ t.reg.outliers = s.reg.outliers ∧
          t.reg.misses = s.reg.misses) ∧
        (s.reg.state = .locked →
          t.reg.state = (if s.reg.outliers + 1 = g.kLost then .seek else .locked) ∧
          t.reg.outliers = (if s.reg.outliers + 1 = g.kLost then 0 else s.reg.outliers + 1) ∧
          t.reg.good = (if s.reg.outliers + 1 = g.kLost then 0 else s.reg.good) ∧
          t.reg.misses = (if s.reg.outliers + 1 = g.kLost then 0 else s.reg.misses)) ∧
        (s.reg.state = .coast → t.reg.state = (if g.kLost = 1 then .seek else .locked) ∧ t.reg.good = 0 ∧
          t.reg.outliers = (if g.kLost = 1 then 0 else 1) ∧ t.reg.misses = 0) ∧
        (s.reg.state = .lost → t.reg.state = .seek ∧ t.reg.good = 0 ∧ t.reg.outliers = 0 ∧ t.reg.misses = 0)) ∧
      t = { u with reg := t.reg, counters := { s.counters with live := t.counters.live } }

/-- A fired capture arm of pitch p opens a window of that pitch from M - W to M + W on the section's mark line without a
capture, in place of one still open; without a section in force it opens none (04 R61). A window close without a capture counts
MARKS_MISSING, keeps T and the last capture, ends the window, and moves SEEK to good count 0, LOCKED to COAST with miss count 1
or to LOST with K_lost 1, COAST to one miss more or to LOST at K_lost, and LOST nowhere. A close with no window open, or without
a section in force, is ignored (04 R63, R69 to R72, R77). That a close which finds an open window of another pitch acts on it is
the model's choice (log entry 39). -/
def Obligations.CaptureArmAndEmptyClose : Prop :=
 (∀ (s u : State) (x : Pos), s.resetHeld = false → takeFired .captureArm s = some (x, u) →
    (sectionInForce s = none → exec .captureArm s = .next u) ∧
    (∀ g, sectionInForce s = some g →
      exec .captureArm s = .next { u with reg := { u.reg with
        window := some ⟨posPitch x, posSub (posAt (posPitch x) g.m) g.w, posAt (posPitch x) (g.m + g.w), g.m, g.w,
          g.markLine, none⟩ } })) ∧
 (∀ (s u : State) (x : Pos), s.resetHeld = false → takeFired .windowClose s = some (x, u) →
    (s.reg.window = none ∨ sectionInForce s = none → exec .windowClose s = .next u) ∧
    (∀ w g, s.reg.window = some w → w.capture = none → sectionInForce s = some g → s.reg.state ≠ .off →
      ∃ t : State, exec .windowClose s = .next t ∧
        counter t .marksMissing = counter s .marksMissing + 1#32 ∧
        (∀ k, k ≠ .marksMissing → counter t k = counter s k) ∧
        (s.reg.state = .seek → t.reg = { s.reg with window := none, good := 0 }) ∧
        (s.reg.state = .locked → g.kLost ≠ 1 →
          t.reg = { s.reg with window := none, state := .coast, good := 0, outliers := 0, misses := 1 }) ∧
        (s.reg.state = .locked → g.kLost = 1 →
          t.reg = { s.reg with window := none, state := .lost, good := 0, outliers := 0, misses := 0 }) ∧
        (s.reg.state = .coast → s.reg.misses + 1 ≠ g.kLost →
          t.reg = { s.reg with window := none, misses := s.reg.misses + 1 }) ∧
        (s.reg.state = .coast → s.reg.misses + 1 = g.kLost →
          t.reg = { s.reg with window := none, state := .lost, good := 0, outliers := 0, misses := 0 }) ∧
        (s.reg.state = .lost → t.reg = { s.reg with window := none }) ∧
        t = { u with reg := t.reg, counters := { s.counters with live := t.counters.live } }))

/-- The raw step is D × gain / 256 rounded to the nearest integer, a tie going to the larger magnitude, and within ±900 for
|D| up to 900 and a gain up to 256; the step is the raw step clamped to the limit of the state before the close, and beyond
the limit the limit with the raw step's sign. The limit is Smax in LOCKED and COAST and the smaller of 4 × Smax and 400 in
SEEK and LOST (04 R64, R65). -/
def Obligations.CorrectionStep : Prop :=
  (∀ (d : Int) (gain : Nat), (256 * roundAway (d * gain) 256 - d * gain).natAbs ≤ 128 ∧
    ((256 * roundAway (d * gain) 256 - d * gain).natAbs = 128 →
      (d * gain).natAbs ≤ (256 * roundAway (d * gain) 256).natAbs) ∧
    (d.natAbs ≤ 900 → gain ≤ 256 → (roundAway (d * gain) 256).natAbs ≤ 900)) ∧
  (∀ (smax : Nat), stepLimit .locked smax = smax ∧ stepLimit .coast smax = smax ∧
    stepLimit .seek smax = min (4 * smax) 400 ∧ stepLimit .lost smax = min (4 * smax) 400) ∧
  (∀ (g : RegisterSettings) (st : RegState) (t d : Int), (trimSum g st t d - t).natAbs ≤ stepLimit st g.smax ∧
    ((roundAway (d * g.gain) 256).natAbs ≤ stepLimit st g.smax →
      trimSum g st t d = t + roundAway (d * g.gain) 256) ∧
    ((stepLimit st g.smax : Int) < roundAway (d * g.gain) 256 → trimSum g st t d = t + stepLimit st g.smax) ∧
    (roundAway (d * g.gain) 256 < -(stepLimit st g.smax : Int) → trimSum g st t d = t - stepLimit st g.smax))

/-- A switch event sets the source and keeps T and the last capture: to no section the state becomes OFF, from none to one, and
between sections of other M, W or mark line, SEEK with the counts 0; a switch to no section or between such sections abandons an
open window, while from no section to one the window stays as it is, no run having one open there; between sections of equal M,
W and mark line state and window carry over, and counts at or above the new limits become those less 1. Every fired event stays
but capture arms and window closes, and they stay where M, W and mark line are equal; that they are dropped where no section was
or is in force or one of the three differs is the model's choice (log entry 22, DESIGN CHOICE). It happens only when the source
worked out anew differs. The source is the slot of the ACTIVE order, else of the next order, else none; the section in force is
that of the source where it is enabled (04 R58, R59). -/
def Obligations.SwitchEvent : Prop :=
 (∀ (src : Option (Fin 8)) (s : State),
    (switchTo src s).reg.source = src ∧ (switchTo src s).reg.trim = s.reg.trim ∧
    (switchTo src s).reg.last = s.reg.last ∧
    (∀ a, sectionInForce s = some a → sectionOf s src = none →
      (switchTo src s).reg = ⟨.off, 0, 0, 0, s.reg.trim, none, s.reg.last, src⟩) ∧
    (∀ b, sectionInForce s = none → sectionOf s src = some b →
      (switchTo src s).reg = ⟨.seek, 0, 0, 0, s.reg.trim, s.reg.window, s.reg.last, src⟩) ∧
    (∀ a b, sectionInForce s = some a → sectionOf s src = some b →
      (a.m ≠ b.m ∨ a.w ≠ b.w ∨ a.markLine ≠ b.markLine →
        (switchTo src s).reg = ⟨.seek, 0, 0, 0, s.reg.trim, none, s.reg.last, src⟩) ∧
      (a.m = b.m → a.w = b.w → a.markLine = b.markLine →
        (switchTo src s).reg = ⟨s.reg.state, if b.kLock ≤ s.reg.good then b.kLock - 1 else s.reg.good,
          if b.kLost ≤ s.reg.outliers then b.kLost - 1 else s.reg.outliers,
          if b.kLost ≤ s.reg.misses then b.kLost - 1 else s.reg.misses, s.reg.trim, s.reg.window, s.reg.last,
          src⟩)) ∧
    (sectionInForce s = none → sectionOf s src = none → (switchTo src s).reg = { s.reg with source := src }) ∧
    switchTo src s = { s with reg := (switchTo src s).reg, pos := { s.pos with due := (switchTo src s).pos.due } } ∧
    (∀ a b, sectionInForce s = some a → sectionOf s src = some b → a.m = b.m → a.w = b.w → a.markLine = b.markLine →
      (switchTo src s).pos.due = s.pos.due) ∧
    (sectionInForce s = none ∨ sectionOf s src = none ∨ (∃ a b, sectionInForce s = some a ∧ sectionOf s src = some b ∧
        (a.m ≠ b.m ∨ a.w ≠ b.w ∨ a.markLine ≠ b.markLine)) →
      (switchTo src s).pos.due
        = s.pos.due.filter (fun f => decide (f.event ≠ .captureArm ∧ f.event ≠ .windowClose))) ∧
    (wantedSource s = s.reg.source → updateSource s = s) ∧
    (wantedSource s ≠ s.reg.source → updateSource s = switchTo (wantedSource s) s)) ∧
 (∀ (s : State) (o : Order),
    (activeOrder s = some o ↔ ∃ before behind, s.orders.list = before ++ o :: behind ∧ o.state = .active ∧
      ∀ y, y ∈ before → y.state ≠ .active) ∧
    (activeOrder s = some o → wantedSource s = some o.slot) ∧
    (activeOrder s = none → nextOrder s = some o → wantedSource s = some o.slot) ∧
    (activeOrder s = none → nextOrder s = none → wantedSource s = none)) ∧
 (∀ (s : State) (k : Fin 8), sectionOf s none = none ∧ sectionInForce s = sectionOf s s.reg.source ∧
    sectionOf s (some k) = if (recipeOf s k).register.enabled then some (recipeOf s k).register else none)

/-! ## Application channels and the other outputs -/

/-- A fired on event is skipped for a blank in its effective reject set where its entry has skip-on-defect, and changes nothing
more. In HALTED, and for GUM while GUM_SUPPLY is latched, it is suppressed: the record's suppressed set gains the channel and
its defect set the class of the channel's kind, with that class's hand-over; the channel is unchanged by the suppression and
the pair is done. For gum alone GUM_INHIBITED is counted and the blank's mark set, both only where it is not yet marked.
Otherwise the channel serves the pair, the record's applied set gains it, an earlier blank that the channel served loses its
pending events there, and the off event is scheduled at the later of its nominal position less the off lead and one count
beyond the mark; every other pending event stays (05 R81, R83, R84, R86, R89). That an event taken behind its position counts
as fired at the high-water mark, which the off event's floor follows, is the model's choice (log entry 37, DEDUCED). -/
def Obligations.OnEvent : Prop :=
  ∀ (q : U32) (k : Fin 12) (i dot : Nat) (s u : State) (p : Pending) (r : Record) (e : CamEntry)
    (marked : Bool) (cls : Option DefectClass) (off : Pending),
    s.resetHeld = false → takeScheduled (.appOn q k i dot) s = some (p, u) → findRecord s q = some r →
    (recipeOf s r.slot).cams[i]? = some e →
    marked = s.app.blanks.any (fun b => b.seq == q && b.gumInhibited) →
    cls = (match (appOf s k).kind with
      | .windowCut => some .window | .patch => some .window | .gum => some .gum | .aux => none) →
    off.event = .appOff q e.channel i dot → off.floor = some (posAdd s.pos.hwm 1) →
    off.nominal = posAt (r.cutPitch + BitVec.ofNat 32 (appOf s e.channel).station) (pairOff e dot) →
    off.pos = posLater (posSub off.nominal (getAt s.app.channels e.channel).offLead) (posAdd s.pos.hwm 1) →
    (e.skip = true → isRejectable s r = true → exec (.onEvent q k i dot) s = .next u) ∧
    ((e.skip = false ∨ isRejectable s r = false) →
      (s.line.run = .halted ∨ ((appOf s k).kind = .gum ∧ hasFault s .gumSupply = true) →
        ∃ t : State, exec (.onEvent q k i dot) s = .next t ∧
          t.track = amended s q (fun x => { x with
            suppressed := x.suppressed ||| oneChannel k, defects := x.defects ||| (cls.map oneDefect).getD 0#7 }) ∧
          (cls = none → t.app.channels = s.app.channels ∧ t.pos = u.pos) ∧
          (∀ c, cls = some c → EntriesCut (cutAt s { r with defects := r.defects ||| oneDefect c }) u t) ∧
          t.app.blanks = (if s.line.run ≠ .halted ∧ marked = false then
            s.app.blanks.map (fun b => if b.seq == q then { b with gumInhibited := true } else b) else s.app.blanks) ∧
          counter t .gumInhibited = counter s .gumInhibited
            + (if s.line.run ≠ .halted ∧ marked = false then 1#32 else 0#32) ∧
          (∀ c, c ≠ .gumInhibited → counter t c = counter s c) ∧
          t = { s with track := t.track, counters := { s.counters with live := t.counters.live }, app := t.app,
                       pos := t.pos }) ∧
      (s.line.run ≠ .halted → ((appOf s k).kind ≠ .gum ∨ hasFault s .gumSupply = false) →
        ∃ t : State, exec (.onEvent q k i dot) s = .next t ∧
          t.track = amended s q (fun x => { x with applied := x.applied ||| oneChannel k }) ∧
          getAt t.app.channels k = { getAt s.app.channels k with serving := some ⟨q, i, dot, s.pos.hwm⟩ } ∧
          (∀ k', k' ≠ k → getAt t.app.channels k' = getAt s.app.channels k') ∧
          t.pos = { u.pos with schedule := (match (getAt s.app.channels k).serving with
            | some v => u.pos.schedule.filter (fun x => match x.event with
              | .appOn q' k' _ _ => !(v.seq != q && q' == v.seq && k' == k)
              | .appOff q' k' _ _ => !(v.seq != q && q' == v.seq && k' == k)
              | _ => true)
            | none => u.pos.schedule) ++ [off] } ∧
          t = { s with track := t.track, app := { s.app with channels := t.app.channels }, pos := t.pos }))

/-- A fired off event makes its channel IDLE where the channel serves the same blank, entry and dot, and changes nothing
otherwise (05 R85). At a fired reject-gate end the REJECT_GATE output becomes inactive, and at a fired separator pulse end the
SEPARATOR output, and nothing else changes (08 R138, R144). A scheduled event can be taken exactly where it stands in the schedule
at a position not beyond the high-water mark, the first such where there are several, and leaves the schedule; a recurring one
where it has fired, the oldest firing first (01 R15, R16). The command of an event that cannot be taken changes nothing, which
is the model's choice (log entry 2). -/
def Obligations.OutputsEnd : Prop :=
 (∀ (q : U32) (k : Fin 12) (i dot : Nat) (s u : State) (p : Pending), s.resetHeld = false →
    takeScheduled (.appOff q k i dot) s = some (p, u) →
    (∀ v, (getAt s.app.channels k).serving = some v → v.seq = q → v.entry = i → v.dot = dot →
      exec (.offEvent q k i dot) s = .next { u with app := { u.app with
        channels := put u.app.channels k { getAt u.app.channels k with serving := none } } }) ∧
    ((∀ v, (getAt s.app.channels k).serving = some v → v.seq ≠ q ∨ v.entry ≠ i ∨ v.dot ≠ dot) →
      exec (.offEvent q k i dot) s = .next u)) ∧
 (∀ (s u : State) (p : Pending), s.resetHeld = false →
    (takeScheduled .rejectGateEnd s = some (p, u) →
      exec .rejectGateEnd s = .next { u with deliv := { u.deliv with rejectGate := false } }) ∧
    (takeScheduled .separatorEnd s = some (p, u) →
      exec .separatorPulseEnd s = .next { u with deliv := { u.deliv with separator := false } })) ∧
 (∀ (e : Scheduled) (s u : State) (p : Pending), takeScheduled e s = some (p, u) ↔
    ∃ before behind, s.pos.schedule = before ++ p :: behind ∧ p.event = e ∧ posDist s.pos.hwm p.pos ≤ 0 ∧
      (∀ y, y ∈ before → y.event = e → 0 < posDist s.pos.hwm y.pos) ∧
      u = { s with pos := { s.pos with schedule := before ++ behind } }) ∧
 (∀ (e : Recurring) (s u : State) (x : Pos), takeFired e s = some (x, u) ↔
    ∃ before behind, s.pos.due = before ++ ⟨e, x⟩ :: behind ∧ (∀ y, y ∈ before → y.event ≠ e) ∧
      u = { s with pos := { s.pos with due := before ++ behind } }) ∧
 (∀ x y : Pos, (posDist x y - ((y.val : Int) - x.val)) % 15461882265600 = 0 ∧ -7730941132800 ≤ posDist x y ∧
    posDist x y < 7730941132800) ∧
 (∀ s : State, (∀ e, takeFired e s = none → exec (firedCommand e) s = .next s) ∧
    ∀ e r, takeScheduled e s = none → exec (dueCommand r e) s = .next s)

/-! ## Inspection channels -/

/-- A fired watch open of an enabled PRESENCE channel opens a watch of its pitch, seen where the line is active, in RUNNING,
DRAINING and HALTED; in IDLE, and on a channel that is no enabled PRESENCE channel, it opens none (06 R99). That in IDLE a watch
still open stays as it was is log entry 28, DEDUCED. A fired window open of a SPAN or COUNT channel starts a measurement of
value 0 for its blank, from the window start to the off angle of the setting, a SPAN segment starting there where the line is
active (06 R104, R105). -/
def Obligations.InspectionOpens : Prop :=
 (∀ (j : Fin 8) (s u : State) (x : Pos), s.resetHeld = false → takeFired (.watchOpen j) s = some (x, u) →
    (isPresence s j = false → exec (.watchOpen j) s = .next u) ∧
    (s.line.run = .idle → exec (.watchOpen j) s = .next u) ∧
    (isPresence s j = true → s.line.run ≠ .idle →
      exec (.watchOpen j) s = .next { u with insp := put u.insp j { inspChannel s j with
        watch := some ⟨posPitch x, digitalRead s (inspOf s j).line⟩ } })) ∧
 (∀ (j : Fin 8) (q : U32) (s u : State) (p : Pending) (r : Record), s.resetHeld = false →
    takeScheduled (.inspOpen j q) s = some (p, u) → findRecord s q = some r →
    exec (.inspectionWindowOpen j q) s = .next { u with insp := put u.insp j { inspChannel s j with
      measurement := some ⟨q, r.cutPitch, p.pos,
        posAt (r.cutPitch + BitVec.ofNat 32 (inspOf s j).station) (settingOf s r j).off, 0,
        if digitalRead s (inspOf s j).line && (inspOf s j).kind == .span then some p.pos else none⟩ } })

/-- The end of a watch of its own pitch, outside IDLE, looks for the record of that pitch less the station offset. With one and
the flag set: PASS, value 1, loss count 0. With one and the flag clear: LOST, the record removed and counted LOST, its
applications, measurements and pending events ended with it, its order tested for departure, the register source following,
DRAINING left for IDLE where the list is then empty (09 R154), the loss count raised to at most 255 and TRACKING reported from 2
on, which halts a line that still runs, its CHANNEL and MANUAL lines held as they are then driven. With none and the flag set:
UNEXPECTED and TRACKING reported as ReportLatches spells, with its notice, the halt of a line that runs or drains and the held
states (09 R156, R157; 01 R6), the loss count kept. With neither, in IDLE, and for a watch of another pitch the watch is absent
without a result; without a watch, and on a channel that is no enabled PRESENCE channel, the event is ignored (06 R99, R101,
R102, R108; 03 R50 and R53; 05 R87; 07 R130). That the removal's notices come before the TRACKING report is the model's choice
(log entry 25). -/
def Obligations.WatchEnd : Prop :=
 (∀ (j : Fin 8) (s u : State) (x : Pos), s.resetHeld = false → takeFired (.watchEnd j) s = some (x, u) →
    (isPresence s j = false ∨ (inspChannel s j).watch = none → exec (.watchEnd j) s = .next u) ∧
    (∀ w, isPresence s j = true → (inspChannel s j).watch = some w → w.pitch ≠ posPitch x →
      exec (.watchEnd j) s = .next { u with insp := put u.insp j { inspChannel s j with watch := none } })) ∧
 (∀ (j : Fin 8) (s u : State) (x : Pos) (w : Watch), s.resetHeld = false →
    takeFired (.watchEnd j) s = some (x, u) → isPresence s j = true → (inspChannel s j).watch = some w →
    w.pitch = posPitch x →
    (s.line.run = .idle → exec (.watchEnd j) s
      = .next { u with insp := put u.insp j { inspChannel s j with watch := none } }) ∧
    (s.line.run ≠ .idle →
      (∀ r, s.track.records.find? (fun a => a.cutPitch == w.pitch - BitVec.ofNat 32 (inspOf s j).station) = some r →
        (w.seen = true → ∃ t : State, exec (.watchEnd j) s = .next t ∧
          t.track = amended s r.seq (fun a => { a with values := put a.values j (some 1) }) ∧
          inspChannel t j = { inspChannel s j with
            watch := none, losses := 0, result := some ⟨some r.seq, r.cutPitch, 1, .pass⟩, ready := true,
            overrun := (inspChannel s j).overrun || (inspChannel s j).ready } ∧
          (∀ j', j' ≠ j → inspChannel t j' = inspChannel s j') ∧
          t = { u with track := t.track, insp := t.insp }) ∧
        (w.seen = false → ∃ (t : State) (ns : NoticeQueue) (run : RunState) (reports halts : Bool),
          exec (.watchEnd j) s = .next t ∧
          run = (if s.line.run = .draining ∧ t.track.records = [] then .idle else s.line.run) ∧
          reports = (decide (1 ≤ (inspChannel s j).losses) && !hasFault s .tracking) ∧
          halts = (reports && decide (run = .running ∨ run = .draining)) ∧
          t.line = { s.line with run := if halts then .halted else run,
                                 faults := if reports then s.line.faults ||| 16#6 else s.line.faults } ∧
          t.lines = { s.lines with outs := t.lines.outs } ∧
          (∀ i : Fin 16, getAt t.lines.outs i = { getAt s.lines.outs i with
            held := if halts then (match (getAt s.lines.outs i).function with
                | .manual => some (getAt s.lines.outs i).manual
                | .channel k => some (getAt t.app.channels k).serving.isSome
                | _ => none)
              else (getAt s.lines.outs i).held }) ∧
          t.track = { s.track with records := s.track.records.eraseP (fun a => a.seq == r.seq) } ∧
          counter t .lost = counter s .lost + 1#32 ∧ (∀ c, c ≠ .lost → counter t c = counter s c) ∧
          inspChannel t j = { inspChannel s j with
            watch := none, losses := min ((inspChannel s j).losses + 1) 255,
            measurement := (inspChannel t j).measurement,
            result := some ⟨some r.seq, r.cutPitch, 0, .lost⟩, ready := true,
            overrun := (inspChannel s j).overrun || (inspChannel s j).ready } ∧
          (∀ j', j' ≠ j → inspChannel t j'
            = { inspChannel s j' with measurement := (inspChannel t j').measurement }) ∧
          BlanksLeft [r.seq] s t ∧
          t.pos = { u.pos with schedule := eventsLeft [r.seq] u.pos.schedule, due := t.pos.due } ∧
          (hasFault t .tracking = (hasFault s .tracking || decide (1 ≤ (inspChannel s j).losses))) ∧
          AfterTest r.tag u t ns ∧ t.deliv = s.deliv ∧
          t.notices = (if 1 ≤ (inspChannel s j).losses ∧ hasFault s .tracking = false then
            (offer (.fault .tracking) { s with notices := ns }).notices else ns) ∧
          t = { u with track := t.track, counters := { s.counters with live := t.counters.live }, insp := t.insp,
                       app := t.app, pos := t.pos, orders := t.orders, notices := t.notices, reg := t.reg,
                       store := { s.store with slots := t.store.slots }, line := t.line, lines := t.lines })) ∧
      (s.track.records.find? (fun a => a.cutPitch == w.pitch - BitVec.ofNat 32 (inspOf s j).station) = none →
        (w.seen = false → exec (.watchEnd j) s
          = .next { u with insp := put u.insp j { inspChannel s j with watch := none } }) ∧
        (w.seen = true → ∃ v t : State, exec (.watchEnd j) s = .next t ∧ t = report .tracking v ∧
          v = { u with insp := put u.insp j { inspChannel s j with
            watch := none, ready := true, overrun := (inspChannel s j).overrun || (inspChannel s j).ready,
            result := some ⟨none, w.pitch - BitVec.ofNat 32 (inspOf s j).station, 1, .unexpected⟩ } } ∧
          (hasFault s .tracking = true → t = v) ∧
          (hasFault s .tracking = false →
            t.line = { s.line with faults := s.line.faults ||| 16#6,
                                   run := if s.line.run = .running ∨ s.line.run = .draining then .halted
                                     else s.line.run } ∧
            t.notices = (offer (.fault .tracking) s).notices ∧ t.lines = { s.lines with outs := t.lines.outs } ∧
            (∀ i : Fin 16, getAt t.lines.outs i = { getAt s.lines.outs i with
              held := if s.line.run = .running ∨ s.line.run = .draining then
                  (if followsSafeMode (getAt s.lines.outs i).function then some (drivenState s i) else none)
                else (getAt s.lines.outs i).held }) ∧
            t = { v with line := t.line, lines := t.lines, notices := t.notices })))))

/-- A completed measurement of value v, at a fired window end or sample: PASS within the limits, both inclusive, else FAIL
with the setting's class added to the record; the record's value of the channel becomes v, the result is made and the
measurement is absent. An added class is handed over: the blank's skip-on-defect entries lose their pending events and
applications where the record then holds a class of its effective reject set, and nothing else is withdrawn (05 R86). A
window end closes an open segment at the window's end; a sample reads the line's saturated value (06 R104 to R107, R109;
03 R47). -/
def Obligations.MeasurementsComplete : Prop :=
  ∀ (j : Fin 8) (q : U32) (reading : Int) (s u : State) (p : Pending) (r : Record) (v : Nat) (i : Instr),
    s.resetHeld = false → findRecord s q = some r →
    ((i = .inspectionWindowEnd j q ∧ takeScheduled (.inspEnd j q) s = some (p, u) ∧
        ∃ m, (inspChannel s j).measurement = some m ∧ m.seq = q ∧
          v = m.value + (match m.segment with | some b => (posDist b m.finish).toNat | none => 0)) ∨
      (i = .sampleEvent j q reading ∧ takeScheduled (.inspSample j q) s = some (p, u) ∧
        v = (if s.lines.modes.getLsbD (inspOf s j).line.val then (min (max reading 0) 4095).toNat
          else if s.lines.levels.getLsbD (inspOf s j).line.val then 4095 else 0))) →
    ∃ t : State, exec i s = .next t ∧
      t.track = amended s q (fun x => { x with
        values := put x.values j (some v),
        defects := if (settingOf s r j).low ≤ v ∧ v ≤ (settingOf s r j).high then x.defects
          else x.defects ||| oneDefect (settingOf s r j).cls }) ∧
      inspChannel t j = { inspChannel s j with
        measurement := none, ready := true, overrun := (inspChannel s j).overrun || (inspChannel s j).ready,
        result := some ⟨some q, r.cutPitch, v,
          if (settingOf s r j).low ≤ v ∧ v ≤ (settingOf s r j).high then .pass else .fail⟩ } ∧
      (∀ j', j' ≠ j → inspChannel t j' = inspChannel s j') ∧
      ((settingOf s r j).low ≤ v ∧ v ≤ (settingOf s r j).high → t.app = s.app ∧ t.pos = u.pos) ∧
      (v < (settingOf s r j).low ∨ (settingOf s r j).high < v →
        EntriesCut (cutAt s { r with defects := r.defects ||| oneDefect (settingOf s r j).cls }) u t) ∧
      t = { s with track := t.track, insp := t.insp, pos := { s.pos with schedule := t.pos.schedule },
                   app := { s.app with channels := t.app.channels } }

/-! ## Orders and feed -/

/-- ORDER_QUEUE is refused with BAD_ARG, naming the first field outside the ranges of the order table by its place in it, then
DUPLICATE for a tag in the list, FULL at 16 orders and NOT_USABLE for a slot not USABLE, in that order, each changing nothing.
One that passes joins the order to the tail of its lane with the fields it carries, raises its slot's reference count, keeps the
register source current and answers the feed state and the orders of each lane. In FEEDING and SUSPENDED no more happens. In
NO_ORDER with no order queued the order is activated where its class is the running one or there is none, with its EARLY_END
notice where that is due, and otherwise the feed state becomes CHANGEOVER with a FEED_WAIT notice. In CHANGEOVER an order that
becomes the next order is activated where its class is the running one; else nothing changes (07 R114, R115, R117, R119 to R121,
R131; 02 R38, R39). An activation, a selection and the re-examination in CHANGEOVER do what 07 R119 to R121 and R131 say. The
orders' identity numbers (nextId), the order of the lanes in the reply and the codes of HOLD_AFTER and QUIET are the model's
choice (log entries 19, 15 and 13). -/
def Obligations.OrderQueue : Prop :=
 (∀ (args : List Byte) (s : State), accepts s 15 args = true →
    (∀ n, firstBad (orderChecks args) = some n →
      exec (.orderQueue args) s = answered 40 args s .badArg [BitVec.ofNat 8 n] s) ∧
    firstBad (orderChecks args) = [decide (1 ≤ u16 args 0), decide (u8 args 2 ≤ 1), decide (u8 args 3 ≤ 7),
      decide (1 ≤ u32 args 4 ∧ u32 args 4 ≤ 999999), decide (1 ≤ u16 args 8 ∧ u16 args 8 ≤ 9999),
      decide (u8 args 10 ≤ 15), decide (u16 args 11 ≤ 999), decide (u8 args 13 ≤ 1),
      decide (u8 args 14 ≤ 1)].findIdx? (fun ok => !ok) ∧
    (firstBad (orderChecks args) = none →
      ((∃ o, o ∈ s.orders.list ∧ o.tag = u16 args 0) →
        exec (.orderQueue args) s = answered 40 args s .duplicate [] s) ∧
      ((∀ o, o ∈ s.orders.list → o.tag ≠ u16 args 0) →
        (16 ≤ s.orders.list.length → exec (.orderQueue args) s = answered 40 args s .full [] s) ∧
        (s.orders.list.length < 16 → (slotOf s (Fin.ofNat 8 (u8 args 3))).state ≠ .usable →
          exec (.orderQueue args) s = answered 40 args s .notUsable [] s)))) ∧
 (∀ (args : List Byte) (s : State) (o x : Order) (early : Bool), accepts s 15 args = true →
    firstBad (orderChecks args) = none →
    o = ⟨s.orders.nextId, u16 args 0, if u8 args 2 = 0 then .normal else .priority, Fin.ofNat 8 (u8 args 3),
      u32 args 4, u16 args 8, u8 args 10, u16 args 11, u8 args 13 == 0, u8 args 14 == 0, .queued, 0, 0, false, false⟩ →
    (∀ x, x ∈ s.orders.list → x.tag ≠ o.tag) → s.orders.list.length < 16 →
    (slotOf s o.slot).state = .usable →
    early = decide (0 < o.early ∧ o.quantity ≤ o.early + committedOf s o.tag) →
    x = { o with state := .active, earlySent := early } →
    ∃ t : State, exec (.orderQueue args) s = answered 40 args s .ok
        [BitVec.ofNat 8 (codeFeed t.orders.feedState), BitVec.ofNat 8 (laneOrders t .normal).length,
          BitVec.ofNat 8 (laneOrders t .priority).length] t ∧
      t.orders.list.map Order.tag = s.orders.list.map Order.tag ++ [o.tag] ∧
      (slotOf t o.slot) = { slotOf s o.slot with refs := (slotOf s o.slot).refs + 1 } ∧
      (∀ k, k ≠ o.slot → slotOf t k = slotOf s k) ∧
      t.reg.source = wantedSource t ∧
      (s.orders.feedState = .feeding ∨ s.orders.feedState = .suspended →
        t.orders = { s.orders with list := s.orders.list ++ [o], nextId := s.orders.nextId + 1 } ∧
        t.notices = s.notices) ∧
      (s.orders.feedState = .noOrder → nextOrder s = none → activeOrder s = none →
        (s.orders.runningClass = none ∨ s.orders.runningClass = some (formatClassOf s o) →
          t.orders = { s.orders with list := s.orders.list ++ [x], nextId := s.orders.nextId + 1,
                                     feedState := .feeding, runningClass := some (formatClassOf s o) } ∧
          t.notices = (if early then offer (.earlyEnd o.tag (o.quantity - committedOf s o.tag)) s else s).notices) ∧
        (s.orders.runningClass ≠ none → s.orders.runningClass ≠ some (formatClassOf s o) →
          t.orders = { s.orders with list := s.orders.list ++ [o], nextId := s.orders.nextId + 1,
                                     feedState := .changeover } ∧
          t.notices = (offer (.feedWait true o.tag) s).notices)) ∧
      (s.orders.feedState = .changeover →
        (nextOrder { s with orders := { s.orders with list := s.orders.list ++ [o] } } = some o →
          s.orders.runningClass = some (formatClassOf s o) →
          t.orders = { s.orders with list := s.orders.list ++ [x], nextId := s.orders.nextId + 1,
                                     feedState := .feeding } ∧
          t.notices = (if early then offer (.earlyEnd o.tag (o.quantity - committedOf s o.tag)) s else s).notices) ∧
        (nextOrder { s with orders := { s.orders with list := s.orders.list ++ [o] } } ≠ some o ∨
            s.orders.runningClass ≠ some (formatClassOf s o) →
          t.orders = { s.orders with list := s.orders.list ++ [o], nextId := s.orders.nextId + 1 } ∧
          t.notices = s.notices)) ∧
      t.track = s.track ∧ t.deliv = s.deliv ∧ t.line = s.line ∧ t.counters = s.counters ∧ t.insp = s.insp ∧
      t.app = s.app ∧ t.reg.trim = s.reg.trim) ∧
 (∀ s : State,
    (nextOrder s = none → select s = { s with orders := { s.orders with feedState := .noOrder } }) ∧
    (∀ o, nextOrder s = some o →
      (s.orders.runningClass = none ∨ s.orders.runningClass = some (formatClassOf s o) → select s = activate o s) ∧
      (s.orders.runningClass ≠ none → s.orders.runningClass ≠ some (formatClassOf s o) → select s
        = offer (.feedWait true o.tag) { s with orders := { s.orders with feedState := .changeover } })) ∧
    (s.orders.feedState ≠ .changeover → reexamine s = s) ∧
    (s.orders.feedState = .changeover →
      (nextOrder s = none → reexamine s = { s with orders := { s.orders with feedState := .noOrder } }) ∧
      (∀ o, nextOrder s = some o →
        (s.orders.runningClass = some (formatClassOf s o) → reexamine s = activate o s) ∧
        (s.orders.runningClass ≠ some (formatClassOf s o) → reexamine s = s)))) ∧
 (∀ (s t : State) (o : Order) (early : Bool), (s.orders.list.map Order.tag).Nodup → o ∈ s.orders.list →
    early = decide (0 < o.early ∧ o.earlySent = false ∧
      o.quantity ≤ o.early + (o.delivered + committedOf s o.tag)) →
    t = activate o s →
    t.orders = { s.orders with
      feedState := .feeding
      runningClass := some (formatClassOf s o)
      list := s.orders.list.map (fun y => if y.tag == o.tag then
        { y with state := .active, earlySent := y.earlySent || early } else y) } ∧
    t.notices = (if early then
      offer (.earlyEnd o.tag (o.quantity - (o.delivered + committedOf s o.tag))) s else s).notices ∧
    t.reg.source = wantedSource t ∧
    t = { s with orders := t.orders, notices := t.notices, reg := t.reg,
                 pos := { s.pos with due := t.pos.due } }) ∧
 ([FeedState.noOrder, .feeding, .suspended, .changeover].map codeFeed = List.range 4)

/-- ORDER_ABORT refuses tag 0 with BAD_ARG and a tag not in the list with NOT_HELD, and answers OK with no change for an order
already aborted. A QUEUED order leaves at once as ABORTED, after which CHANGEOVER looks at the next order again. An ACTIVE order
becomes FEED_DONE with its aborted flag set and each of its OPEN records ABORTED, whose skip-on-defect entries lose their
pending events and applications (05 R86); HOLD_AFTER takes the feed state to SUSPENDED with a FEED_WAIT notice, and without it a
selection is made; the register source is then worked out anew (04 R58). A FEED_DONE order is marked the same way, the feed
state kept. With a record in transit the order stays; without one it leaves, COMPLETE where delivered is Q and else ABORTED (07
R120, R121, R130, R132). The completion test and a departure do what 07 R130 says: with no record in transit an order leaves
COMPLETE, ABORTED or SHORT, its slot's reference count falls, ORDER_END is offered, and R121 follows. The absent fields of the
reply coded 255 and the codes of the end states are the model's choice (log entries 15 and 14). -/
def Obligations.OrderAbort : Prop :=
 (∀ (args : List Byte) (s : State), accepts s 2 args = true →
    (u16 args 0 = 0 → exec (.orderAbort args) s = answered 42 args s .badArg [] s) ∧
    (u16 args 0 ≠ 0 → (∀ o, o ∈ s.orders.list → o.tag ≠ u16 args 0) →
      exec (.orderAbort args) s = answered 42 args s .notHeld [] s) ∧
    (∀ o, u16 args 0 ≠ 0 → findOrder s (u16 args 0) = some o →
      (o.state = .feedDone → o.aborted = true →
        exec (.orderAbort args) s = answered 42 args s .ok [2#8, 255#8] s) ∧
      (o.state = .queued → exec (.orderAbort args) s = answered 42 args s .ok [255#8, 2#8] (depart o .aborted s)) ∧
      (o.state = .queued → s.orders.feedState ≠ .changeover →
        ∃ t : State, exec (.orderAbort args) s = answered 42 args s .ok [255#8, 2#8] t ∧
          t.orders = { s.orders with list := s.orders.list.eraseP (fun x => x.tag == o.tag) } ∧
          t.notices = (offer (.orderEnd o.tag .aborted o.delivered o.boxesClosed (o.quantity - o.delivered)) s).notices ∧
          slotOf t o.slot = { slotOf s o.slot with refs := (slotOf s o.slot).refs - 1 } ∧
          t.track = s.track ∧ t.deliv = s.deliv ∧ t.line = s.line ∧ t.counters = s.counters))) ∧
 (∀ (args : List Byte) (s m : State) (o x : Order), accepts s 2 args = true → u16 args 0 ≠ 0 →
    findOrder s (u16 args 0) = some o → (s.orders.list.map Order.tag).Nodup →
    o.state = .active ∨ (o.state = .feedDone ∧ o.aborted = false) →
    m = markAbort o s → x = { o with state := .feedDone, aborted := true } →
    m.orders = { s.orders with list := s.orders.list.map (fun y => if y.tag == o.tag then x else y) } ∧
    (∀ (i : Nat) r, s.track.records[i]? = some r →
      ∃ r', m.track.records[i]? = some r' ∧
        ((r.tag = o.tag ∧ r.stage = .opened) → hasDefect r'.defects .aborted = true) ∧
        r' = { r with defects := r'.defects } ∧
        (∀ c, c ≠ .aborted → hasDefect r'.defects c = hasDefect r.defects c) ∧
        ((s.track.records.map Record.seq).Nodup → r.tag ≠ o.tag ∨ r.stage = .committed → r' = r)) ∧
    m.track.records.length = s.track.records.length ∧ m.track.nextSeq = s.track.nextSeq ∧
    ((s.track.records.map Record.seq).Nodup → EntriesCut (fun q i => s.track.records.any (fun r =>
      r.tag == o.tag && r.stage == .opened
        && cutAt s { r with defects := r.defects ||| oneDefect .aborted } q i)) s m) ∧
    m = { s with orders := m.orders, track := m.track, app := { s.app with channels := m.app.channels },
                 pos := { s.pos with schedule := m.pos.schedule } } ∧
    ((∃ r, r ∈ s.track.records ∧ r.tag = o.tag) →
      (o.state = .feedDone → exec (.orderAbort args) s = answered 42 args s .ok [2#8, 255#8] m) ∧
      (o.state = .active → o.holdAfter = true → ∃ t : State,
        exec (.orderAbort args) s = answered 42 args s .ok [2#8, 255#8] t ∧
        t = updateSource (offer (.feedWait false (nextTag s))
          { m with orders := { m.orders with feedState := .suspended } }) ∧
        t.orders = { m.orders with feedState := .suspended } ∧
        t.notices = (offer (.feedWait false (nextTag s)) s).notices ∧
        t = { m with orders := t.orders, notices := t.notices, reg := t.reg,
                     pos := { m.pos with due := t.pos.due } }) ∧
      (o.state = .active → o.holdAfter = false → ∃ t : State,
        exec (.orderAbort args) s = answered 42 args s .ok [2#8, 255#8] t ∧
        t = updateSource (select m) ∧ t.orders = (select m).orders ∧ t.notices = (select m).notices ∧
        (nextOrder s = none → t.orders = { m.orders with feedState := .noOrder } ∧ t.notices = s.notices) ∧
        t = { m with orders := t.orders, notices := t.notices, reg := t.reg,
                     pos := { m.pos with due := t.pos.due } })) ∧
    ((∀ r, r ∈ s.track.records → r.tag ≠ o.tag) → ∀ e : EndState,
      e = (if o.delivered = o.quantity then .complete else .aborted) →
      exec (.orderAbort args) s = answered 42 args s .ok [255#8, if o.delivered = o.quantity then 0#8 else 2#8]
        (depart x e (if o.state = .active then afterActive o.holdAfter m else m)) ∧
      (o.state = .feedDone → s.orders.feedState ≠ .changeover →
        ∃ t : State, exec (.orderAbort args) s
            = answered 42 args s .ok [255#8, if o.delivered = o.quantity then 0#8 else 2#8] t ∧
          t.orders = { s.orders with list := s.orders.list.eraseP (fun y => y.tag == o.tag) } ∧
          t.notices = (offer (.orderEnd o.tag e o.delivered o.boxesClosed (shortfallOf o e)) s).notices) ∧
      (o.state = .active → o.holdAfter = true →
        ∃ t : State, exec (.orderAbort args) s
            = answered 42 args s .ok [255#8, if o.delivered = o.quantity then 0#8 else 2#8] t ∧
          t.orders = { s.orders with feedState := .suspended,
                                     list := s.orders.list.eraseP (fun y => y.tag == o.tag) } ∧
          t.notices = (offer (.orderEnd o.tag e o.delivered o.boxesClosed (shortfallOf o e))
            (offer (.feedWait false (nextTag s)) s)).notices))) ∧
 (∀ (t : Nat) (s : State),
    ((∀ o, o ∈ s.orders.list → o.tag ≠ t) ∨ (∃ r, r ∈ s.track.records ∧ r.tag = t) → completionTest t s = s) ∧
    (∀ o, findOrder s t = some o → (∀ r, r ∈ s.track.records → r.tag ≠ t) →
      (o.delivered = o.quantity → completionTest t s = depart o .complete s) ∧
      (o.delivered ≠ o.quantity → o.aborted = true → completionTest t s = depart o .aborted s) ∧
      (o.delivered ≠ o.quantity → o.aborted = false → o.state = .feedDone → completionTest t s = depart o .short s) ∧
      (o.delivered ≠ o.quantity → o.aborted = false → o.state ≠ .feedDone → completionTest t s = s))) ∧
 (∀ (o : Order) (e : EndState) (s v : State),
    v = offer (.orderEnd o.tag e o.delivered o.boxesClosed (if e = .complete then 0 else o.quantity - o.delivered))
      { s with
        orders := { s.orders with list := s.orders.list.eraseP (fun x => x.tag == o.tag) }
        store := { s.store with
          slots := put s.store.slots o.slot { slotOf s o.slot with refs := (slotOf s o.slot).refs - 1 } } } →
    (o.state ≠ .active → s.orders.feedState ≠ .changeover → depart o e s = updateSource v) ∧
    (o.state ≠ .active → s.orders.feedState = .changeover → depart o e s = reexamine (updateSource v)) ∧
    (o.state = .active → o.holdAfter = true → depart o e s = updateSource
      (offer (.feedWait false (nextTag v)) { v with orders := { v.orders with feedState := .suspended } })) ∧
    (o.state = .active → o.holdAfter = false → depart o e s = updateSource (select v)) ∧
    updateSource v = { v with reg := (updateSource v).reg, pos := { v.pos with due := (updateSource v).pos.due } })

/-- ORDER_RESUME is refused with STATE in NO_ORDER and FEEDING. In SUSPENDED with no next order the feed state becomes NO_ORDER.
With a next order of the running class, or with the Transit List empty, that order is activated, as OrderQueue spells, with its
early notice where that is due and the switch event (R131; 04 R58); otherwise SUSPENDED becomes CHANGEOVER with a FEED_WAIT
notice, and CHANGEOVER is refused with STATE (07 R119, R122). That a refused ORDER_RESUME carries no bytes and one taken without
an activation the feed state alone (log entry 15), and that CHANGEOVER without a next order, which no run reaches, is refused
with STATE, is the model's choice. FEED_HOLD sets the forced-hold flag and FORCED with it, FEED_RELEASE clears both, and no
other hold reason changes; the reply carries the hold-reason set after the request. PULL_SAMPLE makes the countdown n for 1..15
and is BAD_ARG outside (07 R123, R124, R133). -/
def Obligations.ResumeHoldsAndSamples : Prop :=
 (∀ (args : List Byte) (s : State), accepts s 0 args = true →
    (s.orders.feedState = .noOrder ∨ s.orders.feedState = .feeding →
      exec (.orderResume args) s = answered 43 args s .state [] s) ∧
    (s.orders.feedState = .suspended → nextOrder s = none →
      exec (.orderResume args) s = answered 43 args s .ok [0#8]
        { s with orders := { s.orders with feedState := .noOrder } }) ∧
    (s.orders.feedState = .changeover → nextOrder s = none →
      exec (.orderResume args) s = answered 43 args s .state [] s) ∧
    (∀ o, s.orders.feedState = .suspended ∨ s.orders.feedState = .changeover → nextOrder s = some o →
      (s.orders.runningClass = some (formatClassOf s o) ∨ s.track.records = [] →
        ∃ t : State, exec (.orderResume args) s = answered 43 args s .ok
            [1#8, BitVec.ofNat 8 o.tag, BitVec.ofNat 8 (o.tag / 256)] t ∧ t = activate o s ∧
          t.orders.feedState = .feeding ∧ t.orders.runningClass = some (formatClassOf s o) ∧
          (∃ x, x ∈ t.orders.list ∧ x.tag = o.tag ∧ x.state = .active) ∧
          t.orders.list.map Order.tag = s.orders.list.map Order.tag ∧
          t.track = s.track ∧ t.deliv = s.deliv ∧ t.line = s.line ∧ t.store = s.store ∧ t.counters = s.counters) ∧
      (s.orders.runningClass ≠ some (formatClassOf s o) → s.track.records ≠ [] →
        (s.orders.feedState = .suspended → exec (.orderResume args) s = answered 43 args s .ok [3#8]
          (offer (.feedWait true o.tag) { s with orders := { s.orders with feedState := .changeover } })) ∧
        (s.orders.feedState = .changeover → exec (.orderResume args) s = answered 43 args s .state [] s)))) ∧
 (∀ (args : List Byte) (s : State),
    (accepts s 0 args = true →
      (∃ t : State, exec (.feedHold args) s = answered 44 args s .ok [BitVec.ofNat 8 (holdReasons t).toNat] t ∧
        t = { s with orders := { s.orders with forcedHold := true } } ∧ holdReasons t = holdReasons s ||| 1#5) ∧
      (∃ t : State, exec (.feedRelease args) s = answered 45 args s .ok [BitVec.ofNat 8 (holdReasons t).toNat] t ∧
        t = { s with orders := { s.orders with forcedHold := false } } ∧
        holdReasons t = holdReasons s &&& ~~~ 1#5)) ∧
    (accepts s 1 args = true →
      (1 ≤ u8 args 0 → u8 args 0 ≤ 15 → exec (.pullSample args) s = answered 46 args s .ok
        [BitVec.ofNat 8 (u8 args 0)] { s with orders := { s.orders with countdown := u8 args 0 } }) ∧
      (u8 args 0 = 0 ∨ 15 < u8 args 0 → exec (.pullSample args) s = answered 46 args s .badArg [] s)))

/-- A feed event that makes no hand-over counts CUT_TOTAL and diverts its blank outside RUNNING, outside FEEDING, with a hold
reason or with no positive need: DIVERTED is counted, FEED_GATE becomes active, and no record is made (07 R125, R126). What
the decision reads is worked out as the spec says: the next order by lane and queuing (07 R114), startable, target and need
(R116), hopeful and committed (03 R49), and the five hold reasons (R123, 05 R93). -/
def Obligations.FeedDiverts : Prop :=
 (∀ (s u : State) (x : Pos), s.resetHeld = false → takeFired .feed s = some (x, u) →
    (s.orders.feedState ≠ .feeding ∨ isStartable s = false ∨ (∀ a, activeOrder s = some a → needOf s a ≠ 0)) →
    (s.line.run ≠ .running ∨ s.orders.feedState ≠ .feeding ∨ holdReasons s ≠ 0#5
      ∨ (∀ a, activeOrder s = some a → needOf s a ≤ 0)) →
    ∃ v t : State, exec .feedEvent s = .next t ∧ CutCounted u v ∧ Diverted v t) ∧
 (∀ (s : State) (o : Order) (r : Record),
    (nextOrder s = some o ↔ ∃ before behind, s.orders.list = before ++ o :: behind ∧ o.state = .queued ∧
      ((o.lane = .priority ∧ ∀ y, y ∈ before → y.state = .queued → y.lane ≠ .priority) ∨
        (o.lane = .normal ∧ (∀ y, y ∈ s.orders.list → y.state = .queued → y.lane = .normal) ∧
          ∀ y, y ∈ before → y.state ≠ .queued))) ∧
    (isStartable s = true ↔ ∃ a n, activeOrder s = some a ∧ nextOrder s = some n ∧
      (recipeOf s n.slot).header.formatClass = (recipeOf s a.slot).header.formatClass ∧ a.holdAfter = false) ∧
    committedOf s o.tag = s.track.records.countP (fun x => x.tag == o.tag && x.stage == .committed) ∧
    hopefulOf s o.tag = s.track.records.countP (fun x => x.tag == o.tag && isHopeful s x) ∧
    needOf s o = (if isStartable s then (o.quantity : Int) + o.spare else o.quantity)
      - (o.delivered + committedOf s o.tag : Nat) - hopefulOf s o.tag ∧
    (isHopeful s r = true ↔ r.stage = .opened ∧ isRejectable s r = false) ∧
    (isRejectable s r = true ↔ ∃ c, hasDefect r.defects c = true ∧
      (c = .sample ∨ c = .aborted ∨ (recipeOf s r.slot).rejectMask.getLsbD (defectBit c) = true)) ∧
    (holdReasons s).getLsbD 0 = s.orders.forcedHold ∧
    (holdReasons s).getLsbD 1 = decide (1 ≤ s.store.inForce.general.outfeedHold ∧
      s.store.inForce.general.outfeedHold ≤ s.deliv.waiting) ∧
    (holdReasons s).getLsbD 2 = decide (s.reg.state = .lost) ∧
    (holdReasons s).getLsbD 3 = (hasFault s .gumSupply && (activeOrder s).any (fun a =>
      (recipeOf s a.slot).cams.any (fun e => decide ((getAt s.store.inForce.apps e.channel).kind = .gum)))) ∧
    (holdReasons s).getLsbD 4 = decide (s.line.run = .draining))

/-- A feed event of pitch p in RUNNING and FEEDING, with no hold reason and a positive need of the ACTIVE order, accepts its
blank: a record of that pitch, order, slot and verdict joins the tail under the next sequence number, OPEN, with REGISTER for
an OUT_OF_REGISTER verdict and SAMPLE with a countdown above 0, which falls by 1; ACCEPTED and CUT_TOTAL are counted, the
slot's reference count rises and FEED_GATE becomes inactive. The announcement schedules an on event for each dot of each cam
entry, its nominal position less the on lead, the window events of enabled SPAN and COUNT channels, the sample of enabled LEVEL
channels, and the gate and delivery events, and nothing else (03 R41 to R43, 05 R79, 06 R98, 07 R125 and R127, 08 R136; 02
R38). Verdict and error are absent in OFF; the verdict is OUT_OF_REGISTER in SEEK, and in LOCKED and COAST where the last
capture is of pitch p and outside tolerance, else IN_REGISTER; the error is that of a last capture of pitch p (04 R73). -/
def Obligations.FeedAccepts : Prop :=
 (∀ (s u : State) (x : Pos) (o : Order), s.resetHeld = false → takeFired .feed s = some (x, u) →
    activeOrder s = some o → s.line.run = .running → s.orders.feedState = .feeding → holdReasons s = 0#5 →
    0 < needOf s o →
    ∃ v t : State, exec .feedEvent s = .next t ∧ CutCounted u v ∧ Accepted (posPitch x) o v t) ∧
 (∀ (s : State) (p : U32),
    (s.reg.state = .off → verdictOf s p = none ∧ errorOf s p = none) ∧
    (s.reg.state = .seek → verdictOf s p = some .outOfRegister) ∧
    (s.reg.state = .locked ∨ s.reg.state = .coast →
      (∀ c, s.reg.last = some c → c.pitch = p →
        verdictOf s p = some (if c.outside then .outOfRegister else .inRegister)) ∧
      ((∀ c, s.reg.last = some c → c.pitch ≠ p) → verdictOf s p = some .inRegister)) ∧
    (s.reg.state ≠ .off →
      (∀ c, s.reg.last = some c → c.pitch = p → errorOf s p = some c.error) ∧
      ((∀ c, s.reg.last = some c → c.pitch ≠ p) → errorOf s p = none)))

/-- A feed event in FEEDING that finds need 0 and the next order startable counts CUT_TOTAL and hands over before it decides: the
ACTIVE order is FEED_DONE, the next order ACTIVE with its early notice where that is due, the register source follows it with
its switch event, and the order handed over makes its completion test. The decision is then made on the state so left: the
blank is accepted for the new order where the line is RUNNING, no hold reason stands and that order's need is positive, with
the verdict that the switch left, and is diverted otherwise (07 R119, R125 to R128, R130, R131; 04 R59, R74). That the
activation, with its EARLY_END notice, comes before the completion test of the order handed over, with its ORDER_END, is the
model's choice (log entry 25, DESIGN CHOICE). -/
def Obligations.FeedHandsOver : Prop :=
  ∀ (s u : State) (x : Pos) (a n y : Order) (early : Bool), s.resetHeld = false → takeFired .feed s = some (x, u) →
    (s.orders.list.map Order.tag).Nodup → s.orders.list.countP (fun o => o.state == .active) = 1 →
    s.orders.feedState = .feeding → activeOrder s = some a → nextOrder s = some n → isStartable s = true →
    needOf s a = 0 →
    early = decide (0 < n.early ∧ n.earlySent = false ∧
      n.quantity ≤ n.early + (n.delivered + committedOf s n.tag)) →
    y = { n with state := .active, earlySent := n.earlySent || early } →
    ∃ c v t : State, exec .feedEvent s = .next t ∧ CutCounted u c ∧
      activeOrder v = some y ∧ v.orders.feedState = .feeding ∧ v.orders.runningClass = some (formatClassOf s n) ∧
      (∀ z, z ∈ v.orders.list → z.tag = a.tag → z = { a with state := .feedDone }) ∧
      AfterTest a.tag
        { (if s.reg.source = some n.slot then u else switchTo (some n.slot) u) with
          orders := { s.orders with
            runningClass := some (formatClassOf s n)
            list := s.orders.list.map (fun z => if z.tag = n.tag then y
              else if z.tag = a.tag then { z with state := .feedDone } else z) }
          notices := (if early then offer (.earlyEnd n.tag (n.quantity - (n.delivered + committedOf s n.tag))) s
            else s).notices }
        v v.notices ∧
      v.reg = (if s.reg.source = some n.slot then s.reg else (switchTo (some n.slot) s).reg) ∧
      v = { c with orders := v.orders, notices := v.notices, reg := v.reg,
                   pos := { c.pos with due := v.pos.due }, store := { c.store with slots := v.store.slots } } ∧
      (∀ k, recipeOf v k = recipeOf s k) ∧
      (s.line.run = .running → holdReasons v = 0#5 → 0 < needOf v y → Accepted (posPitch x) y v t) ∧
      (s.line.run ≠ .running ∨ holdReasons v ≠ 0#5 ∨ needOf v y ≤ 0 → Diverted v t) ∧
      activeOrder t = some y ∧ t.orders.feedState = .feeding ∧ t.reg.source = some n.slot ∧
      counter t .cutTotal = counter s .cutTotal + 1#32

/-! ## Gate, delivery and boxes -/

/-- A fired gate event of a blank whose defect set holds classes of its effective reject set rejects it under the first of
REGISTER, WINDOW, GUM, FOLD, THICKNESS, SAMPLE, ABORTED among them; a clean blank is rejected SURPLUS where passed is the
order's Q, and NO_ROOM where waiting + K + c exceeds 4, c by the three steps that GatePasses spells. The record leaves, REJECTED
and the cause are counted and no other counter, the completion test of its order is made, the register source following,
REJECT_GATE becomes active with its end scheduled one pitch on, and projection, K and waiting stay. DRAINING becomes IDLE where
the list is then empty (09 R154). The blank's applications, measurements, entry and pending events go with it, and every other
pending event but an old reject-gate end stays (08 R137, R138, R141; 03 R50; 05 R87; 06 R108; 07 R130). -/
def Obligations.GateRejects : Prop :=
  ∀ (q : U32) (s u : State) (p : Pending) (r : Record) (o : Order) (c : Counter), s.resetHeld = false →
    takeScheduled (.gate q) s = some (p, u) → findRecord s q = some r → findOrder s r.tag = some o →
    ((∃ d, c = causeCounter d ∧ hasDefect (rejectClasses s r) d = true ∧
        ∀ d', defectBit d' < defectBit d → hasDefect (rejectClasses s r) d' = false) ∨
      (rejectClasses s r = 0#7 ∧ c = .rejectSurplus ∧ o.delivered + committedOf s o.tag = o.quantity) ∨
      (rejectClasses s r = 0#7 ∧ c = .rejectNoRoom ∧ o.delivered + committedOf s o.tag ≠ o.quantity ∧
        4 < s.deliv.waiting + s.deliv.committedCloses + (passClosesOf s o).1)) →
    ∃ t : State, exec (.gateEvent q) s = .next t ∧
      t.track = { s.track with records := s.track.records.eraseP (fun x => x.seq == q) } ∧
      counter t .rejected = counter s .rejected + 1#32 ∧ counter t c = counter s c + 1#32 ∧
      (∀ k, k ≠ .rejected → k ≠ c → counter t k = counter s k) ∧
      t.deliv = { s.deliv with rejectGate := true } ∧
      (∃ e, e ∈ t.pos.schedule ∧ e.event = .rejectGateEnd ∧ e.pos = posAdd p.pos 3600) ∧
      (∀ e, e ∈ t.pos.schedule → eventBlank e.event = some q → False) ∧
      BlanksLeft [q] s t ∧
      (∀ j, inspChannel t j = { inspChannel s j with measurement := (inspChannel t j).measurement }) ∧
      t.pos = { u.pos with
        schedule := (eventsLeft [q] u.pos.schedule).filter (fun e => decide (e.event ≠ .rejectGateEnd))
          ++ [plainEvent (posAdd p.pos 3600) .rejectGateEnd]
        due := t.pos.due } ∧
      AfterTest r.tag s t t.notices ∧
      t.line = { s.line with run := if s.line.run = .draining ∧ t.track.records = [] then .idle else s.line.run } ∧
      t.lines = s.lines ∧ t.reg.trim = s.reg.trim

/-- A fired gate event of a clean blank, below Q and with room, passes it: the record becomes COMMITTED, K rises by the closes
c its delivery will cause and the projected box is the one it leaves, PASSED_MASKED counts a defect set that is not empty, and
the early notice is offered the first time Q - passed is at most E. c comes from three steps: a projected box of another order
is one close; the blank then enters a projected box of its own order or a new one; a box then full, or the order's Q-th
envelope, is one close more, and leaves no projected box (08 R137, R139 to R141; 07 R131). -/
def Obligations.GatePasses : Prop :=
 (∀ (q : U32) (s u : State) (p : Pending) (r : Record) (o : Order) (change n c : Nat) (box : Option ProjectedBox),
    s.resetHeld = false →
    takeScheduled (.gate q) s = some (p, u) → findRecord s q = some r → findOrder s r.tag = some o →
    change = (match s.deliv.projected with | some b => if b.order = o.id then 0 else 1 | none => 0) →
    n = (match s.deliv.projected with | some b => if b.order = o.id then b.count + 1 else 1 | none => 1) →
    c = change + (if n = o.boxQuantity ∨ o.delivered + committedOf s o.tag + 1 = o.quantity then 1 else 0) →
    box = (if n = o.boxQuantity ∨ o.delivered + committedOf s o.tag + 1 = o.quantity then none
      else some ⟨o.id, o.tag, n⟩) →
    rejectClasses s r = 0#7 → o.delivered + committedOf s o.tag ≠ o.quantity →
    s.deliv.waiting + s.deliv.committedCloses + c ≤ 4 →
    ∃ t : State, exec (.gateEvent q) s = .next t ∧
      t.track = amended s q (fun x => { x with stage := .committed }) ∧
      t.deliv = { s.deliv with committedCloses := s.deliv.committedCloses + c, projected := box } ∧
      counter t .passedMasked = counter s .passedMasked + (if r.defects = 0#7 then 0#32 else 1#32) ∧
      (∀ k, k ≠ .passedMasked → counter t k = counter s k) ∧
      (o.early = 0 ∨ o.earlySent = true → t.orders = s.orders ∧ t.notices = s.notices) ∧
      (0 < o.early → o.earlySent = false → (s.track.records.map Record.seq).Nodup → r.stage = .opened →
        (o.quantity ≤ o.early + (o.delivered + committedOf s o.tag + 1) →
          t.notices = (offer (.earlyEnd o.tag (o.quantity - (o.delivered + committedOf s o.tag + 1))) s).notices ∧
          ∀ y, y ∈ t.orders.list → y.tag = o.tag → y.earlySent = true) ∧
        (o.early + (o.delivered + committedOf s o.tag + 1) < o.quantity →
          t.orders = s.orders ∧ t.notices = s.notices)) ∧
      t.line = s.line ∧ t.reg = s.reg ∧ t.app = s.app ∧ t.insp = s.insp ∧ t.lines = s.lines ∧ t.store = s.store ∧
      t.pos = u.pos) ∧
 (∀ (s : State) (o : Order), passClosesOf s o
    = project o (o.delivered + committedOf s o.tag + 1 == o.quantity) s.deliv.projected) ∧
 (∀ (o : Order) (final : Bool) (b : ProjectedBox),
    project o final none = (if 1 = o.boxQuantity ∨ final = true then (1, none) else (0, some ⟨o.id, o.tag, 1⟩)) ∧
    (b.order = o.id → project o final (some b) = (if b.count + 1 = o.boxQuantity ∨ final = true then (1, none)
      else (0, some ⟨o.id, o.tag, b.count + 1⟩))) ∧
    (b.order ≠ o.id → project o final (some b) = (if 1 = o.boxQuantity ∨ final = true then (2, none)
      else (1, some ⟨o.id, o.tag, 1⟩))))

/-- A fired delivery event of a blank of order O. An open box of another order is closed ORDER_CHANGE first. The blank enters
the open box of O, or a new one numbered O's boxes closed plus one, and O's delivered rises by 1. The box is then closed FINAL
at O's Q-th envelope, else FULL at B. Each close raises waiting, lowers K, logs the box under the next box sequence number,
counts BOXES_CLOSED, raises the boxes closed of the box's order, starts the separator and offers BOX_CLOSED unless the box is
QUIET. The record then leaves, counted DELIVERED_GOOD, with the blank's applications, measurements, entry and pending events; no
other counter changes, every other pending event but an old separator pulse end stays, DRAINING becomes IDLE where the list is
then empty (09 R154), lines, faults and trim stay, and the completion test of O is made over the orders and notices so left, the
register source following (08 R142 to R144, R147; 03 R50 and R52; 05 R87; 06 R108; 07 R130). -/
def Obligations.Delivers : Prop :=
  ∀ (q : U32) (s u : State) (p : Pending) (r : Record) (o : Order) (old why : Option CloseReason) (pre : Option Box)
    (box : Box) (n : Nat) (entries : List BoxEntry) (bells : List Notice), s.resetHeld = false →
    takeScheduled (.delivery q) s = some (p, u) → findRecord s q = some r → findOrder s r.tag = some o →
    pre = (match s.deliv.openBox with | some b => if b.order = o.id then none else some b | none => none) →
    old = pre.map (fun _ => .orderChange) →
    box = (match s.deliv.openBox with
      | some b => if b.order = o.id then { b with count := b.count + 1 }
        else ⟨o.id, o.tag, o.boxesClosed + 1, 1, o.boxQuantity, o.quiet⟩
      | none => ⟨o.id, o.tag, o.boxesClosed + 1, 1, o.boxQuantity, o.quiet⟩) →
    why = (if o.delivered + 1 = o.quantity then some .final else if box.count = box.boxQuantity then some .full
      else none) →
    n = old.toList.length + why.toList.length →
    entries = (pre.toList.map (fun b => ⟨s.deliv.nextBox, b.tag, b.number, b.count, .orderChange, pitchNumber s⟩))
      ++ (why.toList.map (fun w => ⟨s.deliv.nextBox + BitVec.ofNat 32 old.toList.length, box.tag, box.number, box.count,
        w, pitchNumber s⟩)) →
    bells = ((pre.toList.filter (fun b => !b.quiet)).map (fun _ => .boxClosed s.deliv.nextBox))
      ++ (if why.isSome && !box.quiet then [.boxClosed (s.deliv.nextBox + BitVec.ofNat 32 old.toList.length)]
        else []) →
    ∃ t : State, exec (.deliveryEvent q) s = .next t ∧
      t.track = { s.track with records := s.track.records.eraseP (fun x => x.seq == q) } ∧
      counter t .deliveredGood = counter s .deliveredGood + 1#32 ∧
      counter t .boxesClosed = counter s .boxesClosed + BitVec.ofNat 32 n ∧
      (∀ k, k ≠ .deliveredGood → k ≠ .boxesClosed → counter t k = counter s k) ∧
      t.deliv = { s.deliv with
        openBox := if why.isSome then none else some box
        waiting := s.deliv.waiting + n
        committedCloses := s.deliv.committedCloses - n
        nextBox := s.deliv.nextBox + BitVec.ofNat 32 n
        separator := s.deliv.separator || decide (0 < n)
        log := t.deliv.log } ∧
      (s.deliv.log.length ≤ 32 → t.deliv.log
        = (s.deliv.log ++ entries).drop (s.deliv.log.length + n - 32)) ∧
      (0 < n → ∃ e, e ∈ t.pos.schedule ∧ e.event = .separatorEnd ∧
        e.pos = posAdd s.pos.hwm s.store.inForce.general.separatorLength) ∧
      t.line = { s.line with run := if s.line.run = .draining ∧ t.track.records = [] then .idle else s.line.run } ∧
      t.lines = s.lines ∧ t.reg.trim = s.reg.trim ∧ t.mgmt = s.mgmt ∧ t.ring = s.ring ∧
      BlanksLeft [q] s t ∧
      (∀ j, inspChannel t j = { inspChannel s j with measurement := (inspChannel t j).measurement }) ∧
      t.pos = { u.pos with
        schedule := if 0 < n then
            (eventsLeft [q] u.pos.schedule).filter (fun e => decide (e.event ≠ .separatorEnd))
              ++ [plainEvent (posAdd s.pos.hwm s.store.inForce.general.separatorLength) .separatorEnd]
          else eventsLeft [q] u.pos.schedule
        due := t.pos.due } ∧
      AfterTest r.tag
        { bells.foldl (fun v b => offer b v) s with
          orders := { s.orders with list := s.orders.list.map (fun y => { y with
            delivered := if y.tag = o.tag then y.delivered + 1 else y.delivered
            boxesClosed := y.boxesClosed + (if pre.any (fun b => y.id == b.order) then 1 else 0)
              + (if why.isSome && y.id == o.id then 1 else 0) }) } }
        t t.notices

/-- CLOSE_BOX is EMPTY with no box open and FULL where waiting + K is 4 or more; otherwise the open box is closed REQUEST, which
raises waiting, logs the box, counts BOXES_CLOSED, raises the boxes closed of the box's order where that is in the list, starts
the separator and does not lower K, and K and the projected box are
those of the replay from no open box. The reply carries the box's number, waiting and K. The replay starts from the open box
and delivers every COMMITTED record in list order by the steps that GatePasses spells. Where K was that of the replay, it does
not rise, and waiting + K stays at most 4 (08 R140, R141, R143, R144, R146). -/
def Obligations.CloseBox : Prop :=
 (∀ (args : List Byte) (s : State), accepts s 0 args = true →
    (s.deliv.openBox = none → exec (.closeBox args) s = answered 50 args s .empty [] s) ∧
    (∀ b, s.deliv.openBox = some b →
      (4 ≤ s.deliv.waiting + s.deliv.committedCloses →
        exec (.closeBox args) s = answered 50 args s .full [] s) ∧
      (s.deliv.waiting + s.deliv.committedCloses < 4 →
        ∃ t : State, exec (.closeBox args) s = answered 50 args s .ok
            (le32 s.deliv.nextBox.toNat ++ [BitVec.ofNat 8 t.deliv.waiting, BitVec.ofNat 8 t.deliv.committedCloses]) t ∧
          t.deliv.openBox = none ∧ t.deliv.waiting = s.deliv.waiting + 1 ∧ t.deliv.separator = true ∧
          t.deliv.nextBox = s.deliv.nextBox + 1#32 ∧
          t.deliv.log.getLast? = some ⟨s.deliv.nextBox, b.tag, b.number, b.count, .request, pitchNumber s⟩ ∧
          (t.deliv.committedCloses, t.deliv.projected) = replay t ∧
          counter t .boxesClosed = counter s .boxesClosed + 1#32 ∧
          (∀ k, k ≠ .boxesClosed → counter t k = counter s k) ∧
          (∃ e, e ∈ t.pos.schedule ∧ e.event = .separatorEnd ∧
            e.pos = posAdd s.pos.hwm s.store.inForce.general.separatorLength) ∧
          t.notices = (if b.quiet then s.notices else (offer (.boxClosed s.deliv.nextBox) s).notices) ∧
          (s.deliv.committedCloses = (replay s).1 → (s.orders.list.map Order.id).Nodup →
            (∀ o, o ∈ s.orders.list → o.id = b.order → b.count < o.boxQuantity) →
            t.deliv.committedCloses ≤ s.deliv.committedCloses ∧ t.deliv.waiting + t.deliv.committedCloses ≤ 4) ∧
          t.orders = { s.orders with list := s.orders.list.map (fun o =>
            if o.id = b.order then { o with boxesClosed := o.boxesClosed + 1 } else o) } ∧
          t.pos = { s.pos with schedule := s.pos.schedule.filter (fun e => decide (e.event ≠ .separatorEnd))
            ++ [plainEvent (posAdd s.pos.hwm s.store.inForce.general.separatorLength) .separatorEnd] } ∧
          t.app = s.app ∧ t.insp = s.insp ∧ t.track = s.track ∧ t.line = s.line ∧
          t.reg = s.reg ∧ t.store = s.store ∧ t.lines = s.lines))) ∧
 (∀ s : State, s.track.records = [] →
    replay s = (0, s.deliv.openBox.map (fun b => ⟨b.order, b.tag, b.count⟩))) ∧
 (∀ (s v : State) (r : Record) (rs : List Record), s.track.records = rs ++ [r] →
    v = { s with track := { s.track with records := rs } } →
    (r.stage = .opened → replay s = replay v) ∧
    (∀ o, r.stage = .committed → findOrder s r.tag = some o → replay s
      = ((replay v).1 + (project o (o.delivered + committedOf v r.tag + 1 == o.quantity) (replay v).2).1,
        (project o (o.delivered + committedOf v r.tag + 1 == o.quantity) (replay v).2).2)))

/-! ## Events and records over all commands -/

/-- Before a command that settles first the part takes the events that have fired one after another, each as FiredTaken says:
one of the earliest position, as that event's command does; none that has fired is left, and where none has, nothing happens.
At a hand-over of V it takes the application events not beyond the high-water mark one after another, each as AppTaken says,
in the order of 05 R82: by firing position, then by nominal position, then by channel number; none is left, and where none
has fired, nothing happens. That fired events wait at all, and the order of events of different positions that wait together,
is the model's choice (log entry 3, DESIGN CHOICE). -/
def Obligations.FiredEventsTaken : Prop :=
 (∀ s : State, s.resetHeld = false → Relation.ReflTransGen FiredTaken s (settle s) ∧
    (∀ c x u, ¬ HasFired (settle s) c x u) ∧ ((∀ c x u, ¬ HasFired s c x u) → settle s = s)) ∧
 (∀ s : State, s.resetHeld = false → Relation.ReflTransGen AppTaken s (takeFiredApps s) ∧
    (∀ e, e ∈ (takeFiredApps s).pos.schedule → isAppEvent e.event = true → 0 < posDist s.pos.hwm e.pos) ∧
    ((∀ e, e ∈ s.pos.schedule → isAppEvent e.event = true → 0 < posDist s.pos.hwm e.pos) → takeFiredApps s = s)) ∧
 (∀ (q : U32) (k : Fin 12) (i d : Nat), eventChannel (.appOn q k i d) = k.val ∧ eventChannel (.appOff q k i d) = k.val)

/-- Over every step the records that stay keep their order, sequence number, cut pitch, tag, slot, verdict and error; none goes
back from COMMITTED to OPEN, their defect, applied and suppressed sets only grow, and no value present becomes absent. Records
that join do so behind them, each under one of the sequence numbers next to be given, at most one for each feed event that had
fired (03 R40, R43, R45 to R48). -/
def Obligations.RecordsGrow : Prop :=
  ∀ s t : State, step s = .next t → ∃ kept grown new : List Record, kept.Sublist s.track.records ∧
    t.track.records = grown ++ new ∧ List.Forall₂ Grown kept grown ∧
    new.length ≤ (firedFeeds s).length ∧
    ∀ x, x ∈ new → ∃ i, i < (firedFeeds s).length ∧ x.seq = s.track.nextSeq + BitVec.ofNat 32 i

/-! ## Laws of the device -/

/-- At reset the law of reference counts holds with every count 0, no order is ACTIVE, IDLE has an empty Transit List, and trim,
queues, logs, counts and held states lie within their bounds, and waiting + K is at most 4. The laws of the orders' counts, of
the open box and its identity, of the replay, of the rising cut pitches, of the runs of the list and of its pending events hold
with no order, no box, no record and no event, and the register source is none with the register state OFF and no window open
(02 R38, 07 R134, 03 R43 and R56, 04 R57, 08 R135, 10 R169, 01 R9 and R19). -/
def Obligations.LawsHoldAtReset : Prop :=
  ∀ pins : ResetPins, RefsHold (State.resetWith pins) ∧ (∀ k : Fin 8, (slotOf (State.resetWith pins) k).refs = 0) ∧
    SeqsFit (State.resetWith pins) ∧
    OneActive (State.resetWith pins) ∧ RunFits (State.resetWith pins) ∧ TrimFits (State.resetWith pins) ∧
    Fits (State.resetWith pins) ∧ HeldFits (State.resetWith pins) ∧ Room (State.resetWith pins) ∧
    ProjectionHolds (State.resetWith pins) ∧ CommittedFirst (State.resetWith pins) ∧ IdsFit (State.resetWith pins) ∧
    RunsUnbroken (State.resetWith pins) ∧ TableFits (State.resetWith pins) ∧ EventsStand (State.resetWith pins) ∧
    FiredAtMark (State.resetWith pins) ∧ SourceFits (State.resetWith pins) ∧
    Owned (State.resetWith pins) ∧ OrdersFit (State.resetWith pins) ∧ BoxFits (State.resetWith pins) ∧
    PitchesRise (State.resetWith pins)

/-- Counter conservation holds at reset, and every step keeps it, modulo 2^32, against the length of the Transit List (10
R164). -/
def Obligations.CounterConservation : Prop :=
  (∀ pins : ResetPins, Conserved (State.resetWith pins)) ∧
  (∀ s t : State, Conserved s → step s = .next t → Conserved t)

/-- Where the records' sequence numbers rise along the list up to the next one, as 03 R43 gives them, and no record is so old
that those which the step may create come round to it, every step keeps the law of reference counts: each slot's count is the
number of orders and records naming it, and a slot with a count above 0 is USABLE (02 R38). The order of the sequence numbers
is kept too. -/
def Obligations.StepRefs : Prop :=
  ∀ s t : State, RefsHold s → SeqsFit s → (∀ r, r ∈ s.track.records → ageOf s r + s.pos.due.length < 4294967296) →
    step s = .next t → RefsHold t ∧ SeqsFit t

/-- Every step keeps at most one order ACTIVE, one exactly in FEEDING, and no two orders of one tag (07 R114, R119, R120); and
with these it keeps every record's order in the list and past QUEUED (07 R130). Where those laws, that of reference counts and
the order of sequence numbers hold, every step keeps delivered + committed at most Q (08 R139) and delivered + committed +
hopeful at most Q + S (07 R127) for every order, where each delivery that it carries out finds its record COMMITTED, as 03 R52
gives: the one commanded, the one that the part takes with no command waiting, and those that it takes first before a command.
With the law of reference counts and one ACTIVE order every step keeps the register source that of the ACTIVE order, else of the
next order, else none, and the register state OFF exactly where no section is in force, no window being open then (04 R58, R59,
R63). -/
def Obligations.StepOneActive : Prop :=
  (∀ s t : State, OneActive s → step s = .next t → OneActive t) ∧
  (∀ s t : State, OneActive s → Owned s → step s = .next t → Owned t) ∧
  (∀ s t : State, OneActive s → Owned s → RefsHold s → SeqsFit s →
    (∀ r, r ∈ s.track.records → ageOf s r + s.pos.due.length < 4294967296) → OrdersFit s →
    (∀ d v r, Carries s (.deliveryEvent d) v → findRecord v d = some r → r.stage = .committed) →
    step s = .next t → OrdersFit t) ∧
  (∀ s t : State, SourceFits s → RefsHold s → OneActive s → step s = .next t → SourceFits t)

/-- Every step keeps the Transit List empty in IDLE and not empty in DRAINING (09 R153, R154); keeps the trim within ±1800, and
every slot's trim limit within 1800 (04 R66, 02 R29); and keeps the capacities and ranges of queue, log, order list, cam lists,
countdown, reverse depth, speed, leads and loss counts, and held states to HALTED alone, where every CHANNEL and MANUAL line has
one (10 R169, 08 R147, 07 R114 and R133, 02 R28, 01 R6, R12 and R18, 05 R80, 06 R102). Every command but a delivery keeps
waiting + K at most 4 (08 R141): a CLOSE_BOX where K is that of the replay and no box holds B, and a command before which the
part takes what has fired where nothing has fired; ReplayKept has the same of every step. Every step keeps the open box below
its B (08 R142). A recurring event that has fired waits only at reverse depth 0, and every step keeps this; with it, an empty
list in IDLE and no pitch too old to be told from one to come, every step keeps the cut pitches strictly rising along the
Transit List (03 R44), on through the feed events that wait. -/
def Obligations.StepFits : Prop :=
  (∀ s t : State, RunFits s → step s = .next t → RunFits t) ∧
  (∀ s t : State, TrimFits s → step s = .next t → TrimFits t) ∧
  (∀ s t : State, Fits s ∧ HeldFits s → step s = .next t → Fits t ∧ HeldFits t) ∧
  (∀ (s t : State) (c : Instr) (q : List Instr), s.pending = c :: q → Room s → (∀ d, c ≠ .deliveryEvent d) →
    (SettlesFirst c → ∀ d x u, ¬ HasFired s d x u) →
    (∀ a, c = .closeBox a → s.deliv.committedCloses = (replay s).1 ∧ (s.orders.list.map Order.id).Nodup ∧
      ∀ b o, s.deliv.openBox = some b → o ∈ s.orders.list → o.id = b.order → b.count < o.boxQuantity) →
    step s = .next t → Room t) ∧
  (∀ s t : State, BoxFits s → step s = .next t → BoxFits t) ∧
  (∀ s t : State, FiredAtMark s → step s = .next t → FiredAtMark t) ∧
  (∀ s t : State, PitchesRise s → RunFits s → FiredAtMark s →
    (∀ p, p ∈ s.track.records.map Record.cutPitch ++ firedFeeds s → pitchAge s p < 2147483647) →
    step s = .next t → PitchesRise t)

/-- Every step keeps K and the projected box those of the replay (08 R140) and the COMMITTED records ahead of the OPEN ones
(03 R51), where the events that it carries out come in turn: a gate event at the oldest OPEN record, a delivery event at the
head, COMMITTED, and a LOST judgement on an OPEN record (03 R51 to R53); and then waiting + K stays at most 4 over every step,
where the open box lies below its B (08 R141, R142). The identities of orders and of the open box, which the replay tells them
apart by, are kept by every step; they are the model's choice (log entry 19). EventsKeepTheirTurn says that events come in
turn. -/
def Obligations.ReplayKept : Prop :=
  (∀ s t : State, IdsFit s → step s = .next t → IdsFit t) ∧
  (∀ s t : State, ProjectionHolds s → CommittedFirst s → IdsFit s → SeqsFit s →
    (∀ r, r ∈ s.track.records → ageOf s r + s.pos.due.length < 4294967296) → OneActive s → Owned s →
    (∀ c v, Carries s c v → InTurn v c) → step s = .next t →
    ProjectionHolds t ∧ CommittedFirst t ∧ (Room s → BoxFits s → Room t))

/-- Every step keeps the records of each order one unbroken run and those of the ACTIVE order at the tail (03 R44, second law).
Every step keeps the table in force one that passes the apply check wherever the line is not IDLE, and with it the law of
pending events: each record is at most D pitches old and has its delivery event pending, not yet passed, an OPEN one its gate
event too, a COMMITTED one has come to its gate, and no other gate or delivery event is pending (03 R44, R51, R52; 08 R136).
From these laws and rising cut pitches the list holds at most 31 records (R44), and every event that a step carries out comes
in turn: a gate event at the oldest OPEN record, a delivery event at the head, COMMITTED, and a LOST judgement on an OPEN
record (R51 to R53). -/
def Obligations.EventsKeepTheirTurn : Prop :=
  (∀ s t : State, RunsUnbroken s → OneActive s → Owned s → step s = .next t → RunsUnbroken t) ∧
  (∀ s t : State, TableFits s → EventsStand s → RunFits s → SeqsFit s →
    (∀ r, r ∈ s.track.records → ageOf s r + s.pos.due.length < 4294967296) → OneActive s → Owned s →
    step s = .next t → TableFits t ∧ EventsStand t) ∧
  (∀ s : State, PitchesRise s → EventsStand s → TableFits s → RunFits s → s.track.records.length ≤ 31) ∧
  (∀ (s v : State) (c : Instr), TableFits s → EventsStand s → PitchesRise s → RunFits s → SeqsFit s →
    (∀ r, r ∈ s.track.records → ageOf s r + s.pos.due.length < 4294967296) → OneActive s → Owned s →
    Carries s c v → InTurn v c)
end

