-- ==== Sys2Proof/Laws/State.lean ====
section
/-! SUPPORT. What each plain change of the state does to each field, so that no later proof unfolds a record update.
Every lemma holds by definition. -/

namespace Sys2Proof.Machine

variable (s : State)

/-! ### schedule -/

@[simp] theorem schedule_pos (e : Pending) : (schedule e s).pos =
    { s.pos with schedule := s.pos.schedule ++ [e] } := rfl
@[simp] theorem schedule_lines (e : Pending) : (schedule e s).lines = s.lines := rfl
@[simp] theorem schedule_store (e : Pending) : (schedule e s).store = s.store := rfl
@[simp] theorem schedule_track (e : Pending) : (schedule e s).track = s.track := rfl
@[simp] theorem schedule_reg (e : Pending) : (schedule e s).reg = s.reg := rfl
@[simp] theorem schedule_app (e : Pending) : (schedule e s).app = s.app := rfl
@[simp] theorem schedule_insp (e : Pending) : (schedule e s).insp = s.insp := rfl
@[simp] theorem schedule_orders (e : Pending) : (schedule e s).orders = s.orders := rfl
@[simp] theorem schedule_deliv (e : Pending) : (schedule e s).deliv = s.deliv := rfl
@[simp] theorem schedule_line (e : Pending) : (schedule e s).line = s.line := rfl
@[simp] theorem schedule_counters (e : Pending) : (schedule e s).counters = s.counters := rfl
@[simp] theorem schedule_notices (e : Pending) : (schedule e s).notices = s.notices := rfl
@[simp] theorem schedule_mgmt (e : Pending) : (schedule e s).mgmt = s.mgmt := rfl
@[simp] theorem schedule_ring (e : Pending) : (schedule e s).ring = s.ring := rfl
@[simp] theorem schedule_resetHeld (e : Pending) : (schedule e s).resetHeld = s.resetHeld := rfl
@[simp] theorem schedule_reply (e : Pending) : (schedule e s).reply = s.reply := rfl
@[simp] theorem schedule_freeIndex (e : Pending) : (schedule e s).freeIndex = s.freeIndex := rfl
@[simp] theorem schedule_pending (e : Pending) : (schedule e s).pending = s.pending := rfl

/-! ### withdraw -/

@[simp] theorem withdraw_pos (p : Scheduled → Bool) : (withdraw p s).pos =
    { s.pos with schedule := s.pos.schedule.filter (fun e => !p e.event) } := rfl
@[simp] theorem withdraw_lines (p : Scheduled → Bool) : (withdraw p s).lines = s.lines := rfl
@[simp] theorem withdraw_store (p : Scheduled → Bool) : (withdraw p s).store = s.store := rfl
@[simp] theorem withdraw_track (p : Scheduled → Bool) : (withdraw p s).track = s.track := rfl
@[simp] theorem withdraw_reg (p : Scheduled → Bool) : (withdraw p s).reg = s.reg := rfl
@[simp] theorem withdraw_app (p : Scheduled → Bool) : (withdraw p s).app = s.app := rfl
@[simp] theorem withdraw_insp (p : Scheduled → Bool) : (withdraw p s).insp = s.insp := rfl
@[simp] theorem withdraw_orders (p : Scheduled → Bool) : (withdraw p s).orders = s.orders := rfl
@[simp] theorem withdraw_deliv (p : Scheduled → Bool) : (withdraw p s).deliv = s.deliv := rfl
@[simp] theorem withdraw_line (p : Scheduled → Bool) : (withdraw p s).line = s.line := rfl
@[simp] theorem withdraw_counters (p : Scheduled → Bool) : (withdraw p s).counters = s.counters := rfl
@[simp] theorem withdraw_notices (p : Scheduled → Bool) : (withdraw p s).notices = s.notices := rfl
@[simp] theorem withdraw_mgmt (p : Scheduled → Bool) : (withdraw p s).mgmt = s.mgmt := rfl
@[simp] theorem withdraw_ring (p : Scheduled → Bool) : (withdraw p s).ring = s.ring := rfl
@[simp] theorem withdraw_resetHeld (p : Scheduled → Bool) : (withdraw p s).resetHeld = s.resetHeld := rfl
@[simp] theorem withdraw_reply (p : Scheduled → Bool) : (withdraw p s).reply = s.reply := rfl
@[simp] theorem withdraw_freeIndex (p : Scheduled → Bool) : (withdraw p s).freeIndex = s.freeIndex := rfl
@[simp] theorem withdraw_pending (p : Scheduled → Bool) : (withdraw p s).pending = s.pending := rfl

/-! ### dropFired -/

@[simp] theorem dropFired_pos (p : Recurring → Bool) : (dropFired p s).pos =
    { s.pos with due := s.pos.due.filter (fun q => !p q.event) } := rfl
@[simp] theorem dropFired_lines (p : Recurring → Bool) : (dropFired p s).lines = s.lines := rfl
@[simp] theorem dropFired_store (p : Recurring → Bool) : (dropFired p s).store = s.store := rfl
@[simp] theorem dropFired_track (p : Recurring → Bool) : (dropFired p s).track = s.track := rfl
@[simp] theorem dropFired_reg (p : Recurring → Bool) : (dropFired p s).reg = s.reg := rfl
@[simp] theorem dropFired_app (p : Recurring → Bool) : (dropFired p s).app = s.app := rfl
@[simp] theorem dropFired_insp (p : Recurring → Bool) : (dropFired p s).insp = s.insp := rfl
@[simp] theorem dropFired_orders (p : Recurring → Bool) : (dropFired p s).orders = s.orders := rfl
@[simp] theorem dropFired_deliv (p : Recurring → Bool) : (dropFired p s).deliv = s.deliv := rfl
@[simp] theorem dropFired_line (p : Recurring → Bool) : (dropFired p s).line = s.line := rfl
@[simp] theorem dropFired_counters (p : Recurring → Bool) : (dropFired p s).counters = s.counters := rfl
@[simp] theorem dropFired_notices (p : Recurring → Bool) : (dropFired p s).notices = s.notices := rfl
@[simp] theorem dropFired_mgmt (p : Recurring → Bool) : (dropFired p s).mgmt = s.mgmt := rfl
@[simp] theorem dropFired_ring (p : Recurring → Bool) : (dropFired p s).ring = s.ring := rfl
@[simp] theorem dropFired_resetHeld (p : Recurring → Bool) : (dropFired p s).resetHeld = s.resetHeld := rfl
@[simp] theorem dropFired_reply (p : Recurring → Bool) : (dropFired p s).reply = s.reply := rfl
@[simp] theorem dropFired_freeIndex (p : Recurring → Bool) : (dropFired p s).freeIndex = s.freeIndex := rfl
@[simp] theorem dropFired_pending (p : Recurring → Bool) : (dropFired p s).pending = s.pending := rfl

/-! ### rebase -/

@[simp] theorem rebase_pos : (rebase s).pos = { s.pos with hwm := currentPos s, depth := 0 } := rfl
@[simp] theorem rebase_lines : (rebase s).lines = s.lines := rfl
@[simp] theorem rebase_store : (rebase s).store = s.store := rfl
@[simp] theorem rebase_track : (rebase s).track = s.track := rfl
@[simp] theorem rebase_reg : (rebase s).reg = s.reg := rfl
@[simp] theorem rebase_app : (rebase s).app = s.app := rfl
@[simp] theorem rebase_insp : (rebase s).insp = s.insp := rfl
@[simp] theorem rebase_orders : (rebase s).orders = s.orders := rfl
@[simp] theorem rebase_deliv : (rebase s).deliv = s.deliv := rfl
@[simp] theorem rebase_line : (rebase s).line = s.line := rfl
@[simp] theorem rebase_counters : (rebase s).counters = s.counters := rfl
@[simp] theorem rebase_notices : (rebase s).notices = s.notices := rfl
@[simp] theorem rebase_mgmt : (rebase s).mgmt = s.mgmt := rfl
@[simp] theorem rebase_ring : (rebase s).ring = s.ring := rfl
@[simp] theorem rebase_resetHeld : (rebase s).resetHeld = s.resetHeld := rfl
@[simp] theorem rebase_reply : (rebase s).reply = s.reply := rfl
@[simp] theorem rebase_freeIndex : (rebase s).freeIndex = s.freeIndex := rfl
@[simp] theorem rebase_pending : (rebase s).pending = s.pending := rfl

/-! ### count -/

@[simp] theorem count_pos (c : Counter) : (count c s).pos = s.pos := rfl
@[simp] theorem count_lines (c : Counter) : (count c s).lines = s.lines := rfl
@[simp] theorem count_store (c : Counter) : (count c s).store = s.store := rfl
@[simp] theorem count_track (c : Counter) : (count c s).track = s.track := rfl
@[simp] theorem count_reg (c : Counter) : (count c s).reg = s.reg := rfl
@[simp] theorem count_app (c : Counter) : (count c s).app = s.app := rfl
@[simp] theorem count_insp (c : Counter) : (count c s).insp = s.insp := rfl
@[simp] theorem count_orders (c : Counter) : (count c s).orders = s.orders := rfl
@[simp] theorem count_deliv (c : Counter) : (count c s).deliv = s.deliv := rfl
@[simp] theorem count_line (c : Counter) : (count c s).line = s.line := rfl
@[simp] theorem count_counters (c : Counter) : (count c s).counters =
    { s.counters with live := put s.counters.live (counterIdx c) (counter s c + 1#32) } := rfl
@[simp] theorem count_notices (c : Counter) : (count c s).notices = s.notices := rfl
@[simp] theorem count_mgmt (c : Counter) : (count c s).mgmt = s.mgmt := rfl
@[simp] theorem count_ring (c : Counter) : (count c s).ring = s.ring := rfl
@[simp] theorem count_resetHeld (c : Counter) : (count c s).resetHeld = s.resetHeld := rfl
@[simp] theorem count_reply (c : Counter) : (count c s).reply = s.reply := rfl
@[simp] theorem count_freeIndex (c : Counter) : (count c s).freeIndex = s.freeIndex := rfl
@[simp] theorem count_pending (c : Counter) : (count c s).pending = s.pending := rfl

/-! ### modifySlot -/

@[simp] theorem modifySlot_pos (k : Fin 8) (f : Slot → Slot) : (modifySlot k f s).pos = s.pos := rfl
@[simp] theorem modifySlot_lines (k : Fin 8) (f : Slot → Slot) : (modifySlot k f s).lines = s.lines := rfl
@[simp] theorem modifySlot_store (k : Fin 8) (f : Slot → Slot) : (modifySlot k f s).store =
    { s.store with slots := put s.store.slots k (f (getAt s.store.slots k)) } := rfl
@[simp] theorem modifySlot_track (k : Fin 8) (f : Slot → Slot) : (modifySlot k f s).track = s.track := rfl
@[simp] theorem modifySlot_reg (k : Fin 8) (f : Slot → Slot) : (modifySlot k f s).reg = s.reg := rfl
@[simp] theorem modifySlot_app (k : Fin 8) (f : Slot → Slot) : (modifySlot k f s).app = s.app := rfl
@[simp] theorem modifySlot_insp (k : Fin 8) (f : Slot → Slot) : (modifySlot k f s).insp = s.insp := rfl
@[simp] theorem modifySlot_orders (k : Fin 8) (f : Slot → Slot) : (modifySlot k f s).orders = s.orders := rfl
@[simp] theorem modifySlot_deliv (k : Fin 8) (f : Slot → Slot) : (modifySlot k f s).deliv = s.deliv := rfl
@[simp] theorem modifySlot_line (k : Fin 8) (f : Slot → Slot) : (modifySlot k f s).line = s.line := rfl
@[simp] theorem modifySlot_counters (k : Fin 8) (f : Slot → Slot) : (modifySlot k f s).counters = s.counters := rfl
@[simp] theorem modifySlot_notices (k : Fin 8) (f : Slot → Slot) : (modifySlot k f s).notices = s.notices := rfl
@[simp] theorem modifySlot_mgmt (k : Fin 8) (f : Slot → Slot) : (modifySlot k f s).mgmt = s.mgmt := rfl
@[simp] theorem modifySlot_ring (k : Fin 8) (f : Slot → Slot) : (modifySlot k f s).ring = s.ring := rfl
@[simp] theorem modifySlot_resetHeld (k : Fin 8) (f : Slot → Slot) : (modifySlot k f s).resetHeld = s.resetHeld := rfl
@[simp] theorem modifySlot_reply (k : Fin 8) (f : Slot → Slot) : (modifySlot k f s).reply = s.reply := rfl
@[simp] theorem modifySlot_freeIndex (k : Fin 8) (f : Slot → Slot) : (modifySlot k f s).freeIndex = s.freeIndex := rfl
@[simp] theorem modifySlot_pending (k : Fin 8) (f : Slot → Slot) : (modifySlot k f s).pending = s.pending := rfl

/-! ### refUp -/

@[simp] theorem refUp_pos (k : Fin 8) : (refUp k s).pos = s.pos := rfl
@[simp] theorem refUp_lines (k : Fin 8) : (refUp k s).lines = s.lines := rfl
@[simp] theorem refUp_store (k : Fin 8) : (refUp k s).store =
    (modifySlot k (fun x => { x with refs := x.refs + 1 }) s).store := rfl
@[simp] theorem refUp_track (k : Fin 8) : (refUp k s).track = s.track := rfl
@[simp] theorem refUp_reg (k : Fin 8) : (refUp k s).reg = s.reg := rfl
@[simp] theorem refUp_app (k : Fin 8) : (refUp k s).app = s.app := rfl
@[simp] theorem refUp_insp (k : Fin 8) : (refUp k s).insp = s.insp := rfl
@[simp] theorem refUp_orders (k : Fin 8) : (refUp k s).orders = s.orders := rfl
@[simp] theorem refUp_deliv (k : Fin 8) : (refUp k s).deliv = s.deliv := rfl
@[simp] theorem refUp_line (k : Fin 8) : (refUp k s).line = s.line := rfl
@[simp] theorem refUp_counters (k : Fin 8) : (refUp k s).counters = s.counters := rfl
@[simp] theorem refUp_notices (k : Fin 8) : (refUp k s).notices = s.notices := rfl
@[simp] theorem refUp_mgmt (k : Fin 8) : (refUp k s).mgmt = s.mgmt := rfl
@[simp] theorem refUp_ring (k : Fin 8) : (refUp k s).ring = s.ring := rfl
@[simp] theorem refUp_resetHeld (k : Fin 8) : (refUp k s).resetHeld = s.resetHeld := rfl
@[simp] theorem refUp_reply (k : Fin 8) : (refUp k s).reply = s.reply := rfl
@[simp] theorem refUp_freeIndex (k : Fin 8) : (refUp k s).freeIndex = s.freeIndex := rfl
@[simp] theorem refUp_pending (k : Fin 8) : (refUp k s).pending = s.pending := rfl

/-! ### refDown -/

@[simp] theorem refDown_pos (k : Fin 8) : (refDown k s).pos = s.pos := rfl
@[simp] theorem refDown_lines (k : Fin 8) : (refDown k s).lines = s.lines := rfl
@[simp] theorem refDown_store (k : Fin 8) : (refDown k s).store =
    (modifySlot k (fun x => { x with refs := x.refs - 1 }) s).store := rfl
@[simp] theorem refDown_track (k : Fin 8) : (refDown k s).track = s.track := rfl
@[simp] theorem refDown_reg (k : Fin 8) : (refDown k s).reg = s.reg := rfl
@[simp] theorem refDown_app (k : Fin 8) : (refDown k s).app = s.app := rfl
@[simp] theorem refDown_insp (k : Fin 8) : (refDown k s).insp = s.insp := rfl
@[simp] theorem refDown_orders (k : Fin 8) : (refDown k s).orders = s.orders := rfl
@[simp] theorem refDown_deliv (k : Fin 8) : (refDown k s).deliv = s.deliv := rfl
@[simp] theorem refDown_line (k : Fin 8) : (refDown k s).line = s.line := rfl
@[simp] theorem refDown_counters (k : Fin 8) : (refDown k s).counters = s.counters := rfl
@[simp] theorem refDown_notices (k : Fin 8) : (refDown k s).notices = s.notices := rfl
@[simp] theorem refDown_mgmt (k : Fin 8) : (refDown k s).mgmt = s.mgmt := rfl
@[simp] theorem refDown_ring (k : Fin 8) : (refDown k s).ring = s.ring := rfl
@[simp] theorem refDown_resetHeld (k : Fin 8) : (refDown k s).resetHeld = s.resetHeld := rfl
@[simp] theorem refDown_reply (k : Fin 8) : (refDown k s).reply = s.reply := rfl
@[simp] theorem refDown_freeIndex (k : Fin 8) : (refDown k s).freeIndex = s.freeIndex := rfl
@[simp] theorem refDown_pending (k : Fin 8) : (refDown k s).pending = s.pending := rfl

/-! ### amendRecord -/

@[simp] theorem amendRecord_pos (q : U32) (f : Record → Record) : (amendRecord q f s).pos = s.pos := rfl
@[simp] theorem amendRecord_lines (q : U32) (f : Record → Record) : (amendRecord q f s).lines = s.lines := rfl
@[simp] theorem amendRecord_store (q : U32) (f : Record → Record) : (amendRecord q f s).store = s.store := rfl
@[simp] theorem amendRecord_track (q : U32) (f : Record → Record) : (amendRecord q f s).track =
    { s.track with records := s.track.records.map (fun r => if r.seq == q then f r else r) } := rfl
@[simp] theorem amendRecord_reg (q : U32) (f : Record → Record) : (amendRecord q f s).reg = s.reg := rfl
@[simp] theorem amendRecord_app (q : U32) (f : Record → Record) : (amendRecord q f s).app = s.app := rfl
@[simp] theorem amendRecord_insp (q : U32) (f : Record → Record) : (amendRecord q f s).insp = s.insp := rfl
@[simp] theorem amendRecord_orders (q : U32) (f : Record → Record) : (amendRecord q f s).orders = s.orders := rfl
@[simp] theorem amendRecord_deliv (q : U32) (f : Record → Record) : (amendRecord q f s).deliv = s.deliv := rfl
@[simp] theorem amendRecord_line (q : U32) (f : Record → Record) : (amendRecord q f s).line = s.line := rfl
@[simp] theorem amendRecord_counters (q : U32) (f : Record → Record) : (amendRecord q f s).counters =
    s.counters := rfl
@[simp] theorem amendRecord_notices (q : U32) (f : Record → Record) : (amendRecord q f s).notices = s.notices := rfl
@[simp] theorem amendRecord_mgmt (q : U32) (f : Record → Record) : (amendRecord q f s).mgmt = s.mgmt := rfl
@[simp] theorem amendRecord_ring (q : U32) (f : Record → Record) : (amendRecord q f s).ring = s.ring := rfl
@[simp] theorem amendRecord_resetHeld (q : U32) (f : Record → Record) : (amendRecord q f s).resetHeld =
    s.resetHeld := rfl
@[simp] theorem amendRecord_reply (q : U32) (f : Record → Record) : (amendRecord q f s).reply = s.reply := rfl
@[simp] theorem amendRecord_freeIndex (q : U32) (f : Record → Record) : (amendRecord q f s).freeIndex =
    s.freeIndex := rfl
@[simp] theorem amendRecord_pending (q : U32) (f : Record → Record) : (amendRecord q f s).pending = s.pending := rfl

/-! ### modifyOrder -/

@[simp] theorem modifyOrder_pos (t : Nat) (f : Order → Order) : (modifyOrder t f s).pos = s.pos := rfl
@[simp] theorem modifyOrder_lines (t : Nat) (f : Order → Order) : (modifyOrder t f s).lines = s.lines := rfl
@[simp] theorem modifyOrder_store (t : Nat) (f : Order → Order) : (modifyOrder t f s).store = s.store := rfl
@[simp] theorem modifyOrder_track (t : Nat) (f : Order → Order) : (modifyOrder t f s).track = s.track := rfl
@[simp] theorem modifyOrder_reg (t : Nat) (f : Order → Order) : (modifyOrder t f s).reg = s.reg := rfl
@[simp] theorem modifyOrder_app (t : Nat) (f : Order → Order) : (modifyOrder t f s).app = s.app := rfl
@[simp] theorem modifyOrder_insp (t : Nat) (f : Order → Order) : (modifyOrder t f s).insp = s.insp := rfl
@[simp] theorem modifyOrder_orders (t : Nat) (f : Order → Order) : (modifyOrder t f s).orders =
    { s.orders with list := s.orders.list.map (fun o => if o.tag == t then f o else o) } := rfl
@[simp] theorem modifyOrder_deliv (t : Nat) (f : Order → Order) : (modifyOrder t f s).deliv = s.deliv := rfl
@[simp] theorem modifyOrder_line (t : Nat) (f : Order → Order) : (modifyOrder t f s).line = s.line := rfl
@[simp] theorem modifyOrder_counters (t : Nat) (f : Order → Order) : (modifyOrder t f s).counters = s.counters := rfl
@[simp] theorem modifyOrder_notices (t : Nat) (f : Order → Order) : (modifyOrder t f s).notices = s.notices := rfl
@[simp] theorem modifyOrder_mgmt (t : Nat) (f : Order → Order) : (modifyOrder t f s).mgmt = s.mgmt := rfl
@[simp] theorem modifyOrder_ring (t : Nat) (f : Order → Order) : (modifyOrder t f s).ring = s.ring := rfl
@[simp] theorem modifyOrder_resetHeld (t : Nat) (f : Order → Order) : (modifyOrder t f s).resetHeld =
    s.resetHeld := rfl
@[simp] theorem modifyOrder_reply (t : Nat) (f : Order → Order) : (modifyOrder t f s).reply = s.reply := rfl
@[simp] theorem modifyOrder_freeIndex (t : Nat) (f : Order → Order) : (modifyOrder t f s).freeIndex =
    s.freeIndex := rfl
@[simp] theorem modifyOrder_pending (t : Nat) (f : Order → Order) : (modifyOrder t f s).pending = s.pending := rfl

/-! ### setHeld -/

@[simp] theorem setHeld_pos (h : Fin 16 → Option Bool) : (setHeld h s).pos = s.pos := by unfold setHeld; rfl
theorem setHeld_lines (h : Fin 16 → Option Bool) : (setHeld h s).lines =
    { s.lines with outs := (setHeld h s).lines.outs } := by unfold setHeld; rfl
@[simp] theorem setHeld_store (h : Fin 16 → Option Bool) : (setHeld h s).store = s.store := by unfold setHeld; rfl
@[simp] theorem setHeld_track (h : Fin 16 → Option Bool) : (setHeld h s).track = s.track := by unfold setHeld; rfl
@[simp] theorem setHeld_reg (h : Fin 16 → Option Bool) : (setHeld h s).reg = s.reg := by unfold setHeld; rfl
@[simp] theorem setHeld_app (h : Fin 16 → Option Bool) : (setHeld h s).app = s.app := by unfold setHeld; rfl
@[simp] theorem setHeld_insp (h : Fin 16 → Option Bool) : (setHeld h s).insp = s.insp := by unfold setHeld; rfl
@[simp] theorem setHeld_orders (h : Fin 16 → Option Bool) : (setHeld h s).orders = s.orders := by unfold setHeld; rfl
@[simp] theorem setHeld_deliv (h : Fin 16 → Option Bool) : (setHeld h s).deliv = s.deliv := by unfold setHeld; rfl
@[simp] theorem setHeld_line (h : Fin 16 → Option Bool) : (setHeld h s).line = s.line := by unfold setHeld; rfl
@[simp] theorem setHeld_counters (h : Fin 16 → Option Bool) : (setHeld h s).counters =
    s.counters := by unfold setHeld; rfl
@[simp] theorem setHeld_notices (h : Fin 16 → Option Bool) : (setHeld h s).notices =
    s.notices := by unfold setHeld; rfl
@[simp] theorem setHeld_mgmt (h : Fin 16 → Option Bool) : (setHeld h s).mgmt = s.mgmt := by unfold setHeld; rfl
@[simp] theorem setHeld_ring (h : Fin 16 → Option Bool) : (setHeld h s).ring = s.ring := by unfold setHeld; rfl
@[simp] theorem setHeld_resetHeld (h : Fin 16 → Option Bool) : (setHeld h s).resetHeld =
    s.resetHeld := by unfold setHeld; rfl
@[simp] theorem setHeld_reply (h : Fin 16 → Option Bool) : (setHeld h s).reply = s.reply := by unfold setHeld; rfl
@[simp] theorem setHeld_freeIndex (h : Fin 16 → Option Bool) : (setHeld h s).freeIndex =
    s.freeIndex := by unfold setHeld; rfl
@[simp] theorem setHeld_pending (h : Fin 16 → Option Bool) : (setHeld h s).pending =
    s.pending := by unfold setHeld; rfl

/-! ### setRun -/

@[simp] theorem setRun_pos (r : RunState) : (setRun r s).pos = s.pos := rfl
@[simp] theorem setRun_lines (r : RunState) : (setRun r s).lines = s.lines := rfl
@[simp] theorem setRun_store (r : RunState) : (setRun r s).store = s.store := rfl
@[simp] theorem setRun_track (r : RunState) : (setRun r s).track = s.track := rfl
@[simp] theorem setRun_reg (r : RunState) : (setRun r s).reg = s.reg := rfl
@[simp] theorem setRun_app (r : RunState) : (setRun r s).app = s.app := rfl
@[simp] theorem setRun_insp (r : RunState) : (setRun r s).insp = s.insp := rfl
@[simp] theorem setRun_orders (r : RunState) : (setRun r s).orders = s.orders := rfl
@[simp] theorem setRun_deliv (r : RunState) : (setRun r s).deliv = s.deliv := rfl
@[simp] theorem setRun_line (r : RunState) : (setRun r s).line = { s.line with run := r } := rfl
@[simp] theorem setRun_counters (r : RunState) : (setRun r s).counters = s.counters := rfl
@[simp] theorem setRun_notices (r : RunState) : (setRun r s).notices = s.notices := rfl
@[simp] theorem setRun_mgmt (r : RunState) : (setRun r s).mgmt = s.mgmt := rfl
@[simp] theorem setRun_ring (r : RunState) : (setRun r s).ring = s.ring := rfl
@[simp] theorem setRun_resetHeld (r : RunState) : (setRun r s).resetHeld = s.resetHeld := rfl
@[simp] theorem setRun_reply (r : RunState) : (setRun r s).reply = s.reply := rfl
@[simp] theorem setRun_freeIndex (r : RunState) : (setRun r s).freeIndex = s.freeIndex := rfl
@[simp] theorem setRun_pending (r : RunState) : (setRun r s).pending = s.pending := rfl

/-! ### enterHalted -/

@[simp] theorem enterHalted_pos : (enterHalted s).pos = s.pos := by unfold enterHalted; simp
theorem enterHalted_lines : (enterHalted s).lines =
    { s.lines with outs := (enterHalted s).lines.outs } := by unfold enterHalted; rw [setRun_lines]; exact setHeld_lines _ _
@[simp] theorem enterHalted_store : (enterHalted s).store = s.store := by unfold enterHalted; simp
@[simp] theorem enterHalted_track : (enterHalted s).track = s.track := by unfold enterHalted; simp
@[simp] theorem enterHalted_reg : (enterHalted s).reg = s.reg := by unfold enterHalted; simp
@[simp] theorem enterHalted_app : (enterHalted s).app = s.app := by unfold enterHalted; simp
@[simp] theorem enterHalted_insp : (enterHalted s).insp = s.insp := by unfold enterHalted; simp
@[simp] theorem enterHalted_orders : (enterHalted s).orders = s.orders := by unfold enterHalted; simp
@[simp] theorem enterHalted_deliv : (enterHalted s).deliv = s.deliv := by unfold enterHalted; simp
@[simp] theorem enterHalted_line : (enterHalted s).line =
    { s.line with run := .halted } := by unfold enterHalted; simp
@[simp] theorem enterHalted_counters : (enterHalted s).counters = s.counters := by unfold enterHalted; simp
@[simp] theorem enterHalted_notices : (enterHalted s).notices = s.notices := by unfold enterHalted; simp
@[simp] theorem enterHalted_mgmt : (enterHalted s).mgmt = s.mgmt := by unfold enterHalted; simp
@[simp] theorem enterHalted_ring : (enterHalted s).ring = s.ring := by unfold enterHalted; simp
@[simp] theorem enterHalted_resetHeld : (enterHalted s).resetHeld = s.resetHeld := by unfold enterHalted; simp
@[simp] theorem enterHalted_reply : (enterHalted s).reply = s.reply := by unfold enterHalted; simp
@[simp] theorem enterHalted_freeIndex : (enterHalted s).freeIndex = s.freeIndex := by unfold enterHalted; simp
@[simp] theorem enterHalted_pending : (enterHalted s).pending = s.pending := by unfold enterHalted; simp

/-! ### leaveHalted -/

@[simp] theorem leaveHalted_pos (r : RunState) : (leaveHalted r s).pos = s.pos := by unfold leaveHalted; simp
@[simp] theorem leaveHalted_lines (r : RunState) : (leaveHalted r s).lines =
    (setHeld (fun _ => none) s).lines := by unfold leaveHalted; simp
@[simp] theorem leaveHalted_store (r : RunState) : (leaveHalted r s).store = s.store := by unfold leaveHalted; simp
@[simp] theorem leaveHalted_track (r : RunState) : (leaveHalted r s).track = s.track := by unfold leaveHalted; simp
@[simp] theorem leaveHalted_reg (r : RunState) : (leaveHalted r s).reg = s.reg := by unfold leaveHalted; simp
@[simp] theorem leaveHalted_app (r : RunState) : (leaveHalted r s).app = s.app := by unfold leaveHalted; simp
@[simp] theorem leaveHalted_insp (r : RunState) : (leaveHalted r s).insp = s.insp := by unfold leaveHalted; simp
@[simp] theorem leaveHalted_orders (r : RunState) : (leaveHalted r s).orders = s.orders := by unfold leaveHalted; simp
@[simp] theorem leaveHalted_deliv (r : RunState) : (leaveHalted r s).deliv = s.deliv := by unfold leaveHalted; simp
@[simp] theorem leaveHalted_line (r : RunState) : (leaveHalted r s).line =
    { s.line with run := r } := by unfold leaveHalted; simp
@[simp] theorem leaveHalted_counters (r : RunState) : (leaveHalted r s).counters =
    s.counters := by unfold leaveHalted; simp
@[simp] theorem leaveHalted_notices (r : RunState) : (leaveHalted r s).notices =
    s.notices := by unfold leaveHalted; simp
@[simp] theorem leaveHalted_mgmt (r : RunState) : (leaveHalted r s).mgmt = s.mgmt := by unfold leaveHalted; simp
@[simp] theorem leaveHalted_ring (r : RunState) : (leaveHalted r s).ring = s.ring := by unfold leaveHalted; simp
@[simp] theorem leaveHalted_resetHeld (r : RunState) : (leaveHalted r s).resetHeld =
    s.resetHeld := by unfold leaveHalted; simp
@[simp] theorem leaveHalted_reply (r : RunState) : (leaveHalted r s).reply = s.reply := by unfold leaveHalted; simp
@[simp] theorem leaveHalted_freeIndex (r : RunState) : (leaveHalted r s).freeIndex =
    s.freeIndex := by unfold leaveHalted; simp
@[simp] theorem leaveHalted_pending (r : RunState) : (leaveHalted r s).pending =
    s.pending := by unfold leaveHalted; simp

/-! ### latch -/

@[simp] theorem latch_pos (f : FaultKind) : (latch f s).pos = s.pos := rfl
@[simp] theorem latch_lines (f : FaultKind) : (latch f s).lines = s.lines := rfl
@[simp] theorem latch_store (f : FaultKind) : (latch f s).store = s.store := rfl
@[simp] theorem latch_track (f : FaultKind) : (latch f s).track = s.track := rfl
@[simp] theorem latch_reg (f : FaultKind) : (latch f s).reg = s.reg := rfl
@[simp] theorem latch_app (f : FaultKind) : (latch f s).app = s.app := rfl
@[simp] theorem latch_insp (f : FaultKind) : (latch f s).insp = s.insp := rfl
@[simp] theorem latch_orders (f : FaultKind) : (latch f s).orders = s.orders := rfl
@[simp] theorem latch_deliv (f : FaultKind) : (latch f s).deliv = s.deliv := rfl
@[simp] theorem latch_line (f : FaultKind) : (latch f s).line =
    { s.line with faults := s.line.faults ||| oneFault f } := rfl
@[simp] theorem latch_counters (f : FaultKind) : (latch f s).counters = s.counters := rfl
@[simp] theorem latch_notices (f : FaultKind) : (latch f s).notices = s.notices := rfl
@[simp] theorem latch_mgmt (f : FaultKind) : (latch f s).mgmt = s.mgmt := rfl
@[simp] theorem latch_ring (f : FaultKind) : (latch f s).ring = s.ring := rfl
@[simp] theorem latch_resetHeld (f : FaultKind) : (latch f s).resetHeld = s.resetHeld := rfl
@[simp] theorem latch_reply (f : FaultKind) : (latch f s).reply = s.reply := rfl
@[simp] theorem latch_freeIndex (f : FaultKind) : (latch f s).freeIndex = s.freeIndex := rfl
@[simp] theorem latch_pending (f : FaultKind) : (latch f s).pending = s.pending := rfl

/-! ### unlatch -/

@[simp] theorem unlatch_pos (f : FaultKind) : (unlatch f s).pos = s.pos := rfl
@[simp] theorem unlatch_lines (f : FaultKind) : (unlatch f s).lines = s.lines := rfl
@[simp] theorem unlatch_store (f : FaultKind) : (unlatch f s).store = s.store := rfl
@[simp] theorem unlatch_track (f : FaultKind) : (unlatch f s).track = s.track := rfl
@[simp] theorem unlatch_reg (f : FaultKind) : (unlatch f s).reg = s.reg := rfl
@[simp] theorem unlatch_app (f : FaultKind) : (unlatch f s).app = s.app := rfl
@[simp] theorem unlatch_insp (f : FaultKind) : (unlatch f s).insp = s.insp := rfl
@[simp] theorem unlatch_orders (f : FaultKind) : (unlatch f s).orders = s.orders := rfl
@[simp] theorem unlatch_deliv (f : FaultKind) : (unlatch f s).deliv = s.deliv := rfl
@[simp] theorem unlatch_line (f : FaultKind) : (unlatch f s).line =
    { s.line with faults := s.line.faults &&& ~~~ oneFault f } := rfl
@[simp] theorem unlatch_counters (f : FaultKind) : (unlatch f s).counters = s.counters := rfl
@[simp] theorem unlatch_notices (f : FaultKind) : (unlatch f s).notices = s.notices := rfl
@[simp] theorem unlatch_mgmt (f : FaultKind) : (unlatch f s).mgmt = s.mgmt := rfl
@[simp] theorem unlatch_ring (f : FaultKind) : (unlatch f s).ring = s.ring := rfl
@[simp] theorem unlatch_resetHeld (f : FaultKind) : (unlatch f s).resetHeld = s.resetHeld := rfl
@[simp] theorem unlatch_reply (f : FaultKind) : (unlatch f s).reply = s.reply := rfl
@[simp] theorem unlatch_freeIndex (f : FaultKind) : (unlatch f s).freeIndex = s.freeIndex := rfl
@[simp] theorem unlatch_pending (f : FaultKind) : (unlatch f s).pending = s.pending := rfl

/-! ### setLevel -/

@[simp] theorem setLevel_pos (l : Fin 16) (v : Bool) : (setLevel l v s).pos = s.pos := rfl
theorem setLevel_lines (l : Fin 16) (v : Bool) : (setLevel l v s).lines =
    { s.lines with levels := (setLevel l v s).lines.levels } := rfl
@[simp] theorem setLevel_store (l : Fin 16) (v : Bool) : (setLevel l v s).store = s.store := rfl
@[simp] theorem setLevel_track (l : Fin 16) (v : Bool) : (setLevel l v s).track = s.track := rfl
@[simp] theorem setLevel_reg (l : Fin 16) (v : Bool) : (setLevel l v s).reg = s.reg := rfl
@[simp] theorem setLevel_app (l : Fin 16) (v : Bool) : (setLevel l v s).app = s.app := rfl
@[simp] theorem setLevel_insp (l : Fin 16) (v : Bool) : (setLevel l v s).insp = s.insp := rfl
@[simp] theorem setLevel_orders (l : Fin 16) (v : Bool) : (setLevel l v s).orders = s.orders := rfl
@[simp] theorem setLevel_deliv (l : Fin 16) (v : Bool) : (setLevel l v s).deliv = s.deliv := rfl
@[simp] theorem setLevel_line (l : Fin 16) (v : Bool) : (setLevel l v s).line = s.line := rfl
@[simp] theorem setLevel_counters (l : Fin 16) (v : Bool) : (setLevel l v s).counters = s.counters := rfl
@[simp] theorem setLevel_notices (l : Fin 16) (v : Bool) : (setLevel l v s).notices = s.notices := rfl
@[simp] theorem setLevel_mgmt (l : Fin 16) (v : Bool) : (setLevel l v s).mgmt = s.mgmt := rfl
@[simp] theorem setLevel_ring (l : Fin 16) (v : Bool) : (setLevel l v s).ring = s.ring := rfl
@[simp] theorem setLevel_resetHeld (l : Fin 16) (v : Bool) : (setLevel l v s).resetHeld = s.resetHeld := rfl
@[simp] theorem setLevel_reply (l : Fin 16) (v : Bool) : (setLevel l v s).reply = s.reply := rfl
@[simp] theorem setLevel_freeIndex (l : Fin 16) (v : Bool) : (setLevel l v s).freeIndex = s.freeIndex := rfl
@[simp] theorem setLevel_pending (l : Fin 16) (v : Bool) : (setLevel l v s).pending = s.pending := rfl

/-! ### modifyChannel -/

@[simp] theorem modifyChannel_pos (k : Fin 12) (f : AppChannel → AppChannel) : (modifyChannel k f s).pos =
    s.pos := rfl
@[simp] theorem modifyChannel_lines (k : Fin 12) (f : AppChannel → AppChannel) : (modifyChannel k f s).lines =
    s.lines := rfl
@[simp] theorem modifyChannel_store (k : Fin 12) (f : AppChannel → AppChannel) : (modifyChannel k f s).store =
    s.store := rfl
@[simp] theorem modifyChannel_track (k : Fin 12) (f : AppChannel → AppChannel) : (modifyChannel k f s).track =
    s.track := rfl
@[simp] theorem modifyChannel_reg (k : Fin 12) (f : AppChannel → AppChannel) : (modifyChannel k f s).reg =
    s.reg := rfl
@[simp] theorem modifyChannel_app (k : Fin 12) (f : AppChannel → AppChannel) : (modifyChannel k f s).app =
    { s.app with channels := put s.app.channels k (f (getAt s.app.channels k)) } := rfl
@[simp] theorem modifyChannel_insp (k : Fin 12) (f : AppChannel → AppChannel) : (modifyChannel k f s).insp =
    s.insp := rfl
@[simp] theorem modifyChannel_orders (k : Fin 12) (f : AppChannel → AppChannel) : (modifyChannel k f s).orders =
    s.orders := rfl
@[simp] theorem modifyChannel_deliv (k : Fin 12) (f : AppChannel → AppChannel) : (modifyChannel k f s).deliv =
    s.deliv := rfl
@[simp] theorem modifyChannel_line (k : Fin 12) (f : AppChannel → AppChannel) : (modifyChannel k f s).line =
    s.line := rfl
@[simp] theorem modifyChannel_counters (k : Fin 12) (f : AppChannel → AppChannel) : (modifyChannel k f s).counters =
    s.counters := rfl
@[simp] theorem modifyChannel_notices (k : Fin 12) (f : AppChannel → AppChannel) : (modifyChannel k f s).notices =
    s.notices := rfl
@[simp] theorem modifyChannel_mgmt (k : Fin 12) (f : AppChannel → AppChannel) : (modifyChannel k f s).mgmt =
    s.mgmt := rfl
@[simp] theorem modifyChannel_ring (k : Fin 12) (f : AppChannel → AppChannel) : (modifyChannel k f s).ring =
    s.ring := rfl
@[simp] theorem modifyChannel_resetHeld (k : Fin 12) (f : AppChannel → AppChannel) : (modifyChannel k f s).resetHeld =
    s.resetHeld := rfl
@[simp] theorem modifyChannel_reply (k : Fin 12) (f : AppChannel → AppChannel) : (modifyChannel k f s).reply =
    s.reply := rfl
@[simp] theorem modifyChannel_freeIndex (k : Fin 12) (f : AppChannel → AppChannel) : (modifyChannel k f s).freeIndex =
    s.freeIndex := rfl
@[simp] theorem modifyChannel_pending (k : Fin 12) (f : AppChannel → AppChannel) : (modifyChannel k f s).pending =
    s.pending := rfl

/-! ### idleChannel -/

@[simp] theorem idleChannel_pos (k : Fin 12) : (idleChannel k s).pos = s.pos := rfl
@[simp] theorem idleChannel_lines (k : Fin 12) : (idleChannel k s).lines = s.lines := rfl
@[simp] theorem idleChannel_store (k : Fin 12) : (idleChannel k s).store = s.store := rfl
@[simp] theorem idleChannel_track (k : Fin 12) : (idleChannel k s).track = s.track := rfl
@[simp] theorem idleChannel_reg (k : Fin 12) : (idleChannel k s).reg = s.reg := rfl
@[simp] theorem idleChannel_app (k : Fin 12) : (idleChannel k s).app =
    (modifyChannel k (fun c => { c with serving := none }) s).app := rfl
@[simp] theorem idleChannel_insp (k : Fin 12) : (idleChannel k s).insp = s.insp := rfl
@[simp] theorem idleChannel_orders (k : Fin 12) : (idleChannel k s).orders = s.orders := rfl
@[simp] theorem idleChannel_deliv (k : Fin 12) : (idleChannel k s).deliv = s.deliv := rfl
@[simp] theorem idleChannel_line (k : Fin 12) : (idleChannel k s).line = s.line := rfl
@[simp] theorem idleChannel_counters (k : Fin 12) : (idleChannel k s).counters = s.counters := rfl
@[simp] theorem idleChannel_notices (k : Fin 12) : (idleChannel k s).notices = s.notices := rfl
@[simp] theorem idleChannel_mgmt (k : Fin 12) : (idleChannel k s).mgmt = s.mgmt := rfl
@[simp] theorem idleChannel_ring (k : Fin 12) : (idleChannel k s).ring = s.ring := rfl
@[simp] theorem idleChannel_resetHeld (k : Fin 12) : (idleChannel k s).resetHeld = s.resetHeld := rfl
@[simp] theorem idleChannel_reply (k : Fin 12) : (idleChannel k s).reply = s.reply := rfl
@[simp] theorem idleChannel_freeIndex (k : Fin 12) : (idleChannel k s).freeIndex = s.freeIndex := rfl
@[simp] theorem idleChannel_pending (k : Fin 12) : (idleChannel k s).pending = s.pending := rfl

/-! ### modifyInsp -/

@[simp] theorem modifyInsp_pos (j : Fin 8) (f : InspChannel → InspChannel) : (modifyInsp j f s).pos = s.pos := rfl
@[simp] theorem modifyInsp_lines (j : Fin 8) (f : InspChannel → InspChannel) : (modifyInsp j f s).lines =
    s.lines := rfl
@[simp] theorem modifyInsp_store (j : Fin 8) (f : InspChannel → InspChannel) : (modifyInsp j f s).store =
    s.store := rfl
@[simp] theorem modifyInsp_track (j : Fin 8) (f : InspChannel → InspChannel) : (modifyInsp j f s).track =
    s.track := rfl
@[simp] theorem modifyInsp_reg (j : Fin 8) (f : InspChannel → InspChannel) : (modifyInsp j f s).reg = s.reg := rfl
@[simp] theorem modifyInsp_app (j : Fin 8) (f : InspChannel → InspChannel) : (modifyInsp j f s).app = s.app := rfl
@[simp] theorem modifyInsp_insp (j : Fin 8) (f : InspChannel → InspChannel) : (modifyInsp j f s).insp =
    put s.insp j (f (getAt s.insp j)) := rfl
@[simp] theorem modifyInsp_orders (j : Fin 8) (f : InspChannel → InspChannel) : (modifyInsp j f s).orders =
    s.orders := rfl
@[simp] theorem modifyInsp_deliv (j : Fin 8) (f : InspChannel → InspChannel) : (modifyInsp j f s).deliv =
    s.deliv := rfl
@[simp] theorem modifyInsp_line (j : Fin 8) (f : InspChannel → InspChannel) : (modifyInsp j f s).line = s.line := rfl
@[simp] theorem modifyInsp_counters (j : Fin 8) (f : InspChannel → InspChannel) : (modifyInsp j f s).counters =
    s.counters := rfl
@[simp] theorem modifyInsp_notices (j : Fin 8) (f : InspChannel → InspChannel) : (modifyInsp j f s).notices =
    s.notices := rfl
@[simp] theorem modifyInsp_mgmt (j : Fin 8) (f : InspChannel → InspChannel) : (modifyInsp j f s).mgmt = s.mgmt := rfl
@[simp] theorem modifyInsp_ring (j : Fin 8) (f : InspChannel → InspChannel) : (modifyInsp j f s).ring = s.ring := rfl
@[simp] theorem modifyInsp_resetHeld (j : Fin 8) (f : InspChannel → InspChannel) : (modifyInsp j f s).resetHeld =
    s.resetHeld := rfl
@[simp] theorem modifyInsp_reply (j : Fin 8) (f : InspChannel → InspChannel) : (modifyInsp j f s).reply =
    s.reply := rfl
@[simp] theorem modifyInsp_freeIndex (j : Fin 8) (f : InspChannel → InspChannel) : (modifyInsp j f s).freeIndex =
    s.freeIndex := rfl
@[simp] theorem modifyInsp_pending (j : Fin 8) (f : InspChannel → InspChannel) : (modifyInsp j f s).pending =
    s.pending := rfl

/-! ### announceApp -/

@[simp] theorem announceApp_pos (r : Record) : (announceApp r s).pos =
    { s.pos with schedule := s.pos.schedule ++ onEvents s r } := rfl
@[simp] theorem announceApp_lines (r : Record) : (announceApp r s).lines = s.lines := rfl
@[simp] theorem announceApp_store (r : Record) : (announceApp r s).store = s.store := rfl
@[simp] theorem announceApp_track (r : Record) : (announceApp r s).track = s.track := rfl
@[simp] theorem announceApp_reg (r : Record) : (announceApp r s).reg = s.reg := rfl
@[simp] theorem announceApp_app (r : Record) : (announceApp r s).app =
    { s.app with blanks := s.app.blanks ++ [⟨r.seq, r.cutPitch, false⟩] } := rfl
@[simp] theorem announceApp_insp (r : Record) : (announceApp r s).insp = s.insp := rfl
@[simp] theorem announceApp_orders (r : Record) : (announceApp r s).orders = s.orders := rfl
@[simp] theorem announceApp_deliv (r : Record) : (announceApp r s).deliv = s.deliv := rfl
@[simp] theorem announceApp_line (r : Record) : (announceApp r s).line = s.line := rfl
@[simp] theorem announceApp_counters (r : Record) : (announceApp r s).counters = s.counters := rfl
@[simp] theorem announceApp_notices (r : Record) : (announceApp r s).notices = s.notices := rfl
@[simp] theorem announceApp_mgmt (r : Record) : (announceApp r s).mgmt = s.mgmt := rfl
@[simp] theorem announceApp_ring (r : Record) : (announceApp r s).ring = s.ring := rfl
@[simp] theorem announceApp_resetHeld (r : Record) : (announceApp r s).resetHeld = s.resetHeld := rfl
@[simp] theorem announceApp_reply (r : Record) : (announceApp r s).reply = s.reply := rfl
@[simp] theorem announceApp_freeIndex (r : Record) : (announceApp r s).freeIndex = s.freeIndex := rfl
@[simp] theorem announceApp_pending (r : Record) : (announceApp r s).pending = s.pending := rfl

/-! ### announceInsp -/

@[simp] theorem announceInsp_pos (r : Record) : (announceInsp r s).pos =
    { s.pos with schedule := s.pos.schedule ++ allInsps.flatMap (inspEvents s r) } := rfl
@[simp] theorem announceInsp_lines (r : Record) : (announceInsp r s).lines = s.lines := rfl
@[simp] theorem announceInsp_store (r : Record) : (announceInsp r s).store = s.store := rfl
@[simp] theorem announceInsp_track (r : Record) : (announceInsp r s).track = s.track := rfl
@[simp] theorem announceInsp_reg (r : Record) : (announceInsp r s).reg = s.reg := rfl
@[simp] theorem announceInsp_app (r : Record) : (announceInsp r s).app = s.app := rfl
@[simp] theorem announceInsp_insp (r : Record) : (announceInsp r s).insp = s.insp := rfl
@[simp] theorem announceInsp_orders (r : Record) : (announceInsp r s).orders = s.orders := rfl
@[simp] theorem announceInsp_deliv (r : Record) : (announceInsp r s).deliv = s.deliv := rfl
@[simp] theorem announceInsp_line (r : Record) : (announceInsp r s).line = s.line := rfl
@[simp] theorem announceInsp_counters (r : Record) : (announceInsp r s).counters = s.counters := rfl
@[simp] theorem announceInsp_notices (r : Record) : (announceInsp r s).notices = s.notices := rfl
@[simp] theorem announceInsp_mgmt (r : Record) : (announceInsp r s).mgmt = s.mgmt := rfl
@[simp] theorem announceInsp_ring (r : Record) : (announceInsp r s).ring = s.ring := rfl
@[simp] theorem announceInsp_resetHeld (r : Record) : (announceInsp r s).resetHeld = s.resetHeld := rfl
@[simp] theorem announceInsp_reply (r : Record) : (announceInsp r s).reply = s.reply := rfl
@[simp] theorem announceInsp_freeIndex (r : Record) : (announceInsp r s).freeIndex = s.freeIndex := rfl
@[simp] theorem announceInsp_pending (r : Record) : (announceInsp r s).pending = s.pending := rfl

/-! ### announceDelivery -/

@[simp] theorem announceDelivery_pos (r : Record) : (announceDelivery r s).pos =
    { s.pos with schedule := s.pos.schedule ++
      [plainEvent (gatePos s r.cutPitch) (.gate r.seq),
        plainEvent (deliveryPos s r.cutPitch) (.delivery r.seq)] } := rfl
@[simp] theorem announceDelivery_lines (r : Record) : (announceDelivery r s).lines = s.lines := rfl
@[simp] theorem announceDelivery_store (r : Record) : (announceDelivery r s).store = s.store := rfl
@[simp] theorem announceDelivery_track (r : Record) : (announceDelivery r s).track = s.track := rfl
@[simp] theorem announceDelivery_reg (r : Record) : (announceDelivery r s).reg = s.reg := rfl
@[simp] theorem announceDelivery_app (r : Record) : (announceDelivery r s).app = s.app := rfl
@[simp] theorem announceDelivery_insp (r : Record) : (announceDelivery r s).insp = s.insp := rfl
@[simp] theorem announceDelivery_orders (r : Record) : (announceDelivery r s).orders = s.orders := rfl
@[simp] theorem announceDelivery_deliv (r : Record) : (announceDelivery r s).deliv = s.deliv := rfl
@[simp] theorem announceDelivery_line (r : Record) : (announceDelivery r s).line = s.line := rfl
@[simp] theorem announceDelivery_counters (r : Record) : (announceDelivery r s).counters = s.counters := rfl
@[simp] theorem announceDelivery_notices (r : Record) : (announceDelivery r s).notices = s.notices := rfl
@[simp] theorem announceDelivery_mgmt (r : Record) : (announceDelivery r s).mgmt = s.mgmt := rfl
@[simp] theorem announceDelivery_ring (r : Record) : (announceDelivery r s).ring = s.ring := rfl
@[simp] theorem announceDelivery_resetHeld (r : Record) : (announceDelivery r s).resetHeld = s.resetHeld := rfl
@[simp] theorem announceDelivery_reply (r : Record) : (announceDelivery r s).reply = s.reply := rfl
@[simp] theorem announceDelivery_freeIndex (r : Record) : (announceDelivery r s).freeIndex = s.freeIndex := rfl
@[simp] theorem announceDelivery_pending (r : Record) : (announceDelivery r s).pending = s.pending := rfl

/-! ### moveEvents -/

@[simp] theorem moveEvents_pos : (moveEvents s).pos =
    { s.pos with schedule := s.pos.schedule.map (movedEvent s) } := rfl
@[simp] theorem moveEvents_lines : (moveEvents s).lines = s.lines := rfl
@[simp] theorem moveEvents_store : (moveEvents s).store = s.store := rfl
@[simp] theorem moveEvents_track : (moveEvents s).track = s.track := rfl
@[simp] theorem moveEvents_reg : (moveEvents s).reg = s.reg := rfl
@[simp] theorem moveEvents_app : (moveEvents s).app = s.app := rfl
@[simp] theorem moveEvents_insp : (moveEvents s).insp = s.insp := rfl
@[simp] theorem moveEvents_orders : (moveEvents s).orders = s.orders := rfl
@[simp] theorem moveEvents_deliv : (moveEvents s).deliv = s.deliv := rfl
@[simp] theorem moveEvents_line : (moveEvents s).line = s.line := rfl
@[simp] theorem moveEvents_counters : (moveEvents s).counters = s.counters := rfl
@[simp] theorem moveEvents_notices : (moveEvents s).notices = s.notices := rfl
@[simp] theorem moveEvents_mgmt : (moveEvents s).mgmt = s.mgmt := rfl
@[simp] theorem moveEvents_ring : (moveEvents s).ring = s.ring := rfl
@[simp] theorem moveEvents_resetHeld : (moveEvents s).resetHeld = s.resetHeld := rfl
@[simp] theorem moveEvents_reply : (moveEvents s).reply = s.reply := rfl
@[simp] theorem moveEvents_freeIndex : (moveEvents s).freeIndex = s.freeIndex := rfl
@[simp] theorem moveEvents_pending : (moveEvents s).pending = s.pending := rfl

/-! ### setFeed -/

@[simp] theorem setFeed_pos (f : FeedState) : (setFeed f s).pos = s.pos := rfl
@[simp] theorem setFeed_lines (f : FeedState) : (setFeed f s).lines = s.lines := rfl
@[simp] theorem setFeed_store (f : FeedState) : (setFeed f s).store = s.store := rfl
@[simp] theorem setFeed_track (f : FeedState) : (setFeed f s).track = s.track := rfl
@[simp] theorem setFeed_reg (f : FeedState) : (setFeed f s).reg = s.reg := rfl
@[simp] theorem setFeed_app (f : FeedState) : (setFeed f s).app = s.app := rfl
@[simp] theorem setFeed_insp (f : FeedState) : (setFeed f s).insp = s.insp := rfl
@[simp] theorem setFeed_orders (f : FeedState) : (setFeed f s).orders = { s.orders with feedState := f } := rfl
@[simp] theorem setFeed_deliv (f : FeedState) : (setFeed f s).deliv = s.deliv := rfl
@[simp] theorem setFeed_line (f : FeedState) : (setFeed f s).line = s.line := rfl
@[simp] theorem setFeed_counters (f : FeedState) : (setFeed f s).counters = s.counters := rfl
@[simp] theorem setFeed_notices (f : FeedState) : (setFeed f s).notices = s.notices := rfl
@[simp] theorem setFeed_mgmt (f : FeedState) : (setFeed f s).mgmt = s.mgmt := rfl
@[simp] theorem setFeed_ring (f : FeedState) : (setFeed f s).ring = s.ring := rfl
@[simp] theorem setFeed_resetHeld (f : FeedState) : (setFeed f s).resetHeld = s.resetHeld := rfl
@[simp] theorem setFeed_reply (f : FeedState) : (setFeed f s).reply = s.reply := rfl
@[simp] theorem setFeed_freeIndex (f : FeedState) : (setFeed f s).freeIndex = s.freeIndex := rfl
@[simp] theorem setFeed_pending (f : FeedState) : (setFeed f s).pending = s.pending := rfl

/-! ### removeOrder -/

@[simp] theorem removeOrder_pos (t : Nat) : (removeOrder t s).pos = s.pos := rfl
@[simp] theorem removeOrder_lines (t : Nat) : (removeOrder t s).lines = s.lines := rfl
@[simp] theorem removeOrder_store (t : Nat) : (removeOrder t s).store = s.store := rfl
@[simp] theorem removeOrder_track (t : Nat) : (removeOrder t s).track = s.track := rfl
@[simp] theorem removeOrder_reg (t : Nat) : (removeOrder t s).reg = s.reg := rfl
@[simp] theorem removeOrder_app (t : Nat) : (removeOrder t s).app = s.app := rfl
@[simp] theorem removeOrder_insp (t : Nat) : (removeOrder t s).insp = s.insp := rfl
@[simp] theorem removeOrder_orders (t : Nat) : (removeOrder t s).orders =
    { s.orders with list := s.orders.list.eraseP (fun o => o.tag == t) } := rfl
@[simp] theorem removeOrder_deliv (t : Nat) : (removeOrder t s).deliv = s.deliv := rfl
@[simp] theorem removeOrder_line (t : Nat) : (removeOrder t s).line = s.line := rfl
@[simp] theorem removeOrder_counters (t : Nat) : (removeOrder t s).counters = s.counters := rfl
@[simp] theorem removeOrder_notices (t : Nat) : (removeOrder t s).notices = s.notices := rfl
@[simp] theorem removeOrder_mgmt (t : Nat) : (removeOrder t s).mgmt = s.mgmt := rfl
@[simp] theorem removeOrder_ring (t : Nat) : (removeOrder t s).ring = s.ring := rfl
@[simp] theorem removeOrder_resetHeld (t : Nat) : (removeOrder t s).resetHeld = s.resetHeld := rfl
@[simp] theorem removeOrder_reply (t : Nat) : (removeOrder t s).reply = s.reply := rfl
@[simp] theorem removeOrder_freeIndex (t : Nat) : (removeOrder t s).freeIndex = s.freeIndex := rfl
@[simp] theorem removeOrder_pending (t : Nat) : (removeOrder t s).pending = s.pending := rfl

/-! ### rebuildProjection -/

@[simp] theorem rebuildProjection_pos : (rebuildProjection s).pos = s.pos := rfl
@[simp] theorem rebuildProjection_lines : (rebuildProjection s).lines = s.lines := rfl
@[simp] theorem rebuildProjection_store : (rebuildProjection s).store = s.store := rfl
@[simp] theorem rebuildProjection_track : (rebuildProjection s).track = s.track := rfl
@[simp] theorem rebuildProjection_reg : (rebuildProjection s).reg = s.reg := rfl
@[simp] theorem rebuildProjection_app : (rebuildProjection s).app = s.app := rfl
@[simp] theorem rebuildProjection_insp : (rebuildProjection s).insp = s.insp := rfl
@[simp] theorem rebuildProjection_orders : (rebuildProjection s).orders = s.orders := rfl
@[simp] theorem rebuildProjection_deliv : (rebuildProjection s).deliv =
    { s.deliv with committedCloses := (replay s).1, projected := (replay s).2 } := rfl
@[simp] theorem rebuildProjection_line : (rebuildProjection s).line = s.line := rfl
@[simp] theorem rebuildProjection_counters : (rebuildProjection s).counters = s.counters := rfl
@[simp] theorem rebuildProjection_notices : (rebuildProjection s).notices = s.notices := rfl
@[simp] theorem rebuildProjection_mgmt : (rebuildProjection s).mgmt = s.mgmt := rfl
@[simp] theorem rebuildProjection_ring : (rebuildProjection s).ring = s.ring := rfl
@[simp] theorem rebuildProjection_resetHeld : (rebuildProjection s).resetHeld = s.resetHeld := rfl
@[simp] theorem rebuildProjection_reply : (rebuildProjection s).reply = s.reply := rfl
@[simp] theorem rebuildProjection_freeIndex : (rebuildProjection s).freeIndex = s.freeIndex := rfl
@[simp] theorem rebuildProjection_pending : (rebuildProjection s).pending = s.pending := rfl

/-! ### startSeparator -/

@[simp] theorem startSeparator_pos : (startSeparator s).pos =
    { s.pos with schedule := s.pos.schedule.filter (fun e => !(e.event == .separatorEnd)) ++
        [plainEvent (posAdd s.pos.hwm s.store.inForce.general.separatorLength) .separatorEnd] } := rfl
@[simp] theorem startSeparator_lines : (startSeparator s).lines = s.lines := rfl
@[simp] theorem startSeparator_store : (startSeparator s).store = s.store := rfl
@[simp] theorem startSeparator_track : (startSeparator s).track = s.track := rfl
@[simp] theorem startSeparator_reg : (startSeparator s).reg = s.reg := rfl
@[simp] theorem startSeparator_app : (startSeparator s).app = s.app := rfl
@[simp] theorem startSeparator_insp : (startSeparator s).insp = s.insp := rfl
@[simp] theorem startSeparator_orders : (startSeparator s).orders = s.orders := rfl
@[simp] theorem startSeparator_deliv : (startSeparator s).deliv = { s.deliv with separator := true } := rfl
@[simp] theorem startSeparator_line : (startSeparator s).line = s.line := rfl
@[simp] theorem startSeparator_counters : (startSeparator s).counters = s.counters := rfl
@[simp] theorem startSeparator_notices : (startSeparator s).notices = s.notices := rfl
@[simp] theorem startSeparator_mgmt : (startSeparator s).mgmt = s.mgmt := rfl
@[simp] theorem startSeparator_ring : (startSeparator s).ring = s.ring := rfl
@[simp] theorem startSeparator_resetHeld : (startSeparator s).resetHeld = s.resetHeld := rfl
@[simp] theorem startSeparator_reply : (startSeparator s).reply = s.reply := rfl
@[simp] theorem startSeparator_freeIndex : (startSeparator s).freeIndex = s.freeIndex := rfl
@[simp] theorem startSeparator_pending : (startSeparator s).pending = s.pending := rfl

/-! ### logBox -/

@[simp] theorem logBox_pos (b : Box) (why : CloseReason) : (logBox b why s).pos = s.pos := rfl
@[simp] theorem logBox_lines (b : Box) (why : CloseReason) : (logBox b why s).lines = s.lines := rfl
@[simp] theorem logBox_store (b : Box) (why : CloseReason) : (logBox b why s).store = s.store := rfl
@[simp] theorem logBox_track (b : Box) (why : CloseReason) : (logBox b why s).track = s.track := rfl
@[simp] theorem logBox_reg (b : Box) (why : CloseReason) : (logBox b why s).reg = s.reg := rfl
@[simp] theorem logBox_app (b : Box) (why : CloseReason) : (logBox b why s).app = s.app := rfl
@[simp] theorem logBox_insp (b : Box) (why : CloseReason) : (logBox b why s).insp = s.insp := rfl
@[simp] theorem logBox_orders (b : Box) (why : CloseReason) : (logBox b why s).orders = s.orders := rfl
theorem logBox_deliv (b : Box) (why : CloseReason) : (logBox b why s).deliv =
    { s.deliv with log := (logBox b why s).deliv.log, nextBox := s.deliv.nextBox + 1#32 } := rfl
@[simp] theorem logBox_line (b : Box) (why : CloseReason) : (logBox b why s).line = s.line := rfl
@[simp] theorem logBox_counters (b : Box) (why : CloseReason) : (logBox b why s).counters = s.counters := rfl
@[simp] theorem logBox_notices (b : Box) (why : CloseReason) : (logBox b why s).notices = s.notices := rfl
@[simp] theorem logBox_mgmt (b : Box) (why : CloseReason) : (logBox b why s).mgmt = s.mgmt := rfl
@[simp] theorem logBox_ring (b : Box) (why : CloseReason) : (logBox b why s).ring = s.ring := rfl
@[simp] theorem logBox_resetHeld (b : Box) (why : CloseReason) : (logBox b why s).resetHeld = s.resetHeld := rfl
@[simp] theorem logBox_reply (b : Box) (why : CloseReason) : (logBox b why s).reply = s.reply := rfl
@[simp] theorem logBox_freeIndex (b : Box) (why : CloseReason) : (logBox b why s).freeIndex = s.freeIndex := rfl
@[simp] theorem logBox_pending (b : Box) (why : CloseReason) : (logBox b why s).pending = s.pending := rfl

/-! ### creditOrder -/

@[simp] theorem creditOrder_pos (b : Box) : (creditOrder b s).pos = s.pos := rfl
@[simp] theorem creditOrder_lines (b : Box) : (creditOrder b s).lines = s.lines := rfl
@[simp] theorem creditOrder_store (b : Box) : (creditOrder b s).store = s.store := rfl
@[simp] theorem creditOrder_track (b : Box) : (creditOrder b s).track = s.track := rfl
@[simp] theorem creditOrder_reg (b : Box) : (creditOrder b s).reg = s.reg := rfl
@[simp] theorem creditOrder_app (b : Box) : (creditOrder b s).app = s.app := rfl
@[simp] theorem creditOrder_insp (b : Box) : (creditOrder b s).insp = s.insp := rfl
theorem creditOrder_orders (b : Box) : (creditOrder b s).orders =
    { s.orders with list := (creditOrder b s).orders.list } := rfl
@[simp] theorem creditOrder_deliv (b : Box) : (creditOrder b s).deliv = s.deliv := rfl
@[simp] theorem creditOrder_line (b : Box) : (creditOrder b s).line = s.line := rfl
@[simp] theorem creditOrder_counters (b : Box) : (creditOrder b s).counters = s.counters := rfl
@[simp] theorem creditOrder_notices (b : Box) : (creditOrder b s).notices = s.notices := rfl
@[simp] theorem creditOrder_mgmt (b : Box) : (creditOrder b s).mgmt = s.mgmt := rfl
@[simp] theorem creditOrder_ring (b : Box) : (creditOrder b s).ring = s.ring := rfl
@[simp] theorem creditOrder_resetHeld (b : Box) : (creditOrder b s).resetHeld = s.resetHeld := rfl
@[simp] theorem creditOrder_reply (b : Box) : (creditOrder b s).reply = s.reply := rfl
@[simp] theorem creditOrder_freeIndex (b : Box) : (creditOrder b s).freeIndex = s.freeIndex := rfl
@[simp] theorem creditOrder_pending (b : Box) : (creditOrder b s).pending = s.pending := rfl

/-! ### setFeedGate -/

@[simp] theorem setFeedGate_pos (b : Bool) : (setFeedGate b s).pos = s.pos := rfl
@[simp] theorem setFeedGate_lines (b : Bool) : (setFeedGate b s).lines = s.lines := rfl
@[simp] theorem setFeedGate_store (b : Bool) : (setFeedGate b s).store = s.store := rfl
@[simp] theorem setFeedGate_track (b : Bool) : (setFeedGate b s).track = s.track := rfl
@[simp] theorem setFeedGate_reg (b : Bool) : (setFeedGate b s).reg = s.reg := rfl
@[simp] theorem setFeedGate_app (b : Bool) : (setFeedGate b s).app = s.app := rfl
@[simp] theorem setFeedGate_insp (b : Bool) : (setFeedGate b s).insp = s.insp := rfl
@[simp] theorem setFeedGate_orders (b : Bool) : (setFeedGate b s).orders = { s.orders with feedGate := b } := rfl
@[simp] theorem setFeedGate_deliv (b : Bool) : (setFeedGate b s).deliv = s.deliv := rfl
@[simp] theorem setFeedGate_line (b : Bool) : (setFeedGate b s).line = s.line := rfl
@[simp] theorem setFeedGate_counters (b : Bool) : (setFeedGate b s).counters = s.counters := rfl
@[simp] theorem setFeedGate_notices (b : Bool) : (setFeedGate b s).notices = s.notices := rfl
@[simp] theorem setFeedGate_mgmt (b : Bool) : (setFeedGate b s).mgmt = s.mgmt := rfl
@[simp] theorem setFeedGate_ring (b : Bool) : (setFeedGate b s).ring = s.ring := rfl
@[simp] theorem setFeedGate_resetHeld (b : Bool) : (setFeedGate b s).resetHeld = s.resetHeld := rfl
@[simp] theorem setFeedGate_reply (b : Bool) : (setFeedGate b s).reply = s.reply := rfl
@[simp] theorem setFeedGate_freeIndex (b : Bool) : (setFeedGate b s).freeIndex = s.freeIndex := rfl
@[simp] theorem setFeedGate_pending (b : Bool) : (setFeedGate b s).pending = s.pending := rfl

/-! ### countdownStep -/

@[simp] theorem countdownStep_pos : (countdownStep s).pos = s.pos := rfl
@[simp] theorem countdownStep_lines : (countdownStep s).lines = s.lines := rfl
@[simp] theorem countdownStep_store : (countdownStep s).store = s.store := rfl
@[simp] theorem countdownStep_track : (countdownStep s).track = s.track := rfl
@[simp] theorem countdownStep_reg : (countdownStep s).reg = s.reg := rfl
@[simp] theorem countdownStep_app : (countdownStep s).app = s.app := rfl
@[simp] theorem countdownStep_insp : (countdownStep s).insp = s.insp := rfl
@[simp] theorem countdownStep_orders : (countdownStep s).orders =
    { s.orders with countdown := s.orders.countdown - 1 } := rfl
@[simp] theorem countdownStep_deliv : (countdownStep s).deliv = s.deliv := rfl
@[simp] theorem countdownStep_line : (countdownStep s).line = s.line := rfl
@[simp] theorem countdownStep_counters : (countdownStep s).counters = s.counters := rfl
@[simp] theorem countdownStep_notices : (countdownStep s).notices = s.notices := rfl
@[simp] theorem countdownStep_mgmt : (countdownStep s).mgmt = s.mgmt := rfl
@[simp] theorem countdownStep_ring : (countdownStep s).ring = s.ring := rfl
@[simp] theorem countdownStep_resetHeld : (countdownStep s).resetHeld = s.resetHeld := rfl
@[simp] theorem countdownStep_reply : (countdownStep s).reply = s.reply := rfl
@[simp] theorem countdownStep_freeIndex : (countdownStep s).freeIndex = s.freeIndex := rfl
@[simp] theorem countdownStep_pending : (countdownStep s).pending = s.pending := rfl

/-! ### createRecord -/

@[simp] theorem createRecord_pos (r : Record) : (createRecord r s).pos = s.pos := rfl
@[simp] theorem createRecord_lines (r : Record) : (createRecord r s).lines = s.lines := rfl
@[simp] theorem createRecord_store (r : Record) : (createRecord r s).store = (refUp r.slot s).store := rfl
@[simp] theorem createRecord_track (r : Record) : (createRecord r s).track =
    { records := s.track.records ++ [r], nextSeq := s.track.nextSeq + 1#32 } := rfl
@[simp] theorem createRecord_reg (r : Record) : (createRecord r s).reg = s.reg := rfl
@[simp] theorem createRecord_app (r : Record) : (createRecord r s).app = s.app := rfl
@[simp] theorem createRecord_insp (r : Record) : (createRecord r s).insp = s.insp := rfl
@[simp] theorem createRecord_orders (r : Record) : (createRecord r s).orders = s.orders := rfl
@[simp] theorem createRecord_deliv (r : Record) : (createRecord r s).deliv = s.deliv := rfl
@[simp] theorem createRecord_line (r : Record) : (createRecord r s).line = s.line := rfl
@[simp] theorem createRecord_counters (r : Record) : (createRecord r s).counters = (count .accepted s).counters := rfl
@[simp] theorem createRecord_notices (r : Record) : (createRecord r s).notices = s.notices := rfl
@[simp] theorem createRecord_mgmt (r : Record) : (createRecord r s).mgmt = s.mgmt := rfl
@[simp] theorem createRecord_ring (r : Record) : (createRecord r s).ring = s.ring := rfl
@[simp] theorem createRecord_resetHeld (r : Record) : (createRecord r s).resetHeld = s.resetHeld := rfl
@[simp] theorem createRecord_reply (r : Record) : (createRecord r s).reply = s.reply := rfl
@[simp] theorem createRecord_freeIndex (r : Record) : (createRecord r s).freeIndex = s.freeIndex := rfl
@[simp] theorem createRecord_pending (r : Record) : (createRecord r s).pending = s.pending := rfl

/-! ### bumpFree -/

@[simp] theorem bumpFree_pos : (bumpFree s).pos = s.pos := rfl
@[simp] theorem bumpFree_lines : (bumpFree s).lines = s.lines := rfl
@[simp] theorem bumpFree_store : (bumpFree s).store = s.store := rfl
@[simp] theorem bumpFree_track : (bumpFree s).track = s.track := rfl
@[simp] theorem bumpFree_reg : (bumpFree s).reg = s.reg := rfl
@[simp] theorem bumpFree_app : (bumpFree s).app = s.app := rfl
@[simp] theorem bumpFree_insp : (bumpFree s).insp = s.insp := rfl
@[simp] theorem bumpFree_orders : (bumpFree s).orders = s.orders := rfl
@[simp] theorem bumpFree_deliv : (bumpFree s).deliv = s.deliv := rfl
@[simp] theorem bumpFree_line : (bumpFree s).line = s.line := rfl
@[simp] theorem bumpFree_counters : (bumpFree s).counters = s.counters := rfl
@[simp] theorem bumpFree_notices : (bumpFree s).notices = s.notices := rfl
@[simp] theorem bumpFree_mgmt : (bumpFree s).mgmt = s.mgmt := rfl
@[simp] theorem bumpFree_ring : (bumpFree s).ring = s.ring := rfl
@[simp] theorem bumpFree_resetHeld : (bumpFree s).resetHeld = s.resetHeld := rfl
@[simp] theorem bumpFree_reply : (bumpFree s).reply = s.reply := rfl
@[simp] theorem bumpFree_freeIndex : (bumpFree s).freeIndex = s.freeIndex + 1 := rfl
@[simp] theorem bumpFree_pending : (bumpFree s).pending = s.pending := rfl

/-! ### endRejectGate -/

@[simp] theorem endRejectGate_pos : (endRejectGate s).pos = s.pos := rfl
@[simp] theorem endRejectGate_lines : (endRejectGate s).lines = s.lines := rfl
@[simp] theorem endRejectGate_store : (endRejectGate s).store = s.store := rfl
@[simp] theorem endRejectGate_track : (endRejectGate s).track = s.track := rfl
@[simp] theorem endRejectGate_reg : (endRejectGate s).reg = s.reg := rfl
@[simp] theorem endRejectGate_app : (endRejectGate s).app = s.app := rfl
@[simp] theorem endRejectGate_insp : (endRejectGate s).insp = s.insp := rfl
@[simp] theorem endRejectGate_orders : (endRejectGate s).orders = s.orders := rfl
@[simp] theorem endRejectGate_deliv : (endRejectGate s).deliv = { s.deliv with rejectGate := false } := rfl
@[simp] theorem endRejectGate_line : (endRejectGate s).line = s.line := rfl
@[simp] theorem endRejectGate_counters : (endRejectGate s).counters = s.counters := rfl
@[simp] theorem endRejectGate_notices : (endRejectGate s).notices = s.notices := rfl
@[simp] theorem endRejectGate_mgmt : (endRejectGate s).mgmt = s.mgmt := rfl
@[simp] theorem endRejectGate_ring : (endRejectGate s).ring = s.ring := rfl
@[simp] theorem endRejectGate_resetHeld : (endRejectGate s).resetHeld = s.resetHeld := rfl
@[simp] theorem endRejectGate_reply : (endRejectGate s).reply = s.reply := rfl
@[simp] theorem endRejectGate_freeIndex : (endRejectGate s).freeIndex = s.freeIndex := rfl
@[simp] theorem endRejectGate_pending : (endRejectGate s).pending = s.pending := rfl

/-! ### endSeparator -/

@[simp] theorem endSeparator_pos : (endSeparator s).pos = s.pos := rfl
@[simp] theorem endSeparator_lines : (endSeparator s).lines = s.lines := rfl
@[simp] theorem endSeparator_store : (endSeparator s).store = s.store := rfl
@[simp] theorem endSeparator_track : (endSeparator s).track = s.track := rfl
@[simp] theorem endSeparator_reg : (endSeparator s).reg = s.reg := rfl
@[simp] theorem endSeparator_app : (endSeparator s).app = s.app := rfl
@[simp] theorem endSeparator_insp : (endSeparator s).insp = s.insp := rfl
@[simp] theorem endSeparator_orders : (endSeparator s).orders = s.orders := rfl
@[simp] theorem endSeparator_deliv : (endSeparator s).deliv = { s.deliv with separator := false } := rfl
@[simp] theorem endSeparator_line : (endSeparator s).line = s.line := rfl
@[simp] theorem endSeparator_counters : (endSeparator s).counters = s.counters := rfl
@[simp] theorem endSeparator_notices : (endSeparator s).notices = s.notices := rfl
@[simp] theorem endSeparator_mgmt : (endSeparator s).mgmt = s.mgmt := rfl
@[simp] theorem endSeparator_ring : (endSeparator s).ring = s.ring := rfl
@[simp] theorem endSeparator_resetHeld : (endSeparator s).resetHeld = s.resetHeld := rfl
@[simp] theorem endSeparator_reply : (endSeparator s).reply = s.reply := rfl
@[simp] theorem endSeparator_freeIndex : (endSeparator s).freeIndex = s.freeIndex := rfl
@[simp] theorem endSeparator_pending : (endSeparator s).pending = s.pending := rfl

/-! ### placeAt -/

@[simp] theorem placeAt_pos (a : Nat) : (placeAt a s).pos =
    { s.pos with hwm := posAt (pitchNumber s) a, depth := 0 } := rfl
@[simp] theorem placeAt_lines (a : Nat) : (placeAt a s).lines = s.lines := rfl
@[simp] theorem placeAt_store (a : Nat) : (placeAt a s).store = s.store := rfl
@[simp] theorem placeAt_track (a : Nat) : (placeAt a s).track = s.track := rfl
@[simp] theorem placeAt_reg (a : Nat) : (placeAt a s).reg = s.reg := rfl
@[simp] theorem placeAt_app (a : Nat) : (placeAt a s).app = s.app := rfl
@[simp] theorem placeAt_insp (a : Nat) : (placeAt a s).insp = s.insp := rfl
@[simp] theorem placeAt_orders (a : Nat) : (placeAt a s).orders = s.orders := rfl
@[simp] theorem placeAt_deliv (a : Nat) : (placeAt a s).deliv = s.deliv := rfl
@[simp] theorem placeAt_line (a : Nat) : (placeAt a s).line = s.line := rfl
@[simp] theorem placeAt_counters (a : Nat) : (placeAt a s).counters = s.counters := rfl
@[simp] theorem placeAt_notices (a : Nat) : (placeAt a s).notices = s.notices := rfl
@[simp] theorem placeAt_mgmt (a : Nat) : (placeAt a s).mgmt = s.mgmt := rfl
@[simp] theorem placeAt_ring (a : Nat) : (placeAt a s).ring = s.ring := rfl
@[simp] theorem placeAt_resetHeld (a : Nat) : (placeAt a s).resetHeld = s.resetHeld := rfl
@[simp] theorem placeAt_reply (a : Nat) : (placeAt a s).reply = s.reply := rfl
@[simp] theorem placeAt_freeIndex (a : Nat) : (placeAt a s).freeIndex = s.freeIndex := rfl
@[simp] theorem placeAt_pending (a : Nat) : (placeAt a s).pending = s.pending := rfl

/-! ### writeManual -/

@[simp] theorem writeManual_pos (m v : BitVec 16) : (writeManual m v s).pos = s.pos := by unfold writeManual; rfl
theorem writeManual_lines (m v : BitVec 16) : (writeManual m v s).lines =
    { s.lines with outs := (writeManual m v s).lines.outs } := by unfold writeManual; rfl
@[simp] theorem writeManual_store (m v : BitVec 16) : (writeManual m v s).store =
    s.store := by unfold writeManual; rfl
@[simp] theorem writeManual_track (m v : BitVec 16) : (writeManual m v s).track =
    s.track := by unfold writeManual; rfl
@[simp] theorem writeManual_reg (m v : BitVec 16) : (writeManual m v s).reg = s.reg := by unfold writeManual; rfl
@[simp] theorem writeManual_app (m v : BitVec 16) : (writeManual m v s).app = s.app := by unfold writeManual; rfl
@[simp] theorem writeManual_insp (m v : BitVec 16) : (writeManual m v s).insp = s.insp := by unfold writeManual; rfl
@[simp] theorem writeManual_orders (m v : BitVec 16) : (writeManual m v s).orders =
    s.orders := by unfold writeManual; rfl
@[simp] theorem writeManual_deliv (m v : BitVec 16) : (writeManual m v s).deliv =
    s.deliv := by unfold writeManual; rfl
@[simp] theorem writeManual_line (m v : BitVec 16) : (writeManual m v s).line = s.line := by unfold writeManual; rfl
@[simp] theorem writeManual_counters (m v : BitVec 16) : (writeManual m v s).counters =
    s.counters := by unfold writeManual; rfl
@[simp] theorem writeManual_notices (m v : BitVec 16) : (writeManual m v s).notices =
    s.notices := by unfold writeManual; rfl
@[simp] theorem writeManual_mgmt (m v : BitVec 16) : (writeManual m v s).mgmt = s.mgmt := by unfold writeManual; rfl
@[simp] theorem writeManual_ring (m v : BitVec 16) : (writeManual m v s).ring = s.ring := by unfold writeManual; rfl
@[simp] theorem writeManual_resetHeld (m v : BitVec 16) : (writeManual m v s).resetHeld =
    s.resetHeld := by unfold writeManual; rfl
@[simp] theorem writeManual_reply (m v : BitVec 16) : (writeManual m v s).reply =
    s.reply := by unfold writeManual; rfl
@[simp] theorem writeManual_freeIndex (m v : BitVec 16) : (writeManual m v s).freeIndex =
    s.freeIndex := by unfold writeManual; rfl
@[simp] theorem writeManual_pending (m v : BitVec 16) : (writeManual m v s).pending =
    s.pending := by unfold writeManual; rfl

/-! ### writeWorking -/

@[simp] theorem writeWorking_pos (x : TableItem) : (writeWorking x s).pos = s.pos := rfl
@[simp] theorem writeWorking_lines (x : TableItem) : (writeWorking x s).lines = s.lines := rfl
@[simp] theorem writeWorking_store (x : TableItem) : (writeWorking x s).store =
    { s.store with working := writeTableItem s.store.working x, validity := .invalid } := rfl
@[simp] theorem writeWorking_track (x : TableItem) : (writeWorking x s).track = s.track := rfl
@[simp] theorem writeWorking_reg (x : TableItem) : (writeWorking x s).reg = s.reg := rfl
@[simp] theorem writeWorking_app (x : TableItem) : (writeWorking x s).app = s.app := rfl
@[simp] theorem writeWorking_insp (x : TableItem) : (writeWorking x s).insp = s.insp := rfl
@[simp] theorem writeWorking_orders (x : TableItem) : (writeWorking x s).orders = s.orders := rfl
@[simp] theorem writeWorking_deliv (x : TableItem) : (writeWorking x s).deliv = s.deliv := rfl
@[simp] theorem writeWorking_line (x : TableItem) : (writeWorking x s).line = s.line := rfl
@[simp] theorem writeWorking_counters (x : TableItem) : (writeWorking x s).counters = s.counters := rfl
@[simp] theorem writeWorking_notices (x : TableItem) : (writeWorking x s).notices = s.notices := rfl
@[simp] theorem writeWorking_mgmt (x : TableItem) : (writeWorking x s).mgmt = s.mgmt := rfl
@[simp] theorem writeWorking_ring (x : TableItem) : (writeWorking x s).ring = s.ring := rfl
@[simp] theorem writeWorking_resetHeld (x : TableItem) : (writeWorking x s).resetHeld = s.resetHeld := rfl
@[simp] theorem writeWorking_reply (x : TableItem) : (writeWorking x s).reply = s.reply := rfl
@[simp] theorem writeWorking_freeIndex (x : TableItem) : (writeWorking x s).freeIndex = s.freeIndex := rfl
@[simp] theorem writeWorking_pending (x : TableItem) : (writeWorking x s).pending = s.pending := rfl

/-! ### applyLines -/

@[simp] theorem applyLines_pos (t : MachineTable) (l : BitVec 16) : (applyLines t l s).pos =
    s.pos := by unfold applyLines; rfl
theorem applyLines_lines (t : MachineTable) (l : BitVec 16) : (applyLines t l s).lines =
    { modes := t.modes, levels := (s.lines.levels &&& ~~~ s.lines.modes) ||| (l &&& s.lines.modes),
      outs := (applyLines t l s).lines.outs } := by unfold applyLines; rfl
@[simp] theorem applyLines_store (t : MachineTable) (l : BitVec 16) : (applyLines t l s).store =
    s.store := by unfold applyLines; rfl
@[simp] theorem applyLines_track (t : MachineTable) (l : BitVec 16) : (applyLines t l s).track =
    s.track := by unfold applyLines; rfl
@[simp] theorem applyLines_reg (t : MachineTable) (l : BitVec 16) : (applyLines t l s).reg =
    s.reg := by unfold applyLines; rfl
@[simp] theorem applyLines_app (t : MachineTable) (l : BitVec 16) : (applyLines t l s).app =
    s.app := by unfold applyLines; rfl
@[simp] theorem applyLines_insp (t : MachineTable) (l : BitVec 16) : (applyLines t l s).insp =
    s.insp := by unfold applyLines; rfl
@[simp] theorem applyLines_orders (t : MachineTable) (l : BitVec 16) : (applyLines t l s).orders =
    s.orders := by unfold applyLines; rfl
@[simp] theorem applyLines_deliv (t : MachineTable) (l : BitVec 16) : (applyLines t l s).deliv =
    s.deliv := by unfold applyLines; rfl
@[simp] theorem applyLines_line (t : MachineTable) (l : BitVec 16) : (applyLines t l s).line =
    s.line := by unfold applyLines; rfl
@[simp] theorem applyLines_counters (t : MachineTable) (l : BitVec 16) : (applyLines t l s).counters =
    s.counters := by unfold applyLines; rfl
@[simp] theorem applyLines_notices (t : MachineTable) (l : BitVec 16) : (applyLines t l s).notices =
    s.notices := by unfold applyLines; rfl
@[simp] theorem applyLines_mgmt (t : MachineTable) (l : BitVec 16) : (applyLines t l s).mgmt =
    s.mgmt := by unfold applyLines; rfl
@[simp] theorem applyLines_ring (t : MachineTable) (l : BitVec 16) : (applyLines t l s).ring =
    s.ring := by unfold applyLines; rfl
@[simp] theorem applyLines_resetHeld (t : MachineTable) (l : BitVec 16) : (applyLines t l s).resetHeld =
    s.resetHeld := by unfold applyLines; rfl
@[simp] theorem applyLines_reply (t : MachineTable) (l : BitVec 16) : (applyLines t l s).reply =
    s.reply := by unfold applyLines; rfl
@[simp] theorem applyLines_freeIndex (t : MachineTable) (l : BitVec 16) : (applyLines t l s).freeIndex =
    s.freeIndex := by unfold applyLines; rfl
@[simp] theorem applyLines_pending (t : MachineTable) (l : BitVec 16) : (applyLines t l s).pending =
    s.pending := by unfold applyLines; rfl

/-! ### applyWatchdog -/

@[simp] theorem applyWatchdog_pos (t : MachineTable) : (applyWatchdog t s).pos = s.pos := rfl
@[simp] theorem applyWatchdog_lines (t : MachineTable) : (applyWatchdog t s).lines = s.lines := rfl
@[simp] theorem applyWatchdog_store (t : MachineTable) : (applyWatchdog t s).store = s.store := rfl
@[simp] theorem applyWatchdog_track (t : MachineTable) : (applyWatchdog t s).track = s.track := rfl
@[simp] theorem applyWatchdog_reg (t : MachineTable) : (applyWatchdog t s).reg = s.reg := rfl
@[simp] theorem applyWatchdog_app (t : MachineTable) : (applyWatchdog t s).app = s.app := rfl
@[simp] theorem applyWatchdog_insp (t : MachineTable) : (applyWatchdog t s).insp = s.insp := rfl
@[simp] theorem applyWatchdog_orders (t : MachineTable) : (applyWatchdog t s).orders = s.orders := rfl
@[simp] theorem applyWatchdog_deliv (t : MachineTable) : (applyWatchdog t s).deliv = s.deliv := rfl
@[simp] theorem applyWatchdog_line (t : MachineTable) : (applyWatchdog t s).line = s.line := rfl
@[simp] theorem applyWatchdog_counters (t : MachineTable) : (applyWatchdog t s).counters = s.counters := rfl
@[simp] theorem applyWatchdog_notices (t : MachineTable) : (applyWatchdog t s).notices = s.notices := rfl
@[simp] theorem applyWatchdog_mgmt (t : MachineTable) : (applyWatchdog t s).mgmt = s.mgmt := rfl
@[simp] theorem applyWatchdog_ring (t : MachineTable) : (applyWatchdog t s).ring =
    { s.ring with watchdogMs := t.general.watchdogMs, watchdog := some s.pos.timebase } := rfl
@[simp] theorem applyWatchdog_resetHeld (t : MachineTable) : (applyWatchdog t s).resetHeld = s.resetHeld := rfl
@[simp] theorem applyWatchdog_reply (t : MachineTable) : (applyWatchdog t s).reply = s.reply := rfl
@[simp] theorem applyWatchdog_freeIndex (t : MachineTable) : (applyWatchdog t s).freeIndex = s.freeIndex := rfl
@[simp] theorem applyWatchdog_pending (t : MachineTable) : (applyWatchdog t s).pending = s.pending := rfl

/-! ### startWork -/

@[simp] theorem startWork_pos (op : LongOp) (k : Fin 8) (b : Bool) : (startWork op k b s).pos = s.pos := rfl
@[simp] theorem startWork_lines (op : LongOp) (k : Fin 8) (b : Bool) : (startWork op k b s).lines = s.lines := rfl
@[simp] theorem startWork_store (op : LongOp) (k : Fin 8) (b : Bool) : (startWork op k b s).store = s.store := rfl
@[simp] theorem startWork_track (op : LongOp) (k : Fin 8) (b : Bool) : (startWork op k b s).track = s.track := rfl
@[simp] theorem startWork_reg (op : LongOp) (k : Fin 8) (b : Bool) : (startWork op k b s).reg = s.reg := rfl
@[simp] theorem startWork_app (op : LongOp) (k : Fin 8) (b : Bool) : (startWork op k b s).app = s.app := rfl
@[simp] theorem startWork_insp (op : LongOp) (k : Fin 8) (b : Bool) : (startWork op k b s).insp = s.insp := rfl
@[simp] theorem startWork_orders (op : LongOp) (k : Fin 8) (b : Bool) : (startWork op k b s).orders = s.orders := rfl
@[simp] theorem startWork_deliv (op : LongOp) (k : Fin 8) (b : Bool) : (startWork op k b s).deliv = s.deliv := rfl
@[simp] theorem startWork_line (op : LongOp) (k : Fin 8) (b : Bool) : (startWork op k b s).line = s.line := rfl
@[simp] theorem startWork_counters (op : LongOp) (k : Fin 8) (b : Bool) : (startWork op k b s).counters =
    s.counters := rfl
@[simp] theorem startWork_notices (op : LongOp) (k : Fin 8) (b : Bool) : (startWork op k b s).notices =
    s.notices := rfl
@[simp] theorem startWork_mgmt (op : LongOp) (k : Fin 8) (b : Bool) : (startWork op k b s).mgmt =
    { s.mgmt with inFlight := some ⟨op, k, s.pos.timebase, b⟩ } := rfl
@[simp] theorem startWork_ring (op : LongOp) (k : Fin 8) (b : Bool) : (startWork op k b s).ring = s.ring := rfl
@[simp] theorem startWork_resetHeld (op : LongOp) (k : Fin 8) (b : Bool) : (startWork op k b s).resetHeld =
    s.resetHeld := rfl
@[simp] theorem startWork_reply (op : LongOp) (k : Fin 8) (b : Bool) : (startWork op k b s).reply = s.reply := rfl
@[simp] theorem startWork_freeIndex (op : LongOp) (k : Fin 8) (b : Bool) : (startWork op k b s).freeIndex =
    s.freeIndex := rfl
@[simp] theorem startWork_pending (op : LongOp) (k : Fin 8) (b : Bool) : (startWork op k b s).pending =
    s.pending := rfl

/-! ### joinList -/

@[simp] theorem joinList_pos (o : Order) : (joinList o s).pos = s.pos := rfl
@[simp] theorem joinList_lines (o : Order) : (joinList o s).lines = s.lines := rfl
@[simp] theorem joinList_store (o : Order) : (joinList o s).store = s.store := rfl
@[simp] theorem joinList_track (o : Order) : (joinList o s).track = s.track := rfl
@[simp] theorem joinList_reg (o : Order) : (joinList o s).reg = s.reg := rfl
@[simp] theorem joinList_app (o : Order) : (joinList o s).app = s.app := rfl
@[simp] theorem joinList_insp (o : Order) : (joinList o s).insp = s.insp := rfl
@[simp] theorem joinList_orders (o : Order) : (joinList o s).orders =
    { s.orders with list := s.orders.list ++ [o], nextId := s.orders.nextId + 1 } := rfl
@[simp] theorem joinList_deliv (o : Order) : (joinList o s).deliv = s.deliv := rfl
@[simp] theorem joinList_line (o : Order) : (joinList o s).line = s.line := rfl
@[simp] theorem joinList_counters (o : Order) : (joinList o s).counters = s.counters := rfl
@[simp] theorem joinList_notices (o : Order) : (joinList o s).notices = s.notices := rfl
@[simp] theorem joinList_mgmt (o : Order) : (joinList o s).mgmt = s.mgmt := rfl
@[simp] theorem joinList_ring (o : Order) : (joinList o s).ring = s.ring := rfl
@[simp] theorem joinList_resetHeld (o : Order) : (joinList o s).resetHeld = s.resetHeld := rfl
@[simp] theorem joinList_reply (o : Order) : (joinList o s).reply = s.reply := rfl
@[simp] theorem joinList_freeIndex (o : Order) : (joinList o s).freeIndex = s.freeIndex := rfl
@[simp] theorem joinList_pending (o : Order) : (joinList o s).pending = s.pending := rfl

/-! ### setForced -/

@[simp] theorem setForced_pos (b : Bool) : (setForced b s).pos = s.pos := rfl
@[simp] theorem setForced_lines (b : Bool) : (setForced b s).lines = s.lines := rfl
@[simp] theorem setForced_store (b : Bool) : (setForced b s).store = s.store := rfl
@[simp] theorem setForced_track (b : Bool) : (setForced b s).track = s.track := rfl
@[simp] theorem setForced_reg (b : Bool) : (setForced b s).reg = s.reg := rfl
@[simp] theorem setForced_app (b : Bool) : (setForced b s).app = s.app := rfl
@[simp] theorem setForced_insp (b : Bool) : (setForced b s).insp = s.insp := rfl
@[simp] theorem setForced_orders (b : Bool) : (setForced b s).orders = { s.orders with forcedHold := b } := rfl
@[simp] theorem setForced_deliv (b : Bool) : (setForced b s).deliv = s.deliv := rfl
@[simp] theorem setForced_line (b : Bool) : (setForced b s).line = s.line := rfl
@[simp] theorem setForced_counters (b : Bool) : (setForced b s).counters = s.counters := rfl
@[simp] theorem setForced_notices (b : Bool) : (setForced b s).notices = s.notices := rfl
@[simp] theorem setForced_mgmt (b : Bool) : (setForced b s).mgmt = s.mgmt := rfl
@[simp] theorem setForced_ring (b : Bool) : (setForced b s).ring = s.ring := rfl
@[simp] theorem setForced_resetHeld (b : Bool) : (setForced b s).resetHeld = s.resetHeld := rfl
@[simp] theorem setForced_reply (b : Bool) : (setForced b s).reply = s.reply := rfl
@[simp] theorem setForced_freeIndex (b : Bool) : (setForced b s).freeIndex = s.freeIndex := rfl
@[simp] theorem setForced_pending (b : Bool) : (setForced b s).pending = s.pending := rfl

/-! ### setCountdown -/

@[simp] theorem setCountdown_pos (n : Nat) : (setCountdown n s).pos = s.pos := rfl
@[simp] theorem setCountdown_lines (n : Nat) : (setCountdown n s).lines = s.lines := rfl
@[simp] theorem setCountdown_store (n : Nat) : (setCountdown n s).store = s.store := rfl
@[simp] theorem setCountdown_track (n : Nat) : (setCountdown n s).track = s.track := rfl
@[simp] theorem setCountdown_reg (n : Nat) : (setCountdown n s).reg = s.reg := rfl
@[simp] theorem setCountdown_app (n : Nat) : (setCountdown n s).app = s.app := rfl
@[simp] theorem setCountdown_insp (n : Nat) : (setCountdown n s).insp = s.insp := rfl
@[simp] theorem setCountdown_orders (n : Nat) : (setCountdown n s).orders = { s.orders with countdown := n } := rfl
@[simp] theorem setCountdown_deliv (n : Nat) : (setCountdown n s).deliv = s.deliv := rfl
@[simp] theorem setCountdown_line (n : Nat) : (setCountdown n s).line = s.line := rfl
@[simp] theorem setCountdown_counters (n : Nat) : (setCountdown n s).counters = s.counters := rfl
@[simp] theorem setCountdown_notices (n : Nat) : (setCountdown n s).notices = s.notices := rfl
@[simp] theorem setCountdown_mgmt (n : Nat) : (setCountdown n s).mgmt = s.mgmt := rfl
@[simp] theorem setCountdown_ring (n : Nat) : (setCountdown n s).ring = s.ring := rfl
@[simp] theorem setCountdown_resetHeld (n : Nat) : (setCountdown n s).resetHeld = s.resetHeld := rfl
@[simp] theorem setCountdown_reply (n : Nat) : (setCountdown n s).reply = s.reply := rfl
@[simp] theorem setCountdown_freeIndex (n : Nat) : (setCountdown n s).freeIndex = s.freeIndex := rfl
@[simp] theorem setCountdown_pending (n : Nat) : (setCountdown n s).pending = s.pending := rfl

/-! ### awaitReset -/

@[simp] theorem awaitReset_pos (b : Bool) : (awaitReset b s).pos = s.pos := rfl
@[simp] theorem awaitReset_lines (b : Bool) : (awaitReset b s).lines = s.lines := rfl
@[simp] theorem awaitReset_store (b : Bool) : (awaitReset b s).store = s.store := rfl
@[simp] theorem awaitReset_track (b : Bool) : (awaitReset b s).track = s.track := rfl
@[simp] theorem awaitReset_reg (b : Bool) : (awaitReset b s).reg = s.reg := rfl
@[simp] theorem awaitReset_app (b : Bool) : (awaitReset b s).app = s.app := rfl
@[simp] theorem awaitReset_insp (b : Bool) : (awaitReset b s).insp = s.insp := rfl
@[simp] theorem awaitReset_orders (b : Bool) : (awaitReset b s).orders = s.orders := rfl
@[simp] theorem awaitReset_deliv (b : Bool) : (awaitReset b s).deliv = s.deliv := rfl
@[simp] theorem awaitReset_line (b : Bool) : (awaitReset b s).line =
    { s.line with reset := if b then .inFrame else .due } := rfl
@[simp] theorem awaitReset_counters (b : Bool) : (awaitReset b s).counters = s.counters := rfl
@[simp] theorem awaitReset_notices (b : Bool) : (awaitReset b s).notices = s.notices := rfl
@[simp] theorem awaitReset_mgmt (b : Bool) : (awaitReset b s).mgmt = s.mgmt := rfl
@[simp] theorem awaitReset_ring (b : Bool) : (awaitReset b s).ring = s.ring := rfl
@[simp] theorem awaitReset_resetHeld (b : Bool) : (awaitReset b s).resetHeld = s.resetHeld := rfl
@[simp] theorem awaitReset_reply (b : Bool) : (awaitReset b s).reply = s.reply := rfl
@[simp] theorem awaitReset_freeIndex (b : Bool) : (awaitReset b s).freeIndex = s.freeIndex := rfl
@[simp] theorem awaitReset_pending (b : Bool) : (awaitReset b s).pending = s.pending := rfl

/-! ### snapshot -/

@[simp] theorem snapshot_pos : (snapshot s).pos = s.pos := rfl
@[simp] theorem snapshot_lines : (snapshot s).lines = s.lines := rfl
@[simp] theorem snapshot_store : (snapshot s).store = s.store := rfl
@[simp] theorem snapshot_track : (snapshot s).track = s.track := rfl
@[simp] theorem snapshot_reg : (snapshot s).reg = s.reg := rfl
@[simp] theorem snapshot_app : (snapshot s).app = s.app := rfl
@[simp] theorem snapshot_insp : (snapshot s).insp = s.insp := rfl
@[simp] theorem snapshot_orders : (snapshot s).orders = s.orders := rfl
@[simp] theorem snapshot_deliv : (snapshot s).deliv = s.deliv := rfl
@[simp] theorem snapshot_line : (snapshot s).line = s.line := rfl
@[simp] theorem snapshot_counters : (snapshot s).counters =
    { s.counters with buffer := s.counters.live, valid := true } := rfl
@[simp] theorem snapshot_notices : (snapshot s).notices = s.notices := rfl
@[simp] theorem snapshot_mgmt : (snapshot s).mgmt = s.mgmt := rfl
@[simp] theorem snapshot_ring : (snapshot s).ring = s.ring := rfl
@[simp] theorem snapshot_resetHeld : (snapshot s).resetHeld = s.resetHeld := rfl
@[simp] theorem snapshot_reply : (snapshot s).reply = s.reply := rfl
@[simp] theorem snapshot_freeIndex : (snapshot s).freeIndex = s.freeIndex := rfl
@[simp] theorem snapshot_pending : (snapshot s).pending = s.pending := rfl

/-! ### dropNotices -/

@[simp] theorem dropNotices_pos : (dropNotices s).pos = s.pos := rfl
@[simp] theorem dropNotices_lines : (dropNotices s).lines = s.lines := rfl
@[simp] theorem dropNotices_store : (dropNotices s).store = s.store := rfl
@[simp] theorem dropNotices_track : (dropNotices s).track = s.track := rfl
@[simp] theorem dropNotices_reg : (dropNotices s).reg = s.reg := rfl
@[simp] theorem dropNotices_app : (dropNotices s).app = s.app := rfl
@[simp] theorem dropNotices_insp : (dropNotices s).insp = s.insp := rfl
@[simp] theorem dropNotices_orders : (dropNotices s).orders = s.orders := rfl
@[simp] theorem dropNotices_deliv : (dropNotices s).deliv = s.deliv := rfl
@[simp] theorem dropNotices_line : (dropNotices s).line = s.line := rfl
@[simp] theorem dropNotices_counters : (dropNotices s).counters = s.counters := rfl
@[simp] theorem dropNotices_mgmt : (dropNotices s).mgmt = s.mgmt := rfl
@[simp] theorem dropNotices_ring : (dropNotices s).ring = s.ring := rfl
@[simp] theorem dropNotices_resetHeld : (dropNotices s).resetHeld = s.resetHeld := rfl
@[simp] theorem dropNotices_reply : (dropNotices s).reply = s.reply := rfl
@[simp] theorem dropNotices_freeIndex : (dropNotices s).freeIndex = s.freeIndex := rfl
@[simp] theorem dropNotices_pending : (dropNotices s).pending = s.pending := rfl

/-! ### forwardFrame -/

@[simp] theorem forwardFrame_pos (f : List Byte) : (forwardFrame f s).pos = s.pos := rfl
@[simp] theorem forwardFrame_lines (f : List Byte) : (forwardFrame f s).lines = s.lines := rfl
@[simp] theorem forwardFrame_store (f : List Byte) : (forwardFrame f s).store = s.store := rfl
@[simp] theorem forwardFrame_track (f : List Byte) : (forwardFrame f s).track = s.track := rfl
@[simp] theorem forwardFrame_reg (f : List Byte) : (forwardFrame f s).reg = s.reg := rfl
@[simp] theorem forwardFrame_app (f : List Byte) : (forwardFrame f s).app = s.app := rfl
@[simp] theorem forwardFrame_insp (f : List Byte) : (forwardFrame f s).insp = s.insp := rfl
@[simp] theorem forwardFrame_orders (f : List Byte) : (forwardFrame f s).orders = s.orders := rfl
@[simp] theorem forwardFrame_deliv (f : List Byte) : (forwardFrame f s).deliv = s.deliv := rfl
@[simp] theorem forwardFrame_line (f : List Byte) : (forwardFrame f s).line =
    { s.line with reset := if s.line.reset = .inFrame then .due else s.line.reset } := rfl
@[simp] theorem forwardFrame_counters (f : List Byte) : (forwardFrame f s).counters = s.counters := rfl
@[simp] theorem forwardFrame_notices (f : List Byte) : (forwardFrame f s).notices = s.notices := rfl
@[simp] theorem forwardFrame_mgmt (f : List Byte) : (forwardFrame f s).mgmt =
    { s.mgmt with inFlight := s.mgmt.inFlight.map (fun o => { o with carried := false }) } := rfl
@[simp] theorem forwardFrame_ring (f : List Byte) : (forwardFrame f s).ring =
    { s.ring with sent := withCheck f, passage := none } := rfl
@[simp] theorem forwardFrame_resetHeld (f : List Byte) : (forwardFrame f s).resetHeld = s.resetHeld := rfl
@[simp] theorem forwardFrame_reply (f : List Byte) : (forwardFrame f s).reply = s.reply := rfl
@[simp] theorem forwardFrame_freeIndex (f : List Byte) : (forwardFrame f s).freeIndex = s.freeIndex := rfl
@[simp] theorem forwardFrame_pending (f : List Byte) : (forwardFrame f s).pending = s.pending := rfl

/-! ### microsecond -/

@[simp] theorem microsecond_pos : (microsecond s).pos = { s.pos with timebase := s.pos.timebase + 1#32 } := rfl
@[simp] theorem microsecond_lines : (microsecond s).lines = s.lines := rfl
@[simp] theorem microsecond_store : (microsecond s).store = s.store := rfl
@[simp] theorem microsecond_track : (microsecond s).track = s.track := rfl
@[simp] theorem microsecond_reg : (microsecond s).reg = s.reg := rfl
@[simp] theorem microsecond_app : (microsecond s).app = s.app := rfl
@[simp] theorem microsecond_insp : (microsecond s).insp = s.insp := rfl
@[simp] theorem microsecond_orders : (microsecond s).orders = s.orders := rfl
@[simp] theorem microsecond_deliv : (microsecond s).deliv = s.deliv := rfl
@[simp] theorem microsecond_line : (microsecond s).line = s.line := rfl
@[simp] theorem microsecond_counters : (microsecond s).counters = s.counters := rfl
@[simp] theorem microsecond_notices : (microsecond s).notices = s.notices := rfl
@[simp] theorem microsecond_mgmt : (microsecond s).mgmt = s.mgmt := rfl
@[simp] theorem microsecond_ring : (microsecond s).ring = s.ring := rfl
@[simp] theorem microsecond_resetHeld : (microsecond s).resetHeld = s.resetHeld := rfl
@[simp] theorem microsecond_reply : (microsecond s).reply = s.reply := rfl
@[simp] theorem microsecond_freeIndex : (microsecond s).freeIndex = s.freeIndex := rfl
@[simp] theorem microsecond_pending : (microsecond s).pending = s.pending := rfl

/-! ### advance -/

@[simp] theorem advance_lines : (advance s).lines = s.lines := rfl
@[simp] theorem advance_store : (advance s).store = s.store := rfl
@[simp] theorem advance_track : (advance s).track = s.track := rfl
@[simp] theorem advance_reg : (advance s).reg = s.reg := rfl
@[simp] theorem advance_app : (advance s).app = s.app := rfl
@[simp] theorem advance_insp : (advance s).insp = s.insp := rfl
@[simp] theorem advance_orders : (advance s).orders = s.orders := rfl
@[simp] theorem advance_deliv : (advance s).deliv = s.deliv := rfl
@[simp] theorem advance_line : (advance s).line = s.line := rfl
@[simp] theorem advance_counters : (advance s).counters = s.counters := rfl
@[simp] theorem advance_notices : (advance s).notices = s.notices := rfl
@[simp] theorem advance_mgmt : (advance s).mgmt = s.mgmt := rfl
@[simp] theorem advance_ring : (advance s).ring = s.ring := rfl
@[simp] theorem advance_resetHeld : (advance s).resetHeld = s.resetHeld := rfl
@[simp] theorem advance_reply : (advance s).reply = s.reply := rfl
@[simp] theorem advance_freeIndex : (advance s).freeIndex = s.freeIndex := rfl
@[simp] theorem advance_pending : (advance s).pending = s.pending := rfl

end Sys2Proof.Machine
end

