-- ==== Sys2Proof/Laws/Frames.lean ====
section
/-! SUPPORT. Frames. For each shared operation, once, the fields of the state that it can touch; every other field is as
it was. `(report_touches f s).pending` and its like are what later proofs cite instead of unfolding. -/

namespace Sys2Proof.Machine

/-- The fields of the state. -/
inductive StateField where
  | pos | lines | store | track | reg | app | insp | orders | deliv
  | line | counters | notices | mgmt | ring | resetHeld | reply | freeIndex | pending
  deriving DecidableEq, Repr

/-- Two states agree in a field. -/
def StateField.agrees (s t : State) : StateField → Prop
  | .pos => t.pos = s.pos
  | .lines => t.lines = s.lines
  | .store => t.store = s.store
  | .track => t.track = s.track
  | .reg => t.reg = s.reg
  | .app => t.app = s.app
  | .insp => t.insp = s.insp
  | .orders => t.orders = s.orders
  | .deliv => t.deliv = s.deliv
  | .line => t.line = s.line
  | .counters => t.counters = s.counters
  | .notices => t.notices = s.notices
  | .mgmt => t.mgmt = s.mgmt
  | .ring => t.ring = s.ring
  | .resetHeld => t.resetHeld = s.resetHeld
  | .reply => t.reply = s.reply
  | .freeIndex => t.freeIndex = s.freeIndex
  | .pending => t.pending = s.pending

/-- State `t` differs from `s` in fields of the list alone. -/
def Touches (fs : List StateField) (s t : State) : Prop := ∀ f : StateField, f ∉ fs → f.agrees s t

theorem Touches.refl (fs : List StateField) (s : State) : Touches fs s s := by
  intro f _; cases f <;> rfl

theorem StateField.agrees_trans {s t u : State} {f : StateField} (h : f.agrees s t) (k : f.agrees t u) :
    f.agrees s u := by
  cases f <;> exact Eq.trans k h

theorem Touches.trans {fs : List StateField} {s t u : State} (h : Touches fs s t) (k : Touches fs t u) :
    Touches fs s u := fun f hf => StateField.agrees_trans (h f hf) (k f hf)

theorem Touches.mono {fs gs : List StateField} {s t : State} (h : Touches fs s t) (k : fs ⊆ gs) : Touches gs s t :=
  fun f hf => h f (fun hm => hf (k hm))

/-- One after the other, within a list that holds both. -/
theorem Touches.andThen {fs gs hs : List StateField} {s t u : State} (h : Touches fs s t) (k : Touches gs t u)
    (hf : fs ⊆ hs) (hg : gs ⊆ hs) : Touches hs s u := (h.mono hf).trans (k.mono hg)

/-- What a fold touches is what each of its steps touches. -/
theorem Touches.foldl {α : Type} {fs : List StateField} {g : State → α → State} (h : ∀ t x, Touches fs t (g t x)) :
    ∀ (xs : List α) (s : State), Touches fs s (xs.foldl g s)
  | [], s => .refl fs s
  | x :: xs, s => (h s x).trans (Touches.foldl h xs (g s x))

/-- A choice touches what its branches touch. -/
theorem Touches.ite {p : Prop} [Decidable p] {fs : List StateField} {s t u : State} (h : p → Touches fs s t)
    (k : ¬p → Touches fs s u) : Touches fs s (if p then t else u) := by
  split
  · exact h ‹_›
  · exact k ‹_›

theorem Touches.pos {fs : List StateField} {s t : State} (h : Touches fs s t)
    (k : .pos ∉ fs := by decide) : t.pos = s.pos := h .pos k
theorem Touches.lines {fs : List StateField} {s t : State} (h : Touches fs s t)
    (k : .lines ∉ fs := by decide) : t.lines = s.lines := h .lines k
theorem Touches.store {fs : List StateField} {s t : State} (h : Touches fs s t)
    (k : .store ∉ fs := by decide) : t.store = s.store := h .store k
theorem Touches.track {fs : List StateField} {s t : State} (h : Touches fs s t)
    (k : .track ∉ fs := by decide) : t.track = s.track := h .track k
theorem Touches.reg {fs : List StateField} {s t : State} (h : Touches fs s t)
    (k : .reg ∉ fs := by decide) : t.reg = s.reg := h .reg k
theorem Touches.app {fs : List StateField} {s t : State} (h : Touches fs s t)
    (k : .app ∉ fs := by decide) : t.app = s.app := h .app k
theorem Touches.insp {fs : List StateField} {s t : State} (h : Touches fs s t)
    (k : .insp ∉ fs := by decide) : t.insp = s.insp := h .insp k
theorem Touches.orders {fs : List StateField} {s t : State} (h : Touches fs s t)
    (k : .orders ∉ fs := by decide) : t.orders = s.orders := h .orders k
theorem Touches.deliv {fs : List StateField} {s t : State} (h : Touches fs s t)
    (k : .deliv ∉ fs := by decide) : t.deliv = s.deliv := h .deliv k
theorem Touches.line {fs : List StateField} {s t : State} (h : Touches fs s t)
    (k : .line ∉ fs := by decide) : t.line = s.line := h .line k
theorem Touches.counters {fs : List StateField} {s t : State} (h : Touches fs s t)
    (k : .counters ∉ fs := by decide) : t.counters = s.counters := h .counters k
theorem Touches.notices {fs : List StateField} {s t : State} (h : Touches fs s t)
    (k : .notices ∉ fs := by decide) : t.notices = s.notices := h .notices k
theorem Touches.mgmt {fs : List StateField} {s t : State} (h : Touches fs s t)
    (k : .mgmt ∉ fs := by decide) : t.mgmt = s.mgmt := h .mgmt k
theorem Touches.ring {fs : List StateField} {s t : State} (h : Touches fs s t)
    (k : .ring ∉ fs := by decide) : t.ring = s.ring := h .ring k
theorem Touches.resetHeld {fs : List StateField} {s t : State} (h : Touches fs s t)
    (k : .resetHeld ∉ fs := by decide) : t.resetHeld = s.resetHeld := h .resetHeld k
theorem Touches.reply {fs : List StateField} {s t : State} (h : Touches fs s t)
    (k : .reply ∉ fs := by decide) : t.reply = s.reply := h .reply k
theorem Touches.freeIndex {fs : List StateField} {s t : State} (h : Touches fs s t)
    (k : .freeIndex ∉ fs := by decide) : t.freeIndex = s.freeIndex := h .freeIndex k
theorem Touches.pending {fs : List StateField} {s t : State} (h : Touches fs s t)
    (k : .pending ∉ fs := by decide) : t.pending = s.pending := h .pending k

/-! ## Plain changes -/

theorem schedule_touches (e : Pending) (s : State) : Touches [.pos] s (schedule e s) := by
  intro f hf; cases f <;> first | exact absurd (by decide) hf | (simp [StateField.agrees])
theorem withdraw_touches (p : Scheduled → Bool) (s : State) : Touches [.pos] s (withdraw p s) := by
  intro f hf; cases f <;> first | exact absurd (by decide) hf | (simp [StateField.agrees])
theorem dropFired_touches (p : Recurring → Bool) (s : State) : Touches [.pos] s (dropFired p s) := by
  intro f hf; cases f <;> first | exact absurd (by decide) hf | (simp [StateField.agrees])
theorem rebase_touches (s : State) : Touches [.pos] s (rebase s) := by
  intro f hf; cases f <;> first | exact absurd (by decide) hf | (simp [StateField.agrees])
theorem count_touches (c : Counter) (s : State) : Touches [.counters] s (count c s) := by
  intro f hf; cases f <;> first | exact absurd (by decide) hf | (simp [StateField.agrees])
theorem modifySlot_touches (k : Fin 8) (f : Slot → Slot) (s : State) : Touches [.store] s (modifySlot k f s) := by
  intro f hf; cases f <;> first | exact absurd (by decide) hf | (simp [StateField.agrees])
theorem refUp_touches (k : Fin 8) (s : State) : Touches [.store] s (refUp k s) := by
  intro f hf; cases f <;> first | exact absurd (by decide) hf | (simp [StateField.agrees])
theorem refDown_touches (k : Fin 8) (s : State) : Touches [.store] s (refDown k s) := by
  intro f hf; cases f <;> first | exact absurd (by decide) hf | (simp [StateField.agrees])
theorem amendRecord_touches (q : U32) (f : Record → Record) (s : State) : Touches [.track] s (amendRecord q f s) := by
  intro f hf; cases f <;> first | exact absurd (by decide) hf | (simp [StateField.agrees])
theorem modifyOrder_touches (t : Nat) (f : Order → Order) (s : State) : Touches [.orders] s (modifyOrder t f s) := by
  intro f hf; cases f <;> first | exact absurd (by decide) hf | (simp [StateField.agrees])
theorem setHeld_touches (h : Fin 16 → Option Bool) (s : State) : Touches [.lines] s (setHeld h s) := by
  intro f hf; cases f <;> first | exact absurd (by decide) hf | (simp [StateField.agrees])
theorem setRun_touches (r : RunState) (s : State) : Touches [.line] s (setRun r s) := by
  intro f hf; cases f <;> first | exact absurd (by decide) hf | (simp [StateField.agrees])
theorem enterHalted_touches (s : State) : Touches [.line, .lines] s (enterHalted s) := by
  intro f hf; cases f <;> first | exact absurd (by decide) hf | (simp [StateField.agrees])
theorem leaveHalted_touches (r : RunState) (s : State) : Touches [.line, .lines] s (leaveHalted r s) := by
  intro f hf; cases f <;> first | exact absurd (by decide) hf | (simp [StateField.agrees])
theorem latch_touches (f : FaultKind) (s : State) : Touches [.line] s (latch f s) := by
  intro f hf; cases f <;> first | exact absurd (by decide) hf | (simp [StateField.agrees])
theorem unlatch_touches (f : FaultKind) (s : State) : Touches [.line] s (unlatch f s) := by
  intro f hf; cases f <;> first | exact absurd (by decide) hf | (simp [StateField.agrees])
theorem setLevel_touches (l : Fin 16) (v : Bool) (s : State) : Touches [.lines] s (setLevel l v s) := by
  intro f hf; cases f <;> first | exact absurd (by decide) hf | (simp [StateField.agrees])
theorem modifyChannel_touches (k : Fin 12) (f : AppChannel → AppChannel) (s : State) :
    Touches [.app] s (modifyChannel k f s) := by
  intro f hf; cases f <;> first | exact absurd (by decide) hf | (simp [StateField.agrees])
theorem idleChannel_touches (k : Fin 12) (s : State) : Touches [.app] s (idleChannel k s) := by
  intro f hf; cases f <;> first | exact absurd (by decide) hf | (simp [StateField.agrees])
theorem modifyInsp_touches (j : Fin 8) (f : InspChannel → InspChannel) (s : State) :
    Touches [.insp] s (modifyInsp j f s) := by
  intro f hf; cases f <;> first | exact absurd (by decide) hf | (simp [StateField.agrees])
theorem announceApp_touches (r : Record) (s : State) : Touches [.app, .pos] s (announceApp r s) := by
  intro f hf; cases f <;> first | exact absurd (by decide) hf | (simp [StateField.agrees])
theorem announceInsp_touches (r : Record) (s : State) : Touches [.pos] s (announceInsp r s) := by
  intro f hf; cases f <;> first | exact absurd (by decide) hf | (simp [StateField.agrees])
theorem announceDelivery_touches (r : Record) (s : State) : Touches [.pos] s (announceDelivery r s) := by
  intro f hf; cases f <;> first | exact absurd (by decide) hf | (simp [StateField.agrees])
theorem moveEvents_touches (s : State) : Touches [.pos] s (moveEvents s) := by
  intro f hf; cases f <;> first | exact absurd (by decide) hf | (simp [StateField.agrees])
theorem setFeed_touches (f : FeedState) (s : State) : Touches [.orders] s (setFeed f s) := by
  intro f hf; cases f <;> first | exact absurd (by decide) hf | (simp [StateField.agrees])
theorem removeOrder_touches (t : Nat) (s : State) : Touches [.orders] s (removeOrder t s) := by
  intro f hf; cases f <;> first | exact absurd (by decide) hf | (simp [StateField.agrees])
theorem rebuildProjection_touches (s : State) : Touches [.deliv] s (rebuildProjection s) := by
  intro f hf; cases f <;> first | exact absurd (by decide) hf | (simp [StateField.agrees])
theorem startSeparator_touches (s : State) : Touches [.deliv, .pos] s (startSeparator s) := by
  intro f hf; cases f <;> first | exact absurd (by decide) hf | (simp [StateField.agrees])
theorem logBox_touches (b : Box) (why : CloseReason) (s : State) : Touches [.deliv] s (logBox b why s) := by
  intro f hf; cases f <;> first | exact absurd (by decide) hf | (simp [StateField.agrees])
theorem creditOrder_touches (b : Box) (s : State) : Touches [.orders] s (creditOrder b s) := by
  intro f hf; cases f <;> first | exact absurd (by decide) hf | (simp [StateField.agrees])
theorem setFeedGate_touches (b : Bool) (s : State) : Touches [.orders] s (setFeedGate b s) := by
  intro f hf; cases f <;> first | exact absurd (by decide) hf | (simp [StateField.agrees])
theorem countdownStep_touches (s : State) : Touches [.orders] s (countdownStep s) := by
  intro f hf; cases f <;> first | exact absurd (by decide) hf | (simp [StateField.agrees])
theorem createRecord_touches (r : Record) (s : State) : Touches [.track, .store, .counters] s (createRecord r s) := by
  intro f hf; cases f <;> first | exact absurd (by decide) hf | (simp [StateField.agrees])
theorem bumpFree_touches (s : State) : Touches [.freeIndex] s (bumpFree s) := by
  intro f hf; cases f <;> first | exact absurd (by decide) hf | (simp [StateField.agrees])
theorem endRejectGate_touches (s : State) : Touches [.deliv] s (endRejectGate s) := by
  intro f hf; cases f <;> first | exact absurd (by decide) hf | (simp [StateField.agrees])
theorem endSeparator_touches (s : State) : Touches [.deliv] s (endSeparator s) := by
  intro f hf; cases f <;> first | exact absurd (by decide) hf | (simp [StateField.agrees])
theorem placeAt_touches (a : Nat) (s : State) : Touches [.pos] s (placeAt a s) := by
  intro f hf; cases f <;> first | exact absurd (by decide) hf | (simp [StateField.agrees])
theorem advance_touches (s : State) : Touches [.pos] s (advance s) := by
  intro f hf; cases f <;> first | exact absurd (by decide) hf | (simp [StateField.agrees])
theorem microsecond_touches (s : State) : Touches [.pos] s (microsecond s) := by
  intro f hf; cases f <;> first | exact absurd (by decide) hf | (simp [StateField.agrees])
theorem forwardFrame_touches (f : List Byte) (s : State) : Touches [.ring, .mgmt, .line] s (forwardFrame f s) := by
  intro f hf; cases f <;> first | exact absurd (by decide) hf | (simp [StateField.agrees])

/-! ## Reports, lines and register -/

theorem offer_touches (n : Notice) (s : State) : Touches [.notices] s (offer n s) := by
  unfold offer
  split <;> (intro f hf; cases f <;> first | exact absurd (by decide) hf | rfl)

theorem countAll_touches (cs : List Counter) (s : State) : Touches [.counters] s (countAll cs s) :=
  .foldl (fun t c => count_touches c t) cs s

theorem report_touches (f : FaultKind) (s : State) : Touches [.line, .lines, .notices] s (report f s) := by
  have h := (latch_touches f s).andThen (hs := [.line, .lines, .notices]) (offer_touches (.fault f) (latch f s))
    (by decide) (by decide)
  unfold report
  split
  · exact .refl _ s
  · exact .ite (fun _ => h.trans ((enterHalted_touches _).mono (by decide))) (fun _ => h)

theorem switchTo_touches (src : Option (Fin 8)) (s : State) : Touches [.reg, .pos] s (switchTo src s) := by
  have h : Touches [.reg, .pos] s
      { s with reg := { switchedUnit (sectionInForce s) (sectionOf s src) s.reg with source := src } } := by
    intro f hf; cases f <;> first | exact absurd (by decide) hf | rfl
  exact .ite (fun _ => h) (fun _ => h.trans ((dropFired_touches _ _).mono (by decide)))

theorem updateSource_touches (s : State) : Touches [.reg, .pos] s (updateSource s) :=
  .ite (fun _ => .refl _ s) (fun _ => switchTo_touches _ s)

theorem setReg_touches (r : RegisterUnit) (s : State) : Touches [.reg] s { s with reg := r } := by
  intro f hf; cases f <;> first | exact absurd (by decide) hf | rfl

theorem closeCapture_touches (g : RegisterSettings) (w : CaptureWindow) (s : State) :
    Touches [.reg, .counters] s (closeCapture g w s) := by
  unfold closeCapture
  split
  · exact .ite (fun _ => (setReg_touches _ s).mono (by decide))
      (fun _ => (setReg_touches _ s).andThen (count_touches _ _) (by decide) (by decide))
  · exact (setReg_touches _ s).andThen (count_touches _ _) (by decide) (by decide)

theorem closeWindow_touches (s : State) : Touches [.reg, .counters] s (closeWindow s) := by
  unfold closeWindow
  split
  · exact .ite (fun _ => .refl _ s) (fun _ => closeCapture_touches _ _ s)
  · exact .refl _ s

theorem armWindow_touches (p : U32) (s : State) : Touches [.reg] s (armWindow p s) := by
  unfold armWindow
  split
  · exact .refl _ s
  · exact setReg_touches _ s

theorem markEdge_touches (l : Fin 16) (s : State) : Touches [.reg] s (markEdge l s) := by
  unfold markEdge
  split
  · exact .ite (fun _ => setReg_touches _ s) (fun _ => .refl _ s)
  · exact .refl _ s

/-! ## Application channels -/

theorem endApplications_touches (q : U32) (p : Nat → Bool) (s : State) : Touches [.app] s (endApplications q p s) :=
  .foldl (fun t k => .ite (fun _ => idleChannel_touches k t) (fun _ => .refl _ t)) allApps s

theorem defectHandOver_touches (q : U32) (s : State) : Touches [.pos, .app] s (defectHandOver q s) := by
  unfold defectHandOver
  split
  · exact .refl _ s
  · exact .ite (fun _ => (withdraw_touches _ s).andThen (endApplications_touches _ _ _) (by decide) (by decide))
      (fun _ => .refl _ s)

theorem addDefect_touches (q : U32) (c : DefectClass) (s : State) :
    Touches [.track, .pos, .app] s (addDefect q c s) := by
  unfold addDefect
  split
  · exact .refl _ s
  · exact (amendRecord_touches _ _ s).andThen (defectHandOver_touches _ _) (by decide) (by decide)

theorem setBlanks_touches (b : List BlankEntry) (s : State) :
    Touches [.app] s { s with app := { s.app with blanks := b } } := by
  intro f hf; cases f <;> first | exact absurd (by decide) hf | rfl

theorem removalApp_touches (q : U32) (s : State) : Touches [.pos, .app] s (removalApp q s) :=
  ((withdraw_touches _ s).andThen (hs := [.pos, .app]) (endApplications_touches q _ _) (by decide) (by decide)).trans
    ((setBlanks_touches _ _).mono (by decide))

theorem suppress_touches (q : U32) (k : Fin 12) (s : State) : Touches [.track, .pos, .app] s (suppress q k s) := by
  unfold suppress
  simp only
  split
  · exact (amendRecord_touches _ _ s).andThen (addDefect_touches _ _ _) (by decide) (by decide)
  · exact (amendRecord_touches _ _ s).mono (by decide)

theorem countGum_touches (q : U32) (s : State) : Touches [.app, .counters] s (countGum q s) :=
  .ite (fun _ => .refl _ s)
    (fun _ => (setBlanks_touches _ s).andThen (count_touches _ _) (by decide) (by decide))

theorem displace_touches (q : U32) (k : Fin 12) (s : State) : Touches [.pos] s (displace q k s) := by
  unfold displace
  split
  · exact .ite (fun _ => .refl _ s) (fun _ => withdraw_touches _ s)
  · exact .refl _ s

theorem applyPair_touches (r : Record) (k : Fin 12) (i : Nat) (e : CamEntry) (dot : Nat) (s : State) :
    Touches [.track, .pos, .app] s (applyPair r k i e dot s) :=
  (((displace_touches r.seq k s).andThen (hs := [.track, .pos, .app]) (modifyChannel_touches k _ _) (by decide)
    (by decide)).trans ((amendRecord_touches r.seq _ _).mono (by decide))).trans
    ((schedule_touches _ _).mono (by decide))

theorem judgeOn_touches (q : U32) (k : Fin 12) (i dot : Nat) (s : State) :
    Touches [.track, .pos, .app, .counters] s (judgeOn q k i dot s) := by
  unfold judgeOn
  split
  · exact .refl _ s
  · split
    · exact .refl _ s
    · exact .ite (fun _ => .refl _ s) (fun _ => .ite (fun _ => (suppress_touches q k s).mono (by decide))
        (fun _ => .ite (fun _ => (suppress_touches q k s).andThen (countGum_touches q _) (by decide) (by decide))
          (fun _ => (applyPair_touches _ _ _ _ _ s).mono (by decide))))

theorem judgeOff_touches (q : U32) (k : Fin 12) (i dot : Nat) (s : State) :
    Touches [.app] s (judgeOff q k i dot s) := by
  unfold judgeOff
  split
  · exact .ite (fun _ => idleChannel_touches k s) (fun _ => .refl _ s)
  · exact .refl _ s

theorem judgeApp_touches (e : Scheduled) (s : State) :
    Touches [.track, .pos, .app, .counters] s (judgeApp e s) := by
  unfold judgeApp
  split
  · exact judgeOn_touches _ _ _ _ s
  · exact (judgeOff_touches _ _ _ _ s).mono (by decide)
  · exact .refl _ s

theorem computeLeads_touches (p : Fin 12 → Bool) (s : State) : Touches [.app] s (computeLeads p s) :=
  .foldl (fun t k => .ite (fun _ => modifyChannel_touches k _ t) (fun _ => .refl _ t)) allApps s

theorem setSchedule_touches (l : List Pending) (s : State) :
    Touches [.pos] s { s with pos := { s.pos with schedule := l } } := by
  intro f hf; cases f <;> first | exact absurd (by decide) hf | rfl

theorem setDue_touches (l : List Fired) (s : State) : Touches [.pos] s { s with pos := { s.pos with due := l } } := by
  intro f hf; cases f <;> first | exact absurd (by decide) hf | rfl

theorem fireDueApps_touches : ∀ (n : Nat) (s : State), Touches [.track, .pos, .app, .counters] s (fireDueApps n s)
  | 0, s => .refl _ s
  | n + 1, s => by
    unfold fireDueApps
    split
    · exact .refl _ s
    · exact ((setSchedule_touches _ s).andThen (hs := [.track, .pos, .app, .counters]) (judgeApp_touches _ _)
        (by decide) (by decide)).trans (fireDueApps_touches n _)

theorem takeFiredApps_touches (s : State) : Touches [.track, .pos, .app, .counters] s (takeFiredApps s) :=
  fireDueApps_touches _ s

theorem recomputeLeads_touches (s : State) : Touches [.track, .pos, .app, .counters] s (recomputeLeads s) := by
  unfold recomputeLeads
  exact ((takeFiredApps_touches s).trans
    ((computeLeads_touches _ _).andThen (hs := [.track, .pos, .app, .counters]) (moveEvents_touches _) (by decide)
      (by decide))).trans (takeFiredApps_touches _)

/-! ## Inspection channels -/

theorem removalInsp_touches (q : U32) (s : State) : Touches [.pos, .insp] s (removalInsp q s) :=
  (withdraw_touches _ s).andThen (fs := [.pos]) (gs := [.insp])
    (.foldl (fun t j => .ite (fun _ => modifyInsp_touches j _ t) (fun _ => .refl _ t)) allInsps _) (by decide)
    (by decide)

theorem makeResult_touches (j : Fin 8) (x : InspResult) (s : State) : Touches [.insp] s (makeResult j x s) :=
  modifyInsp_touches j _ s

theorem setValue_touches (q : U32) (j : Fin 8) (v : Nat) (s : State) : Touches [.track] s (setValue q j v s) :=
  amendRecord_touches q _ s

theorem completeMeasurement_touches (j : Fin 8) (r : Record) (v : Nat) (s : State) :
    Touches [.track, .pos, .app, .insp] s (completeMeasurement j r v s) := by
  have h := (setValue_touches r.seq j v s).mono (gs := [.track, .pos, .app, .insp]) (by decide)
  have k : Touches [.track, .pos, .app, .insp] s (if within (settingOf s r j).low (settingOf s r j).high v = true
      then setValue r.seq j v s else addDefect r.seq (settingOf s r j).cls (setValue r.seq j v s)) :=
    .ite (fun _ => h) (fun _ => h.trans ((addDefect_touches _ _ _).mono (by decide)))
  exact (k.trans ((makeResult_touches j _ _).mono (by decide))).trans ((modifyInsp_touches j _ _).mono (by decide))

theorem openMeasurement_touches (j : Fin 8) (q : U32) (x : Pos) (s : State) :
    Touches [.insp] s (openMeasurement j q x s) := by
  unfold openMeasurement
  split
  · exact .refl _ s
  · exact modifyInsp_touches j _ s

theorem endMeasurement_touches (j : Fin 8) (q : U32) (s : State) :
    Touches [.track, .pos, .app, .insp] s (endMeasurement j q s) := by
  unfold endMeasurement
  split
  · exact .ite (fun _ => completeMeasurement_touches _ _ _ s) (fun _ => .refl _ s)
  · exact .refl _ s

theorem sampleMeasurement_touches (j : Fin 8) (q : U32) (z : Int) (s : State) :
    Touches [.track, .pos, .app, .insp] s (sampleMeasurement j q z s) := by
  unfold sampleMeasurement
  split
  · exact .refl _ s
  · exact completeMeasurement_touches _ _ _ s

theorem inspEdge_touches (l : Fin 16) (b : Bool) (s : State) : Touches [.insp] s (inspEdge l b s) :=
  .foldl (fun t j => .ite (fun _ => modifyInsp_touches j _ t) (fun _ => .refl _ t)) allInsps s

theorem clearLosses_touches (s : State) : Touches [.insp] s (clearLosses s) :=
  .foldl (fun t j => .ite (fun _ => modifyInsp_touches j _ t) (fun _ => .refl _ t)) allInsps s

theorem dropWatches_touches (s : State) : Touches [.insp] s (dropWatches s) :=
  .foldl (fun t j => modifyInsp_touches j _ t) allInsps s

/-! ## Orders -/

theorem setOrders_touches (o : OrderUnit) (s : State) : Touches [.orders] s { s with orders := o } := by
  intro f hf; cases f <;> first | exact absurd (by decide) hf | rfl

theorem earlyTest_touches (t : Nat) (s : State) : Touches [.orders, .notices] s (earlyTest t s) := by
  unfold earlyTest
  split
  · exact .refl _ s
  · exact .ite (fun _ => (offer_touches _ s).andThen (modifyOrder_touches _ _ _) (by decide) (by decide))
      (fun _ => .refl _ s)

theorem activate_touches (o : Order) (s : State) : Touches [.orders, .reg, .pos, .notices] s (activate o s) :=
  (((modifyOrder_touches o.tag _ s).trans (setOrders_touches _ _)).andThen (hs := [.orders, .reg, .pos, .notices])
    (updateSource_touches _) (by decide) (by decide)).trans ((earlyTest_touches _ _).mono (by decide))

theorem select_touches (s : State) : Touches [.orders, .reg, .pos, .notices] s (select s) := by
  unfold select
  split
  · exact (setFeed_touches _ s).mono (by decide)
  · exact .ite (fun _ => activate_touches _ s)
      (fun _ => (setFeed_touches _ s).andThen (offer_touches _ _) (by decide) (by decide))

theorem reexamine_touches (s : State) : Touches [.orders, .reg, .pos, .notices] s (reexamine s) := by
  unfold reexamine
  refine .ite (fun _ => ?_) (fun _ => .refl _ s)
  split
  · exact (setFeed_touches _ s).mono (by decide)
  · exact .ite (fun _ => activate_touches _ s) (fun _ => .refl _ s)

theorem afterActive_touches (b : Bool) (s : State) : Touches [.orders, .reg, .pos, .notices] s (afterActive b s) := by
  have h : Touches [.orders, .reg, .pos, .notices] s
      (if b = true then offer (.feedWait false (nextTag s)) (setFeed .suspended s) else select s) :=
    .ite (fun _ => (setFeed_touches _ s).andThen (offer_touches _ _) (by decide) (by decide))
      (fun _ => select_touches s)
  exact h.trans ((updateSource_touches _).mono (by decide))

theorem depart_touches (o : Order) (e : EndState) (s : State) :
    Touches [.store, .orders, .reg, .pos, .notices] s (depart o e s) := by
  have h : Touches [.store, .orders, .reg, .pos, .notices] s (offer (.orderEnd o.tag e o.delivered o.boxesClosed
      (shortfallOf o e)) (refDown o.slot (removeOrder o.tag s))) :=
    ((removeOrder_touches o.tag s).andThen (refDown_touches o.slot _) (by decide) (by decide)).trans
      ((offer_touches _ _).mono (by decide))
  have k := h.trans (Touches.ite (p := o.state = .active)
    (fun _ => (afterActive_touches o.holdAfter _).mono (by decide)) (fun _ => .refl _ _))
  exact (k.trans ((updateSource_touches _).mono (by decide))).trans ((reexamine_touches _).mono (by decide))

theorem completionTest_touches (t : Nat) (s : State) :
    Touches [.store, .orders, .reg, .pos, .notices] s (completionTest t s) := by
  unfold completionTest
  split
  · exact .refl _ s
  · refine .ite (fun _ => .refl _ s) (fun _ => ?_)
    split
    · exact .refl _ s
    · exact depart_touches _ _ s

theorem handOver_touches (a n : Order) (s : State) :
    Touches [.store, .orders, .reg, .pos, .notices] s (handOver a n s) :=
  ((modifyOrder_touches a.tag _ s).andThen (activate_touches n _) (by decide) (by decide)).trans
    (completionTest_touches a.tag _)

theorem markAborted_touches (t : Nat) (s : State) : Touches [.track, .pos, .app] s (markAborted t s) :=
  .foldl (fun u q => addDefect_touches q .aborted u) (openSeqs s t) s

/-! ## Removal, boxes and takes -/

theorem drainTest_touches (s : State) : Touches [.line] s (drainTest s) :=
  .ite (fun _ => setRun_touches _ s) (fun _ => .refl _ s)

theorem setTrack_touches (x : TrackingUnit) (s : State) : Touches [.track] s { s with track := x } := by
  intro f hf; cases f <;> first | exact absurd (by decide) hf | rfl

/-- What a removal can touch: never the lines, the boxes, the Management Unit, the ring or the queue. -/
theorem removeRecord_touches (r : Record) (cs : List Counter) (s : State) :
    Touches [.track, .store, .counters, .pos, .app, .insp, .orders, .reg, .notices, .line] s (removeRecord r cs s) :=
  ((((((setTrack_touches _ s).andThen (refDown_touches r.slot _) (by decide) (by decide)).trans
    ((countAll_touches cs _).mono (by decide))).trans ((removalApp_touches r.seq _).mono (by decide))).trans
    ((removalInsp_touches r.seq _).mono (by decide))).trans ((withdraw_touches _ _).mono (by decide))).trans
    (((completionTest_touches r.tag _).mono (by decide)).trans ((drainTest_touches _).mono (by decide)))

theorem setDeliv_touches (d : DeliveryUnit) (s : State) : Touches [.deliv] s { s with deliv := d } := by
  intro f hf; cases f <;> first | exact absurd (by decide) hf | rfl

theorem closeOpenBox_touches (b : Box) (why : CloseReason) (d : Bool) (s : State) :
    Touches [.deliv, .counters, .orders, .pos, .notices] s (closeOpenBox b why d s) := by
  have h : Touches [.deliv, .counters, .orders, .pos, .notices] s (startSeparator (creditOrder b (count .boxesClosed
      (logBox b why { s with deliv := { s.deliv with
        waiting := s.deliv.waiting + 1,
        committedCloses := if d = true then s.deliv.committedCloses - 1 else s.deliv.committedCloses } })))) :=
    (((setDeliv_touches _ s).andThen (logBox_touches b why _) (by decide) (by decide)).trans
      ((count_touches _ _).mono (by decide))).trans (((creditOrder_touches b _).mono (by decide)).trans
      ((startSeparator_touches _).mono (by decide)))
  have k := h.trans (Touches.ite (p := b.quiet = true) (fun _ => .refl _ _)
    (fun _ => (offer_touches (.boxClosed s.deliv.nextBox) _).mono (by decide)))
  exact k.trans ((setDeliv_touches _ _).mono (by decide))

theorem take_touches (s : State) : Touches [.deliv, .notices] s (take s) :=
  .ite (fun _ => (setDeliv_touches _ s).mono (by decide)) (fun _ => (offer_touches _ s).mono (by decide))

theorem takes_touches : ∀ (n : Nat) (s : State), Touches [.deliv, .notices] s (takes n s)
  | 0, s => .refl _ s
  | n + 1, s => (take_touches s).trans (takes_touches n (take s))

theorem takeEdge_touches (l : Fin 16) (b : Bool) (s : State) : Touches [.deliv, .notices] s (takeEdge l b s) :=
  .ite (fun _ => take_touches s) (fun _ => .refl _ s)

/-! ## Station events -/

/-- The fields that a station event may touch, the lines by the held states of a halt alone: never the Management Unit, the
ring, the reply register, the reset pin, the free-value index or the queue. -/
def stationFields : List StateField :=
  [.track, .store, .counters, .pos, .app, .insp, .orders, .reg, .notices, .line, .lines, .deliv]

theorem gateAt_touches (q : U32) (x : Pos) (s : State) : Touches stationFields s (gateAt q x s) := by
  unfold gateAt
  split
  · exact .refl _ s
  · split
    · exact .refl _ s
    · split
      · exact (((removeRecord_touches _ _ s).andThen (hs := stationFields) (setDeliv_touches _ _) (by decide)
          (by decide)).trans ((withdraw_touches _ _).mono (by decide))).trans ((schedule_touches _ _).mono (by decide))
      · unfold gatePass
        refine Touches.trans ?_ ((earlyTest_touches _ _).mono (by decide))
        refine .ite (fun _ => ?_) (fun _ => Touches.trans ?_ ((count_touches _ _).mono (by decide)))
        · exact ((amendRecord_touches _ _ s).mono (by decide)).trans ((setDeliv_touches _ _).mono (by decide))
        · exact ((amendRecord_touches _ _ s).mono (by decide)).trans ((setDeliv_touches _ _).mono (by decide))

theorem deliverAt_touches (q : U32) (s : State) : Touches stationFields s (deliverAt q s) := by
  have hc : ∀ o t, Touches stationFields t (deliverChange o t) := by
    intro o t; unfold deliverChange
    split
    · exact .ite (fun _ => .refl _ t) (fun _ => (closeOpenBox_touches _ _ _ t).mono (by decide))
    · exact .refl _ t
  have he : ∀ o t, Touches stationFields t (deliverEntry o t) := fun o t =>
    ((setDeliv_touches _ t).mono (by decide)).trans ((modifyOrder_touches _ _ _).mono (by decide))
  have hd : ∀ o t, Touches stationFields t (deliverClose o t) := by
    intro o t; unfold deliverClose
    split
    · exact .refl _ t
    · exact .ite (fun _ => (closeOpenBox_touches _ _ _ t).mono (by decide))
        (fun _ => .ite (fun _ => (closeOpenBox_touches _ _ _ t).mono (by decide)) (fun _ => .refl _ t))
  unfold deliverAt
  split
  · exact .refl _ s
  · split
    · exact .refl _ s
    · rename_i o _
      refine Touches.trans ?_ ((removeRecord_touches _ _ _).mono (by decide))
      refine ((hc o s).trans (he o (deliverChange o s))).trans ?_
      split
      · exact hd _ _
      · exact .refl _ _

theorem handOverTest_touches (s : State) :
    Touches [.store, .orders, .reg, .pos, .notices] s (handOverTest s) := by
  unfold handOverTest
  split
  · exact .ite (fun _ => handOver_touches _ _ s) (fun _ => .refl _ s)
  · exact .refl _ s

theorem announce_touches (r : Record) (s : State) : Touches [.app, .pos] s (announce r s) :=
  ((announceApp_touches r s).trans ((announceInsp_touches r _).mono (by decide))).trans
    ((announceDelivery_touches r _).mono (by decide))

theorem feedAt_touches (p : U32) (s : State) : Touches stationFields s (feedAt p s) := by
  have h : Touches stationFields s (handOverTest (count .cutTotal s)) :=
    (count_touches _ s).andThen (handOverTest_touches _) (by decide) (by decide)
  unfold feedAt
  simp only
  split
  · refine h.trans (((createRecord_touches _ _).mono (by decide)).trans (((announce_touches _ _).mono
      (by decide)).trans (((countdownStep_touches _).mono (by decide)).trans ((setFeedGate_touches _ _).mono
      (by decide)))))
  · exact h.trans (((count_touches _ _).mono (by decide)).trans ((setFeedGate_touches _ _).mono (by decide)))

theorem watchOpenAt_touches (j : Fin 8) (p : U32) (s : State) : Touches [.insp] s (watchOpenAt j p s) :=
  .ite (fun _ => modifyInsp_touches j _ s) (fun _ => .refl _ s)

theorem watchLost_touches (j : Fin 8) (r : Record) (s : State) : Touches stationFields s (watchLost j r s) := by
  have h : Touches stationFields s (removeRecord r [.lost] (makeResult j ⟨some r.seq, r.cutPitch, 0, .lost⟩
      (modifyInsp j (fun c => { c with losses := min (c.losses + 1) 255 }) s))) :=
    (((modifyInsp_touches j _ s).trans (makeResult_touches j _ _)).mono (by decide)).trans
      ((removeRecord_touches _ _ _).mono (by decide))
  exact .ite (fun _ => h.trans ((report_touches _ _).mono (by decide))) (fun _ => h)

theorem watchEndAt_touches (j : Fin 8) (p : U32) (s : State) : Touches stationFields s (watchEndAt j p s) := by
  have he : Touches stationFields s (endWatch j s) := (modifyInsp_touches j _ s).mono (by decide)
  unfold watchEndAt
  refine .ite (fun _ => ?_) (fun _ => .refl _ s)
  split
  · exact .refl _ s
  · simp only
    refine .ite (fun _ => he) (fun _ => he.trans ?_)
    split
    · exact (((setValue_touches _ _ _ _).mono (by decide)).trans ((modifyInsp_touches j _ _).mono (by decide))).trans
        ((makeResult_touches j _ _).mono (by decide))
    · exact watchLost_touches j _ _
    · exact ((makeResult_touches j _ _).mono (by decide)).trans ((report_touches _ _).mono (by decide))
    · exact .refl _ _

theorem fireRecurring_touches (e : Recurring) (x : Pos) (s : State) :
    Touches stationFields s (fireRecurring e x s) := by
  cases e with
  | feed => exact feedAt_touches _ s
  | captureArm => exact (armWindow_touches _ s).mono (by decide)
  | windowClose => exact (closeWindow_touches s).mono (by decide)
  | watchOpen j => exact (watchOpenAt_touches j _ s).mono (by decide)
  | watchEnd j => exact watchEndAt_touches j _ s

theorem firePending_touches (e : Pending) (z : Int) (s : State) : Touches stationFields s (firePending e z s) := by
  unfold firePending
  split
  · exact (judgeOn_touches _ _ _ _ s).mono (by decide)
  · exact (judgeOff_touches _ _ _ _ s).mono (by decide)
  · exact (openMeasurement_touches _ _ _ s).mono (by decide)
  · exact (endMeasurement_touches _ _ s).mono (by decide)
  · exact (sampleMeasurement_touches _ _ _ s).mono (by decide)
  · exact gateAt_touches _ _ s
  · exact deliverAt_touches _ s
  · exact (endRejectGate_touches s).mono (by decide)
  · exact (endSeparator_touches s).mono (by decide)

theorem takeDue_touches (e : DueEvent) (s : State) : Touches (.freeIndex :: stationFields) s (takeDue e s) := by
  cases e with
  | recurring f =>
    exact ((setDue_touches _ s).mono (by decide)).trans ((fireRecurring_touches _ _ _).mono (by decide))
  | scheduled p =>
    unfold takeDue
    have h := (setSchedule_touches (s.pos.schedule.erase p) s).mono (gs := .freeIndex :: stationFields) (by decide)
    simp only
    split
    · exact h.trans (((bumpFree_touches _).mono (by decide)).trans ((firePending_touches _ _ _).mono (by decide)))
    · exact h.trans ((firePending_touches _ _ _).mono (by decide))

theorem chooseDue_touches {s t : State} {e : DueEvent} (h : chooseDue s = some (e, t)) :
    Touches [.freeIndex] s t := by
  unfold chooseDue at h
  split at h
  · cases h
  · cases h; exact .refl _ s
  · cases h; exact bumpFree_touches s

theorem drainDue_touches : ∀ (n : Nat) (s : State), Touches (.freeIndex :: stationFields) s (drainDue n s)
  | 0, s => .refl _ s
  | n + 1, s => by
    unfold drainDue
    split
    · exact .refl _ s
    · exact (((chooseDue_touches ‹_›).mono (by decide)).trans (takeDue_touches _ _)).trans (drainDue_touches n _)

/-- What the taking of fired events touches: never the Management Unit, the ring, the reply register or the queue. -/
theorem settle_touches (s : State) : Touches (.freeIndex :: stationFields) s (settle s) := drainDue_touches _ s

/-- The ends that POSITION_SET fires touch the schedule and the two outputs. -/
theorem fireEnds_touches (s : State) : Touches [.pos, .deliv] s (fireEnds s) := by
  have h (e : Scheduled) (f : State → State) (t : State) (hf : ∀ u, Touches [.deliv] u (f u)) :
      Touches [.pos, .deliv] t (fireLoose e f t) := by
    unfold fireLoose takeScheduled
    split
    · exact .refl _ t
    · next hx =>
      split at hx
      · cases hx
      · cases hx
        exact (setSchedule_touches _ t).andThen (hf _) (by decide) (by decide)
  exact (h _ _ s endRejectGate_touches).trans (h _ _ _ endSeparator_touches)

/-! ## Frames and replies -/

theorem setRing_touches (r : RingPort) (s : State) : Touches [.ring] s { s with ring := r } := by
  intro f hf; cases f <;> first | exact absurd (by decide) hf | rfl

theorem setReply_touches (r : Option Reply) (s : State) : Touches [.reply] s { s with reply := r } := by
  intro f hf; cases f <;> first | exact absurd (by decide) hf | rfl

theorem passFrame_touches (f : List Byte) (s : State) : Touches [.ring, .mgmt, .line] s (passFrame f s) := by
  unfold passFrame
  split
  · exact forwardFrame_touches f s
  · exact (setRing_touches _ s).mono (by decide)

theorem giveReply_touches (place : Option (List Byte × Nat)) (r : Reply) (s : State) :
    Touches [.reply, .ring, .mgmt, .line] s (giveReply place r s) := by
  unfold giveReply
  simp only
  split
  · exact (setReply_touches _ s).mono (by decide)
  · exact (setReply_touches _ s).andThen (passFrame_touches _ _) (by decide) (by decide)

theorem readTakes_touches (f : List Byte) (s : State) : Touches [.ring, .deliv, .notices] s (readTakes f s) := by
  unfold readTakes
  split
  · exact .refl _ s
  · simp only
    split
    · exact (setRing_touches _ s).mono (by decide)
    · exact .ite (fun _ => (setRing_touches _ s).andThen (takes_touches _ _) (by decide) (by decide))
        (fun _ => (setRing_touches _ s).mono (by decide))

/-- A request that touches no field of a list leaves it through its reply too, the reply's own fields apart. -/
theorem request_touches {fs : List StateField} {own : State → State × Reply} {s : State}
    (h : Touches fs s (own s).1) (kind need : Nat) (args : List Byte)
    (hr : [.reply, .ring, .mgmt, .line] ⊆ fs) : Touches fs s (request kind need args own s) :=
  .ite (fun _ => .ite (fun _ => (giveReply_touches _ _ s).mono hr)
    (fun _ => h.trans ((giveReply_touches _ _ _).mono hr))) (fun _ => .refl _ s)

theorem event_touches {fs : List StateField} {g : State → State} {s : State} (h : Touches fs s (g s)) :
    Touches fs s (event g s) := .ite (fun _ => .refl _ s) (fun _ => h)

end Sys2Proof.Machine
end

