-- ==== Sys2Proof/Laws/Ops.lean ====
section
/-! SUPPORT. For each shared operation, what it does to what it touches, said once. -/

namespace Sys2Proof.Machine

/-! ## Fixed-size tables -/

theorem getAt_put {α : Type} {n : Nat} (v : Vector α n) (i j : Fin n) (x : α) :
    getAt (put v i x) j = if j = i then x else getAt v j := by
  simp only [getAt, put, Vector.get_eq_getElem, Vector.getElem_set, Fin.ext_iff, eq_comm]

@[simp] theorem getAt_put_same {α : Type} {n : Nat} (v : Vector α n) (i : Fin n) (x : α) :
    getAt (put v i x) i = x := by simp [getAt_put]

theorem getAt_put_other {α : Type} {n : Nat} (v : Vector α n) {i j : Fin n} (h : j ≠ i) (x : α) :
    getAt (put v i x) j = getAt v j := by simp [getAt_put, h]

@[simp] theorem getAt_replicate {α : Type} {n : Nat} (x : α) (i : Fin n) : getAt (Vector.replicate n x) i = x := by
  simp [getAt, Vector.get_eq_getElem]

/-- Tables that agree in every entry are equal. -/
theorem table_ext {α : Type} {n : Nat} {v w : Vector α n} (h : ∀ i, getAt v i = getAt w i) : v = w := by
  apply Vector.ext
  intro i hi
  exact h ⟨i, hi⟩

/-- A pass over distinct entries changes each entry that it picks out once, and no other. -/
theorem getAt_pass {α : Type} {n : Nat} (p : Fin n → Bool) (f : Fin n → α → α) :
    ∀ (l : List (Fin n)) (v : Vector α n), l.Nodup → ∀ j,
      getAt (l.foldl (fun w i => if p i then put w i (f i (getAt w i)) else w) v) j
        = if j ∈ l ∧ p j = true then f j (getAt v j) else getAt v j
  | [], v, _, j => by simp
  | i :: l, v, h, j => by
    rw [List.foldl_cons, getAt_pass p f l _ h.of_cons j]
    have hi : i ∉ l := (List.nodup_cons.mp h).1
    by_cases hj : j = i
    · subst hj
      cases p j <;> simp [hi]
    · cases hp : p i <;> simp [hj, getAt_put_other _ hj]

theorem mem_allLines : ∀ i : Fin 16, i ∈ allLines := by decide

theorem mem_allApps : ∀ k : Fin 12, k ∈ allApps := by decide

theorem mem_allInsps : ∀ j : Fin 8, j ∈ allInsps := by decide

/-! ## Counters -/

theorem counterIdx_injective : ∀ {c d : Counter}, counterIdx c = counterIdx d → c = d := by
  intro c d; cases c <;> cases d <;> first | exact fun _ => rfl | exact fun h => absurd h (by decide)

theorem counter_count (c d : Counter) (s : State) :
    counter (count c s) d = if d = c then counter s d + 1#32 else counter s d := by
  unfold counter
  rw [count_counters]
  by_cases h : d = c
  · subst h; simp [counter]
  · simp [h, getAt_put_other _ (fun k => h (counterIdx_injective k))]

/-- Several counters counted within one event. -/
theorem counter_countAll : ∀ (cs : List Counter) (d : Counter) (s : State),
    counter (countAll cs s) d = counter s d + BitVec.ofNat 32 (cs.count d)
  | [], d, s => by simp [countAll]
  | c :: cs, d, s => by
    have h : countAll (c :: cs) s = countAll cs (count c s) := rfl
    rw [h, counter_countAll cs d, counter_count, List.count_cons]
    by_cases k : d = c
    · subst k; simp [BitVec.ofNat_add, BitVec.add_assoc, BitVec.add_comm]
    · have k' : ¬c = d := fun e => k e.symm
      simp [k, k']

theorem counter_of_counters {s t : State} (h : t.counters = s.counters) (c : Counter) : counter t c = counter s c := by
  unfold counter; rw [h]

/-! ## Slots, channels, lines and faults -/

theorem getAt_modifySlot (k i : Fin 8) (f : Slot → Slot) (s : State) :
    getAt (modifySlot k f s).store.slots i = if i = k then f (getAt s.store.slots i) else getAt s.store.slots i := by
  rw [modifySlot_store, getAt_put]
  by_cases h : i = k
  · subst h; simp
  · simp [h]

theorem getAt_modifyChannel (k i : Fin 12) (f : AppChannel → AppChannel) (s : State) :
    getAt (modifyChannel k f s).app.channels i
      = if i = k then f (getAt s.app.channels i) else getAt s.app.channels i := by
  rw [modifyChannel_app, getAt_put]
  by_cases h : i = k
  · subst h; simp
  · simp [h]

theorem inspChannel_modifyInsp (j i : Fin 8) (f : InspChannel → InspChannel) (s : State) :
    inspChannel (modifyInsp j f s) i = if i = j then f (inspChannel s i) else inspChannel s i := by
  unfold inspChannel
  rw [modifyInsp_insp, getAt_put]
  by_cases h : i = j
  · subst h; simp
  · simp [h]

theorem setHeld_outs (h : Fin 16 → Option Bool) (s : State) (i : Fin 16) :
    getAt (setHeld h s).lines.outs i = { getAt s.lines.outs i with held := h i } := by
  have k := getAt_pass (fun _ => true) (fun i (o : OutLine) => { o with held := h i }) allLines s.lines.outs
    (by decide) i
  simpa [setHeld, mem_allLines] using k

theorem hasFault_latch (f g : FaultKind) (s : State) : hasFault (latch f s) g = (hasFault s g || g == f) := by
  unfold hasFault
  rw [latch_line]
  cases f <;> cases g <;> simp [oneFault, faultBit]

theorem hasFault_unlatch (f g : FaultKind) (s : State) : hasFault (unlatch f s) g = (hasFault s g && g != f) := by
  unfold hasFault
  rw [unlatch_line]
  cases f <;> cases g <;> simp [oneFault, faultBit]

/-! ## Notices and takes -/

theorem offer_room (n : Notice) {s : State} (h : s.notices.queue.length < 16) :
    offer n s = { s with notices := ⟨s.notices.queue ++ [n], s.notices.overflow⟩ } := by
  unfold offer; rw [if_pos h]

theorem offer_full (n : Notice) {s : State} (h : 16 ≤ s.notices.queue.length) :
    offer n s = { s with notices := ⟨s.notices.queue, true⟩ } := by
  unfold offer; rw [if_neg (by omega)]

theorem offer_notices {s t : State} (n : Notice) (h : s.notices = t.notices) :
    (offer n s).notices = (offer n t).notices := by
  unfold offer; rw [h]; split <;> rfl

/-- However many takes, the waiting count falls by them and stops at 0. -/
theorem takes_waiting : ∀ (n : Nat) (s : State), (takes n s).deliv = { s.deliv with waiting := s.deliv.waiting - n }
  | 0, s => rfl
  | n + 1, s => by
    rw [takes, takes_waiting n (take s)]
    unfold take
    split
    · simp only [Nat.sub_sub, Nat.add_comm]
    · rw [(offer_touches .takeSpurious s).deliv]
      have : s.deliv.waiting = 0 := by omega
      simp [this]

/-! ## Register -/

theorem updateSource_source (s : State) : (updateSource s).reg.source = wantedSource s := by
  unfold updateSource
  split
  · exact Eq.symm ‹_›
  · unfold switchTo
    simp only
    split <;> rfl

/-! ## Removals -/

theorem removeRecord_track (r : Record) (cs : List Counter) (s : State) :
    (removeRecord r cs s).track = { s.track with records := s.track.records.eraseP (fun x => x.seq == r.seq) } := by
  unfold removeRecord
  rw [(drainTest_touches _).track, (completionTest_touches _ _).track, withdraw_track, (removalInsp_touches _ _).track,
    (removalApp_touches _ _).track, (countAll_touches _ _).track, refDown_track]

theorem counter_removeRecord (r : Record) (cs : List Counter) (s : State) (c : Counter) :
    counter (removeRecord r cs s) c = counter s c + BitVec.ofNat 32 (cs.count c) := by
  have h : (removeRecord r cs s).counters = (countAll cs (refDown r.slot { s with track := { s.track with
      records := s.track.records.eraseP (fun x => x.seq == r.seq) } })).counters := by
    unfold removeRecord
    rw [(drainTest_touches _).counters, (completionTest_touches _ _).counters, withdraw_counters,
      (removalInsp_touches _ _).counters, (removalApp_touches _ _).counters]
  rw [counter_of_counters h, counter_countAll]
  rfl

/-! ## Fired events -/

/-- What a scheduled event that is taken was, and what is left (01 R15). -/
theorem takeScheduled_some {e : Scheduled} {s u : State} {p : Pending} (h : takeScheduled e s = some (p, u)) :
    p ∈ s.pos.schedule ∧ p.event = e ∧ isDue s.pos.hwm p = true ∧
      u = { s with pos := { s.pos with schedule := s.pos.schedule.erase p } } := by
  unfold takeScheduled at h
  split at h
  · cases h
  · rename_i q hq
    cases h
    have hp := List.find?_some hq
    simp only [Bool.and_eq_true, beq_iff_eq] at hp
    exact ⟨List.mem_of_find?_eq_some hq, hp.1, hp.2, rfl⟩

/-- What a recurring event that is taken was, and what is left (01 R16). -/
theorem takeFired_some {e : Recurring} {s u : State} {x : Pos} (h : takeFired e s = some (x, u)) :
    (⟨e, x⟩ : Fired) ∈ s.pos.due ∧ u = { s with pos := { s.pos with due := s.pos.due.erase ⟨e, x⟩ } } := by
  unfold takeFired at h
  split at h
  · cases h
  · rename_i q hq
    cases h
    have hp := List.find?_some hq
    simp only [beq_iff_eq] at hp
    subst hp
    exact ⟨List.mem_of_find?_eq_some hq, rfl⟩

theorem event_free {s : State} (h : s.resetHeld = false) (g : State → State) : event g s = g s := by
  unfold event; rw [h]; rfl

theorem event_held {s : State} (h : s.resetHeld = true) (g : State → State) : event g s = s := by
  unfold event; rw [h]; rfl

/-! ## Requests -/

/-- A request that reaches its owner. -/
theorem request_accepted {s : State} {need : Nat} {args : List Byte} (h : accepts s need args = true) (kind : Nat)
    (own : State → State × Reply) :
    request kind need args own s = giveReply (carriedAs kind args s) (own s).2 (own s).1 := by
  simp only [accepts, Bool.and_eq_true, decide_eq_true_eq] at h
  unfold request
  rw [if_pos h.1.1, if_neg (by omega)]

/-- A request whose length is wrong. -/
theorem request_badLength {s : State} {need : Nat} {args : List Byte} (hr : reachable s = true)
    (h : 48 < args.length ∨ args.length < need) (kind : Nat) (own : State → State × Reply) :
    request kind need args own s = giveReply (carriedAs kind args s) (bare .badArg) s := by
  unfold request
  rw [if_pos hr, if_pos (by omega)]

/-- A request that does not reach the part. -/
theorem request_unreachable {s : State} (hr : reachable s = false) (kind need : Nat) (args : List Byte)
    (own : State → State × Reply) : request kind need args own s = s := by
  unfold request
  rw [if_neg (by simp [hr])]

end Sys2Proof.Machine
end

