-- ==== Sys2Proof/Laws/PerInstr.lean ====
section
/-! SUPPORT. The family RequestBytes: what the syntax of each command says of the management record that carries it. -/

namespace Sys2Proof.Machine

theorem tableItemSize_le (k : Nat) : tableItemSize k ≤ 13 := by
  unfold tableItemSize
  split <;> decide

theorem recipeItemSize_le (k : Nat) : recipeItemSize k ≤ 15 := by
  unfold recipeItemSize
  split <;> decide

end Sys2Proof.Machine

namespace Sys2Proof.Laws.RequestBytes

open Sys2Proof Sys2Proof.Machine

/-- A command that is a request of the table of 11 section 11.4 has a kind of that table, needs no more than a record's 48
payload bytes, and, when well formed, carries no more bytes than its length field can state (11 R172, R181). -/
def Statement (i : Instr) : Prop :=
  ∀ k n a, requestOf i = some (k, n, a) → k ∈ knownKinds ∧ n ≤ 48 ∧ (i.wf = true → a.length ≤ 255)

/-- A command that is no request of the table says nothing. -/
theorem of_none {i : Instr} (h : requestOf i = none) : Statement i := by
  intro k n a e; rw [h] at e; cases e

/-- A request of a kind of the table whose fields fit a record. -/
theorem of_some {i : Instr} {k n : Nat} {a : List Byte} (h : requestOf i = some (k, n, a)) (hk : k ∈ knownKinds)
    (hn : n ≤ 48) (hw : i.wf = argsWF a) : Statement i := by
  intro k' n' a' e
  rw [h] at e
  cases e
  exact ⟨hk, hn, fun w => by rw [hw] at w; simpa [argsWF] using w⟩

theorem positionSet (args : List Byte) : Statement (.positionSet args) := of_some rfl (by decide) (by decide) rfl
theorem outputSet (args : List Byte) : Statement (.outputSet args) := of_some rfl (by decide) (by decide) rfl
theorem machineTableWrite (args : List Byte) (lock : Bool) : Statement (.machineTableWrite args lock) :=
  of_some rfl (by decide) (by have := tableItemSize_le (u8 args 0); omega) rfl
theorem machineTableRead (args : List Byte) : Statement (.machineTableRead args) :=
  of_some rfl (by decide) (by decide) rfl
theorem machineTableApply (args : List Byte) (lock : Bool) (levels : BitVec 16) : Statement (.machineTableApply args lock levels) :=
  of_some rfl (by decide) (by decide) rfl
theorem recipeEdit (args : List Byte) (lock : Bool) : Statement (.recipeEdit args lock) :=
  of_some rfl (by decide) (by decide) rfl
theorem recipeWrite (args : List Byte) (lock : Bool) : Statement (.recipeWrite args lock) :=
  of_some rfl (by decide) (by have := recipeItemSize_le (u8 args 1); omega) rfl
theorem recipeCheck (args : List Byte) : Statement (.recipeCheck args) := of_some rfl (by decide) (by decide) rfl
theorem recipeClear (args : List Byte) (lock : Bool) : Statement (.recipeClear args lock) :=
  of_some rfl (by decide) (by decide) rfl
theorem recipeRead (args : List Byte) : Statement (.recipeRead args) := of_some rfl (by decide) (by decide) rfl
theorem checkCompletion : Statement (.checkCompletion) := of_none rfl
theorem clearCompletion : Statement (.clearCompletion) := of_none rfl
theorem transitRead (args : List Byte) : Statement (.transitRead args) := of_some rfl (by decide) (by decide) rfl
theorem channelResultRead (args : List Byte) : Statement (.channelResultRead args) :=
  of_some rfl (by decide) (by decide) rfl
theorem orderQueue (args : List Byte) : Statement (.orderQueue args) := of_some rfl (by decide) (by decide) rfl
theorem orderRead (args : List Byte) : Statement (.orderRead args) := of_some rfl (by decide) (by decide) rfl
theorem orderAbort (args : List Byte) : Statement (.orderAbort args) := of_some rfl (by decide) (by decide) rfl
theorem orderResume (args : List Byte) : Statement (.orderResume args) := of_some rfl (by decide) (by decide) rfl
theorem feedHold (args : List Byte) : Statement (.feedHold args) := of_some rfl (by decide) (by decide) rfl
theorem feedRelease (args : List Byte) : Statement (.feedRelease args) := of_some rfl (by decide) (by decide) rfl
theorem pullSample (args : List Byte) : Statement (.pullSample args) := of_some rfl (by decide) (by decide) rfl
theorem closeBox (args : List Byte) : Statement (.closeBox args) := of_some rfl (by decide) (by decide) rfl
theorem boxLogRead (args : List Byte) : Statement (.boxLogRead args) := of_some rfl (by decide) (by decide) rfl
theorem lineStart (args : List Byte) : Statement (.lineStart args) := of_some rfl (by decide) (by decide) rfl
theorem lineDrain (args : List Byte) : Statement (.lineDrain args) := of_some rfl (by decide) (by decide) rfl
theorem lineResume (args : List Byte) : Statement (.lineResume args) := of_some rfl (by decide) (by decide) rfl
theorem linePurge (args : List Byte) : Statement (.linePurge args) := of_some rfl (by decide) (by decide) rfl
theorem clearStatus (args : List Byte) (reading : Int) : Statement (.clearStatus args reading) :=
  of_some rfl (by decide) (by decide) rfl
theorem resetFull (args : List Byte) : Statement (.resetFull args) := of_some rfl (by decide) (by decide) rfl
theorem fullReset (pins : ResetPins) : Statement (.fullReset pins) := of_none rfl
theorem powerOnReset (pins : ResetPins) : Statement (.powerOnReset pins) := of_none rfl
theorem countersRead (args : List Byte) : Statement (.countersRead args) := of_some rfl (by decide) (by decide) rfl
theorem countersSnapshot (args : List Byte) : Statement (.countersSnapshot args) :=
  of_some rfl (by decide) (by decide) rfl
theorem countersSnapshotReset (args : List Byte) : Statement (.countersSnapshotReset args) :=
  of_some rfl (by decide) (by decide) rfl
theorem snapshotRead (args : List Byte) : Statement (.snapshotRead args) := of_some rfl (by decide) (by decide) rfl
theorem noticeRead (args : List Byte) : Statement (.noticeRead args) := of_some rfl (by decide) (by decide) rfl
theorem mgmtStatus (args : List Byte) (lock : Bool) : Statement (.mgmtStatus args lock) :=
  of_some rfl (by decide) (by decide) rfl
theorem unknownRequest (kind : Byte) (args : List Byte) : Statement (.unknownRequest kind args) := of_none rfl
theorem frameArrival (bytes : List Byte) : Statement (.frameArrival bytes) := of_none rfl
theorem watchdogExpiry : Statement (.watchdogExpiry) := of_none rfl
theorem encoderStep (pair : PhasePair) : Statement (.encoderStep pair) := of_none rfl
theorem speedWindowEnd : Statement (.speedWindowEnd) := of_none rfl
theorem edgeEvent (line : Fin 16) (level : Bool) : Statement (.edgeEvent line level) := of_none rfl
theorem gumPressureLow (reading : Int) : Statement (.gumPressureLow reading) := of_none rfl
theorem feedEvent : Statement (.feedEvent) := of_none rfl
theorem captureArm : Statement (.captureArm) := of_none rfl
theorem windowClose : Statement (.windowClose) := of_none rfl
theorem onEvent (seq : U32) (ch : Fin 12) (entry : Nat) (dot : Nat) : Statement (.onEvent seq ch entry dot) :=
  of_none rfl
theorem offEvent (seq : U32) (ch : Fin 12) (entry : Nat) (dot : Nat) : Statement (.offEvent seq ch entry dot) :=
  of_none rfl
theorem watchOpen (ch : Fin 8) : Statement (.watchOpen ch) := of_none rfl
theorem watchEnd (ch : Fin 8) : Statement (.watchEnd ch) := of_none rfl
theorem inspectionWindowOpen (ch : Fin 8) (seq : U32) : Statement (.inspectionWindowOpen ch seq) := of_none rfl
theorem inspectionWindowEnd (ch : Fin 8) (seq : U32) : Statement (.inspectionWindowEnd ch seq) := of_none rfl
theorem sampleEvent (ch : Fin 8) (seq : U32) (reading : Int) : Statement (.sampleEvent ch seq reading) := of_none rfl
theorem gateEvent (seq : U32) : Statement (.gateEvent seq) := of_none rfl
theorem rejectGateEnd : Statement (.rejectGateEnd) := of_none rfl
theorem deliveryEvent (seq : U32) : Statement (.deliveryEvent seq) := of_none rfl
theorem separatorPulseEnd : Statement (.separatorPulseEnd) := of_none rfl
theorem resetPinHeld : Statement (.resetPinHeld) := of_none rfl

end Sys2Proof.Laws.RequestBytes
end

