-- ==== Sys2Proof/Tests/Slice0.lean ====
section
/-! SUPPORT. Tests: ill-formed commands refused, the worked sequences of spec/ one step at a time, and a witness for the
hypotheses of every statement. Expected values come from spec/ or from hand calculation by its rules. -/

namespace Sys2Proof.Tests

open Sys2Proof.Machine

-- One theorem after another: a thread each would ask for more stack than a check may take.
set_option Elab.async false

/-! ## Small states -/

/-- The state that a command leaves. -/
def after (i : Instr) (s : State) : State :=
  match exec i s with
  | .next t => t
  | .fault _ => s
  | .refused _ => s

/-- The last reply, as code and bytes. -/
def replied (s : State) : Option (ResultCode × List Nat) :=
  s.reply.map (fun r => (r.result, r.payload.map BitVec.toNat))

/-- Bytes from numbers. -/
def bytes (l : List Nat) : List Byte := l.map (BitVec.ofNat 8)

/-- The machine of chapter 2's worked sequence, with GUM on channel 1 at OUT7, a COUNT channel on IN10 and a LEVEL
channel on the ANALOG line IN6 added. -/
def table : MachineTable where
  general := ⟨3000, 14, 1800, 22, 2400, 900, 3, .line 9, 10⟩
  gum := ⟨some 6, 1500, 200⟩
  apps := put (put MachineTable.initial.apps 0 ⟨true, .windowCut, 6, 3, 4500, 3000⟩) 1 ⟨true, .gum, 4, 7, 0, 0⟩
  insps := put (put (put (put MachineTable.initial.insps 0 ⟨true, .presence, 12, 2⟩) 1 ⟨true, .span, 9, 4⟩)
    2 ⟨true, .count, 9, 10⟩) 3 ⟨true, .level, 9, 6⟩
  modes := 64#16
  outs := put (put (put (put (put (put MachineTable.initial.outs 0 ⟨.feedGate, .activeHigh, .release⟩)
    1 ⟨.rejectGate, .activeHigh, .release⟩) 2 ⟨.separator, .activeHigh, .release⟩)
    3 ⟨.channel 0, .activeHigh, .release⟩) 7 ⟨.channel 1, .activeHigh, .hold⟩) 8 ⟨.manual, .activeHigh, .hold⟩

/-- Chapter 2's oversight: OUT3 left at NONE. -/
def tableWithOversight : MachineTable := { table with outs := put table.outs 3 ⟨.none, .activeHigh, .release⟩ }

/-- The recipe of chapter 2, with a GUM entry and settings of channels 2 and 3 added and the register section of chapter
4's second worked sequence. -/
def recipe : Recipe where
  header := ⟨3, List.replicate 12 32#8⟩
  register := ⟨true, 1200, 150, 96, 10, 300, 25, 3, 3, 5⟩
  cams := [⟨0, 400, 900, 0, 0, 0, true⟩, ⟨0, 950, 1450, 3, 100, 180, false⟩, ⟨1, 100, 3000, 0, 0, 0, false⟩]
  settings := put (put (put Recipe.initial.settings 1 ⟨true, 500, 2900, 800, 900, .window⟩)
    2 ⟨true, 500, 2900, 0, 2, .fold⟩) 3 ⟨true, 500, 2900, 1000, 4000, .thickness⟩
  rejectMask := 7#5

/-- Chapter 2, step 8: entry 1 on 850, off 1300. -/
def badRecipe : Recipe :=
  { recipe with cams := [⟨0, 400, 900, 0, 0, 0, true⟩, ⟨0, 850, 1300, 3, 100, 180, true⟩] }

/-- The commissioned machine in IDLE, with slot 2 in a state. -/
def withSlot (x : Slot) : State :=
  { State.reset with
    store := { working := table, inForce := table, validity := .valid, slots := put State.reset.store.slots 2 x }
    lines := (applyLines table 0#16 State.reset).lines
    pos := { State.reset.pos with hwm := posAt 100 3000 } }

/-- The commissioned machine in IDLE, slot 2 USABLE. -/
def idle : State := withSlot ⟨.usable, 0, recipe⟩

/-- Order 7 of chapter 3. -/
def order7 : Order := ⟨0, 7, .normal, 2, 500, 100, 3, 10, false, false, .active, 0, 0, false, false⟩

/-- A QUEUED order of the same class. -/
def order51 : Order := ⟨1, 51, .normal, 2, 200, 50, 0, 0, false, false, .queued, 0, 0, false, false⟩

/-- A clean OPEN blank of order 7. -/
def blank (q cut : U32) : Record :=
  ⟨q, cut, 7, 2, .opened, some .inRegister, none, 0#7, 0#12, 0#12, Vector.replicate 8 none⟩

/-- A line in a run state with orders, records and pending events. -/
def line (r : RunState) (os : List Order) (rs : List Record) (es : List Pending) : State :=
  { withSlot ⟨.usable, os.length + rs.length, recipe⟩ with
    line := ⟨r, 0#6, .none⟩
    orders := ⟨os, .feeding, false, 0, some 3, false, 2⟩
    reg := ⟨.locked, 0, 0, 0, -4, none, none, some 2⟩
    track := ⟨rs, 5#32⟩
    pos := { State.reset.pos with hwm := posAt 100 3000, schedule := es } }

/-- The line RUNNING on order 7 with nothing in transit. -/
def running : State := line .running [order7] [] []

/-- A plain event due now. -/
def due (e : Scheduled) : Pending := plainEvent (posAt 100 3000) e

/-- A fired recurring event of pitch 100. -/
def fired (e : Recurring) (a : Nat) (s : State) : State :=
  { s with pos := { s.pos with due := [⟨e, posAt 100 a⟩] } }

/-- The machine of state `s` with faults latched. -/
def faulted (f : BitVec 6) (s : State) : State := { s with line := { s.line with faults := f } }

/-- A reply to `s` of the last command. -/
def answer (i : Instr) (s : State) : Option (ResultCode × List Nat) := replied (after i s)

/-! ## Well-formed commands -/

/-- A payload longer than the one-byte length field can state. -/
def long : List Byte := List.replicate 256 0#8

/-- Every request with a payload of 256 bytes is refused. -/
theorem test_wf_long_payload :
    ([.positionSet long, .outputSet long, .machineTableWrite long false, .machineTableRead long,
      .machineTableApply long false 0, .recipeEdit long false, .recipeWrite long false, .recipeCheck long,
      .recipeClear long false, .recipeRead long, .transitRead long, .channelResultRead long, .orderQueue long,
      .orderRead long, .orderAbort long, .orderResume long, .feedHold long, .feedRelease long, .pullSample long,
      .closeBox long, .boxLogRead long, .lineStart long, .lineDrain long, .lineResume long, .linePurge long,
      .clearStatus long 0, .resetFull long, .countersRead long, .countersSnapshot long, .countersSnapshotReset long,
      .snapshotRead long, .noticeRead long, .mgmtStatus long false, .unknownRequest 3 long] : List Instr).all
      (fun i => !i.wf) = true := by decide +kernel

/-- A kind code of the table is no unknown request; one outside it is. -/
theorem test_wf_known_kind : (Instr.unknownRequest 80 []).wf = false ∧ (Instr.unknownRequest 81 []).wf = true := by
  decide

theorem test_wf_empty_frame : (Instr.frameArrival []).wf = false ∧ (Instr.frameArrival [0#8]).wf = true := by decide

/-- A cam list has entries 0 to 23. -/
theorem test_wf_entry : (Instr.onEvent 1 0 24 0).wf = false ∧ (Instr.offEvent 1 0 24 0).wf = false ∧
    (Instr.onEvent 1 0 23 14).wf = true := by decide

/-- An entry has dots 0 to 14. -/
theorem test_wf_dot : (Instr.onEvent 1 0 0 15).wf = false ∧ (Instr.offEvent 1 0 0 15).wf = false := by decide

/-- No row of the table has bits, so no word spells a command and placing one changes nothing. -/
theorem test_no_word (s : State) (n w : Nat) : decodeTableWord n w = none ∧ s.withFetchWord n w = s := ⟨rfl, rfl⟩

/-! ## Chapter 1 -/

/-- R14: the angle is set, the reverse depth is 0; a separator pulse end that the new mark passes fires at once. The range
is checked before the run state. -/
theorem test_positionSet :
    let s := { idle with pos := { idle.pos with depth := 7, schedule := [plainEvent (posAt 100 3200) .separatorEnd] },
                         deliv := { idle.deliv with separator := true } }
    let t := after (.positionSet (bytes [15, 14])) s
    replied t = some (.ok, [100, 0, 0, 0, 15, 14, 15, 14, 0, 0, 0, 0, 0, 0]) ∧ t.deliv.separator = false ∧
      t.pos.schedule = [] ∧ (answer (.positionSet (bytes [16, 14])) running).map Prod.fst = some .badArg ∧
      (answer (.positionSet (bytes [15, 14])) running).map Prod.fst = some .state := by decide +kernel

/-- R8: OUT8 is MANUAL and takes its value, OUT0 stores one without being driven by it. -/
theorem test_outputSet : answer (.outputSet (bytes [1, 1, 1, 1])) idle = some (.ok, [1, 1, 0, 1, 0, 0]) := by
  decide +kernel

/-- The reverse jog of chapter 1: from 151,199 forward is the pitch crossing into 42. -/
theorem test_encoderStep_forward :
    let s := { idle with pos := { idle.pos with hwm := 151199 } }
    let t := after (.encoderStep ⟨true, false⟩) s
    t.pos.hwm = 151200 ∧ pitchNumber t = 42#32 ∧ currentAngle t = 0 ∧ t.pos.windowCount = 1 := by decide +kernel

/-- The reverse jog of chapter 1: back from 151,201 leaves the mark and the pitch number. -/
theorem test_encoderStep_reverse :
    let s := { idle with pos := { idle.pos with hwm := 151201, depth := 1 } }
    let t := after (.encoderStep ⟨false, true⟩) s
    t.pos.hwm = 151201 ∧ t.pos.depth = 2 ∧ currentAngle t = 3599 ∧ pitchNumber t = 42#32 := by decide +kernel

/-- R18 and chapter 5's worked example: V = 900 gives channel 0 leads of 405 and 270. -/
theorem test_speedWindowEnd :
    let s := { running with pos := { running.pos with windowCount := 900 } }
    let t := after .speedWindowEnd s
    t.pos.speed = 900 ∧ (getAt t.app.channels 0).onLead = 405 ∧ (getAt t.app.channels 0).offLead = 270 ∧
      t.pos.windowStart = 10000#32 := by decide +kernel

/-- R82: an on event that has fired at pitch 100, angle 3000 is not moved back to its nominal 3405 by a fall of V to 0; a
fired first dot is judged before the second, which V = 900 leaves behind the mark, and the channel serves the second. -/
theorem test_speedWindowEnd_fired :
    (let s := line .running [order7] [blank 1 94] [⟨posAt 100 3000, .appOn 1 0 0 0, posAt 100 3405, none⟩]
     let t := after .speedWindowEnd { s with pos := { s.pos with speed := 900 } }
     (getAt t.app.channels 0).serving.map Serving.firedAt = some (posAt 100 3000) ∧
       t.pos.schedule.map Pending.event = [.appOff 1 0 0 0]) ∧
    (let s := line .running [order7] [blank 1 94] [⟨posAt 100 950, .appOn 1 0 1 0, posAt 100 950, none⟩,
       ⟨posAt 100 1130, .appOn 1 0 1 1, posAt 100 1130, none⟩]
     let t := after .speedWindowEnd { s with pos := { s.pos with hwm := posAt 100 950, windowCount := 900 } }
     (getAt t.app.channels 0).serving.map Serving.dot = some 1 ∧
       t.pos.schedule.map (fun e => (e.event, e.pos))
         = [(.appOff 1 0 1 0, posAt 100 951), (.appOff 1 0 1 1, posAt 100 960)]) := by decide +kernel

/-- R15, R16, 03 R44: a feed event and an end that have fired in IDLE take place before POSITION_SET moves the mark back: the
blank of the pitch is diverted, and the feed event does not wait for LINE_START. -/
theorem test_positionSet_fired :
    let s := { fired .feed 3000 idle with deliv := { idle.deliv with separator := true } }
    let t := after (.positionSet (bytes [0, 0])) { s with pos := { s.pos with schedule := [plainEvent (posAt 100 2900) .separatorEnd] } }
    t.pos.due = [] ∧ counter t .diverted = 1#32 ∧ t.deliv.separator = false ∧ t.pos.schedule = [] ∧
      t.pos.hwm = posAt 100 0 := by decide +kernel

/-- A channel 1 measurement of blank 41, its segment open from 1,113,200 with 120 counted (chapter 6). -/
def spanning : State :=
  { running with
    pos := { running.pos with hwm := 1113935 }
    track := ⟨[{ blank 41 300 with tag := 7 }], 47#32⟩
    lines := { running.lines with levels := 16#16 }
    insp := put running.insp 1 { InspChannel.initial with
      measurement := some ⟨41#32, 300#32, 1112900, 1115300, 120, some 1113200⟩ } }

/-- The last falling edge of chapter 6's worked sequence brings the value to 855. -/
theorem test_edgeEvent_span :
    ((inspChannel (after (.edgeEvent 4 false) spanning) 1).measurement).map (fun m => (m.value, m.segment))
      = some (855, none) := by decide +kernel

/-- 04 R62: the first rising edge in the window of pitch 100 is its capture, at the current angle. -/
theorem test_edgeEvent_capture :
    let s := { running with pos := { running.pos with hwm := posAt 100 1237 },
                            reg := { running.reg with window := some ⟨100, posAt 100 1050, posAt 100 1350, 1200, 150, 5,
                              none⟩ } }
    ((after (.edgeEvent 5 true) s).reg.window).map CaptureWindow.capture = some (some 1237) := by decide +kernel

/-! ## Chapter 2 -/

/-- Step 2: OUTPUT 3 CHANNEL 0 is written, and the validity becomes INVALID. -/
theorem test_machineTableWrite :
    let s := { withSlot ⟨.empty, 0, Recipe.initial⟩ with }
    let t := after (.machineTableWrite (bytes [6, 3, 16, 1, 1]) false) s
    replied t = some (.ok, []) ∧ getAt t.store.working.outs 3 = ⟨.channel 0, .activeLow, .hold⟩ ∧
      t.store.validity = .invalid := by decide +kernel

/-- R21: a GENERAL with G = 1 names field 1; the Table Lock refuses a good one. -/
theorem test_machineTableWrite_refused :
    answer (.machineTableWrite (bytes [1, 0, 184, 11, 1, 8, 7, 22, 96, 9, 132, 3, 3, 9, 10]) false) idle
      = some (.badArg, [1]) ∧
    answer (.machineTableWrite (bytes [1, 0, 184, 11, 14, 8, 7, 22, 96, 9, 132, 3, 3, 9, 10]) true) idle
      = some (.locked, []) := by decide +kernel

/-- GENERAL of chapter 2 by the layout of 11 R172: 3000, 14, 1800, 22, 2400, 900, 3, IN9, 10, then VALID. -/
theorem test_machineTableRead : answer (.machineTableRead (bytes [1, 0])) idle
    = some (.ok, [1, 0, 184, 11, 14, 8, 7, 22, 96, 9, 132, 3, 3, 9, 10, 1]) := by decide +kernel

/-- Step 1: check 7, APPLICATION 0, output line. -/
theorem test_machineTableApply_oversight :
    let e := withSlot ⟨.empty, 0, Recipe.initial⟩
    let s := { e with store := { e.store with working := tableWithOversight } }
    let t := after (.machineTableApply [] false 0) s
    replied t = some (.badTable, [7, 3, 0, 3]) ∧ t.store.validity = .invalid := by decide +kernel

/-- Step 3: the table is VALID and in force, and the watchdog time is 10 ms. An angle-100 event that fired in IDLE before the
apply is gone, so that the first watch opens in the next pitch (01 R16). -/
theorem test_machineTableApply :
    let s := { State.reset with store := { State.reset.store with working := table } }
    let t := after (.machineTableApply [] false 0) s
    replied t = some (.ok, []) ∧ t.store.validity = .valid ∧ t.store.inForce = table ∧ t.ring.watchdogMs = 10 ∧
      t.lines.modes = 64#16 ∧ (let u := fired (.watchOpen 0) 100 (withSlot ⟨.empty, 0, Recipe.initial⟩)
        (after (.machineTableApply [] false 0) u).pos.due = []) := by decide +kernel

/-- Step 4: slot 2 is EDITING with the initial content. -/
theorem test_recipeEdit :
    let t := after (.recipeEdit (bytes [2]) false) (withSlot ⟨.empty, 0, recipe⟩)
    replied t = some (.ok, [1]) ∧ slotOf t 2 = ⟨.editing, 0, Recipe.initial⟩ := by decide +kernel

/-- Step 9: CAM 1 with on 950, off 1450, dots 3, length 100, spacing 180. -/
theorem test_recipeWrite :
    let t := after (.recipeWrite (bytes [2, 3, 1, 0, 182, 3, 170, 5, 3, 100, 0, 180, 0, 1]) false)
      (withSlot ⟨.editing, 0, badRecipe⟩)
    replied t = some (.ok, []) ∧ (recipeOf t 2).cams[1]? = some ⟨0, 950, 1450, 3, 100, 180, true⟩ := by decide +kernel

/-- Step 7: BUSY while WORKING. -/
theorem test_recipeWrite_busy :
    let s := { withSlot ⟨.checking, 0, badRecipe⟩ with mgmt := ⟨some ⟨.recipeCheck, 2, 0, false⟩, none⟩ }
    answer (.recipeWrite (bytes [2, 3, 1, 0, 182, 3, 170, 5, 3, 100, 0, 180, 0, 1]) false) s = some (.busy, []) := by
  decide +kernel

/-- Step 6: ACCEPTED, CHECKING, WORKING. -/
theorem test_recipeCheck :
    let t := after (.recipeCheck (bytes [2])) (withSlot ⟨.editing, 0, recipe⟩)
    replied t = some (.accepted, []) ∧ (slotOf t 2).state = .checking ∧ working t = true := by decide +kernel

/-- Step 8: BAD_RECIPE, check 6, CAM 1, dot length, and the slot back to EDITING. -/
theorem test_checkCompletion_bad :
    let s := { withSlot ⟨.checking, 0, badRecipe⟩ with mgmt := ⟨some ⟨.recipeCheck, 2, 0, false⟩, none⟩ }
    let t := after .checkCompletion s
    t.mgmt = ⟨none, some ⟨.recipeCheck, 2, .badRecipe, some ⟨6, 3, 1, 4⟩⟩⟩ ∧ (slotOf t 2).state = .editing ∧
      t.notices.queue = [.opDone .recipeCheck 2 .badRecipe (some ⟨6, 3, 1, 4⟩)] := by decide +kernel

/-- Step 11: USABLE, READY. -/
theorem test_checkCompletion :
    let s := { withSlot ⟨.checking, 0, recipe⟩ with mgmt := ⟨some ⟨.recipeCheck, 2, 0, false⟩, none⟩ }
    let t := after .checkCompletion s
    (slotOf t 2).state = .usable ∧ t.mgmt = ⟨none, some ⟨.recipeCheck, 2, .ok, none⟩⟩ := by decide +kernel

/-- After step 11 an order on slot 2 makes RECIPE_CLEAR IN_USE; without one it is ACCEPTED. -/
theorem test_recipeClear :
    answer (.recipeClear (bytes [2]) false) running = some (.inUse, []) ∧
    answer (.recipeClear (bytes [2]) false) idle = some (.accepted, []) := by decide +kernel

/-- R34: EMPTY with the initial content. -/
theorem test_clearCompletion :
    let s := { withSlot ⟨.clearing, 0, recipe⟩ with mgmt := ⟨some ⟨.recipeClear, 2, 0, false⟩, none⟩ }
    slotOf (after .clearCompletion s) 2 = ⟨.empty, 0, Recipe.initial⟩ := by decide +kernel

/-- R35: USABLE, 0 references, 3 entries, then REJECT_MASK with REGISTER, WINDOW and GUM, whatever the index byte. -/
theorem test_recipeRead : answer (.recipeRead (bytes [2, 6, 9])) idle = some (.ok, [3, 0, 3, 2, 6, 0, 7]) := by
  decide +kernel

/-- R35: a CAM index at the length is BAD_ARG with the slot's record. -/
theorem test_recipeRead_cam : answer (.recipeRead (bytes [2, 3, 3])) idle = some (.badArg, [3, 0, 3]) ∧
    (answer (.recipeRead (bytes [2, 3, 2])) idle).map Prod.fst = some .ok := by decide +kernel

/-! ## Chapters 3 and 4 -/

/-- R55: position 1 of an empty list is NOT_HELD, with length 0, no head, next number 5. -/
theorem test_transitRead_notHeld : answer (.transitRead (bytes [0, 1, 0, 0, 0])) running
    = some (.notHeld, [0, 0, 0, 0, 0, 5, 0, 0, 0]) := by decide +kernel

/-- R55: the record of sequence number 2, at position 1. -/
theorem test_transitRead :
    let s := line .running [order7] [blank 1 100, blank 2 101] []
    answer (.transitRead (bytes [1, 2, 0, 0, 0])) s
      = some (.ok, [2, 1, 0, 0, 0, 5, 0, 0, 0] ++ [2, 0, 0, 0, 101, 0, 0, 0, 7, 0, 2, 0, 0, 0, 128, 0, 0, 0, 0, 0]
        ++ List.replicate 16 255 ++ [1, 1]) := by decide +kernel

/-- R61: the window of pitch 100 runs from 1050 to 1350 on IN5. -/
theorem test_captureArm :
    (after .captureArm (fired .captureArm 1050 running)).reg.window
      = some ⟨100, posAt 100 1050, posAt 100 1350, 1200, 150, 5, none⟩ := by decide +kernel

/-- An open window of pitch 100 with a capture. -/
def captured (c : Option Nat) (s : State) : State :=
  fired .windowClose 1350 { s with reg := { s.reg with
    window := some ⟨100, posAt 100 1050, posAt 100 1350, 1200, 150, 5, c⟩ } }

/-- Chapter 4, pitch 800: D = +37, step +10, T from -4 to 6, one outlier, LOCKED. -/
theorem test_windowClose_outlier :
    (after .windowClose (captured (some 1237) running)).reg
      = ⟨.locked, 0, 1, 0, 6, none, some ⟨100, 37, true⟩, some 2⟩ := by decide +kernel

/-- Chapter 4, pitch 802: a miss in LOCKED goes to COAST with T kept and MARKS_MISSING counted. -/
theorem test_windowClose_miss :
    let t := after .windowClose (captured none { running with reg := { running.reg with trim := 16, outliers := 2 } })
    t.reg = ⟨.coast, 0, 0, 1, 16, none, none, some 2⟩ ∧ counter t .marksMissing = 1#32 := by decide +kernel

/-- Chapter 4's table of raw steps. -/
theorem test_raw_steps : roundAway (37 * 96) 256 = 14 ∧ roundAway (-20 * 96) 256 = -8 ∧ roundAway (1 * 128) 256 = 1 ∧
    roundAway (-1 * 128) 256 = -1 ∧ roundAway (4 * 96) 256 = 2 ∧ roundAway (90 * 0) 256 = 0 := by decide

/-! ## Chapter 5 -/

/-- Chapter 3: blank 1 holds REGISTER, and entry 0's on event is skipped. -/
theorem test_onEvent_skipped :
    let s := line .running [order7] [{ blank 1 100 with defects := 1#7 }] [due (.appOn 1 0 0 0)]
    let t := after (.onEvent 1 0 0 0) s
    t.track = s.track ∧ getAt t.app.channels 0 = getAt s.app.channels 0 ∧ t.pos.schedule = [] := by decide +kernel

/-- The dot train of chapter 5: blank 61 of cut pitch 500, V = 900; entry 1 dot 0 goes on at 545 of pitch 506, and its off
event is placed at 1050 - 270 = 780. -/
theorem test_onEvent_applied :
    let s := { line .running [order7] [blank 61 500] [plainEvent (posAt 506 545) (.appOn 61 0 1 0)] with
      app := ⟨put State.reset.app.channels 0 ⟨some ⟨61, 0, 0, posAt 505 3595⟩, 405, 270⟩, []⟩ }
    let u := { s with pos := { s.pos with hwm := posAt 506 545 } }
    let t := after (.onEvent 61 0 1 0) u
    (getAt t.app.channels 0).serving = some ⟨61, 1, 0, posAt 506 545⟩ ∧
      t.pos.schedule.map (fun e => (e.event, e.pos)) = [(.appOff 61 0 1 0, posAt 506 780)] := by decide +kernel

/-- The dot train of chapter 5: entry 0's off event finds entry 1 dot 0 served and changes nothing. -/
theorem test_offEvent_no_match :
    let s := { line .running [order7] [blank 61 500] [due (.appOff 61 0 0 0)] with
      app := ⟨put State.reset.app.channels 0 ⟨some ⟨61, 1, 0, 0⟩, 405, 270⟩, []⟩ }
    (getAt (after (.offEvent 61 0 0 0) s).app.channels 0).serving = some ⟨61, 1, 0, 0⟩ := by decide +kernel

/-- R85: the off event of the pair served ends it. -/
theorem test_offEvent :
    let s := { line .running [order7] [blank 61 500] [due (.appOff 61 0 1 2)] with
      app := ⟨put State.reset.app.channels 0 ⟨some ⟨61, 1, 2, 0⟩, 405, 270⟩, []⟩ }
    getAt (after (.offEvent 61 0 1 2) s).app.channels 0 = ⟨none, 405, 270⟩ := by decide +kernel

/-- R91: 1499 is below the threshold of 1500 and latches GUM_SUPPLY without a halt; 1500 is not. -/
theorem test_gumPressureLow :
    let t := after (.gumPressureLow 1499) running
    t.line = ⟨.running, 32#6, .none⟩ ∧ t.notices.queue = [.fault .gumSupply] ∧ holdReasons t = 8#5 ∧
      (after (.gumPressureLow 1500) running).line.faults = 0#6 := by decide +kernel

/-! ## Chapter 6 -/

/-- R99: a watch of pitch 100 opens, seen where IN2 is active; in IDLE none opens. -/
theorem test_watchOpen :
    let s := { fired (.watchOpen 0) 100 running with lines := { running.lines with levels := 4#16 } }
    (inspChannel (after (.watchOpen 0) s) 0).watch = some ⟨100, true⟩ ∧
      (inspChannel (after (.watchOpen 0) (fired (.watchOpen 0) 100 idle)) 0).watch = none := by decide +kernel

/-- The watch of pitch 100 on channel 0, with a seen flag, over records of cut pitch 88. -/
def watched (seen : Bool) (rs : List Record) : State :=
  let s := fired (.watchEnd 0) 3500 (line .running [order7] rs [])
  { s with insp := put s.insp 0 { InspChannel.initial with watch := some ⟨100, seen⟩, ready := true, losses := 1 } }

/-- Chapter 6: a second LOST in a row removes the record, counts LOST and reports TRACKING, which halts. -/
theorem test_watchEnd_lost :
    let t := after (.watchEnd 0) (watched false [blank 42 88])
    t.track.records = [] ∧ counter t .lost = 1#32 ∧ t.line = ⟨.halted, 16#6, .none⟩ ∧
      inspChannel t 0 = ⟨none, none, some ⟨some 42, 88, 0, .lost⟩, true, true, 2⟩ := by decide +kernel

/-- R101: a covered sensor with no record of pitch 88 is UNEXPECTED, and the loss count stays. -/
theorem test_watchEnd_unexpected :
    let t := after (.watchEnd 0) (watched true [])
    hasFault t .tracking = true ∧ (inspChannel t 0).result = some ⟨none, 88, 1, .unexpected⟩ ∧
      (inspChannel t 0).losses = 1 := by decide +kernel

/-- R104: a window that opens on an active line starts a segment at its start. -/
theorem test_inspectionWindowOpen :
    let s := { line .running [order7] [blank 41 91] [due (.inspOpen 1 41)] with
      lines := { running.lines with levels := 16#16 } }
    (inspChannel (after (.inspectionWindowOpen 1 41) s) 1).measurement
      = some ⟨41, 91, posAt 100 3000, posAt 100 2900, 0, some (posAt 100 3000)⟩ := by decide +kernel

/-- Chapter 6: the value of 855 lies within 800..900, PASS. -/
theorem test_inspectionWindowEnd :
    let s := { line .running [order7] [blank 41 91] [due (.inspEnd 1 41)] with
      insp := put running.insp 1 { InspChannel.initial with measurement := some ⟨41, 91, 0, 0, 855, none⟩ } }
    let t := after (.inspectionWindowEnd 1 41) s
    (inspChannel t 1).result = some ⟨some 41, 91, 855, .pass⟩ ∧
      t.track.records.map (fun r => (getAt r.values 1, r.defects)) = [(some 855, 0#7)] := by decide +kernel

/-- R106: a reading of -5 saturates to 0, below the low limit of 1000: FAIL, THICKNESS. -/
theorem test_sampleEvent :
    let s := line .running [order7] [blank 41 91] [due (.inspSample 3 41)]
    let t := after (.sampleEvent 3 41 (-5)) s
    (inspChannel t 3).result = some ⟨some 41, 91, 0, .fail⟩ ∧
      t.track.records.map Record.defects = [oneDefect .thickness] := by decide +kernel

/-- R110: the flags, set 0 as their list puts set first, are cleared and the latest result kept. -/
theorem test_channelResultRead :
    let s := { running with insp := put running.insp 0 ⟨none, none, some ⟨some 42, 88, 0, .lost⟩, true, true, 1⟩ }
    let t := after (.channelResultRead (bytes [0])) s
    replied t = some (.ok, [1, 0, 42, 0, 0, 0, 88, 0, 0, 0, 0, 0, 2, 0, 0, 1]) ∧ (inspChannel t 0).ready = false ∧
      (inspChannel t 0).overrun = false := by decide +kernel

/-! ## Chapter 7 -/

/-- The bytes of an ORDER_QUEUE of order 7 on a slot, HOLD_AFTER and QUIET clear. -/
def queue7 (slot : Nat) : List Byte := bytes [7, 0, 0, slot, 244, 1, 0, 0, 100, 0, 3, 10, 0, 1, 1]

/-- R117, R120: the first order is activated: FEEDING, one order in NORMAL, the reference count 1. -/
theorem test_orderQueue :
    let t := after (.orderQueue (queue7 2)) idle
    replied t = some (.ok, [1, 1, 0]) ∧ t.orders.list = [order7] ∧ (slotOf t 2).refs = 1 ∧ t.reg.source = some 2 ∧
      t.orders.runningClass = some 3 := by decide +kernel

/-- R117: a tag in the list is DUPLICATE; a slot not USABLE is NOT_USABLE. R172: code 0 of 'set, clear' sets HOLD_AFTER. -/
theorem test_orderQueue_refused :
    answer (.orderQueue (queue7 2)) running = some (.duplicate, []) ∧
    answer (.orderQueue (queue7 3)) idle = some (.notUsable, []) ∧
    (newOrder idle (bytes [7, 0, 0, 2, 244, 1, 0, 0, 100, 0, 3, 10, 0, 0, 1])).holdAfter = true := by decide +kernel

/-- Order 50 of chapter 7 before feed 900: delivered 480, 6 COMMITTED, 14 OPEN. -/
def tail : State :=
  line .running [{ order7 with tag := 50, delivered := 480 }, order51]
    ((List.range 20).map (fun i => { blank (BitVec.ofNat 32 i) (BitVec.ofNat 32 i) with
      tag := 50, stage := if i < 6 then .committed else .opened })) []

/-- Chapter 7: target 503 and need 3 before feed 900. HOLD_AFTER and QUIET are clear. -/
theorem test_orderRead : (answer (.orderRead (bytes [50, 0])) tail).map (fun r => (r.2.drop 27, (r.2.drop 13).take 2))
    = some ([6, 14, 230, 1, 0, 0, 247, 1, 0, 0, 3, 0, 0, 0], [1, 1]) := by decide +kernel

/-- Order 60 with HOLD_AFTER, one blank COMMITTED and one OPEN, and order 51 behind it. -/
def aborting : State :=
  line .running [{ order7 with tag := 60, holdAfter := true }, order51]
    [{ blank 1 100 with tag := 60, stage := .committed }, { blank 2 101 with tag := 60 }] []

/-- Chapter 7, step 1: OK, FEED_DONE; SUSPENDED; the OPEN record receives ABORTED; FEED_WAIT (SUSPENDED, 51). -/
theorem test_orderAbort :
    let t := after (.orderAbort (bytes [60, 0])) aborting
    replied t = some (.ok, [2, 255]) ∧ t.orders.feedState = .suspended ∧
      t.track.records.map Record.defects = [0#7, 64#7] ∧ t.notices.queue = [.feedWait false 51] := by decide +kernel

/-- Chapter 7, steps 2 and 3: CHANGEOVER with a FEED_WAIT notice, then STATE. -/
theorem test_orderResume :
    let s := { aborting with orders := { aborting.orders with
      list := [{ order7 with state := .feedDone }, order51], feedState := .suspended, runningClass := some 5 } }
    let t := after (.orderResume []) s
    replied t = some (.ok, [3]) ∧ t.orders.feedState = .changeover ∧ t.notices.queue = [.feedWait true 51] ∧
      answer (.orderResume []) t = some (.state, []) := by decide +kernel

/-- R124: FORCED is bit 0 of the hold reasons. -/
theorem test_feedHold : answer (.feedHold []) running = some (.ok, [1]) := by decide +kernel

theorem test_feedRelease :
    answer (.feedRelease []) (after (.feedHold []) running) = some (.ok, [0]) := by decide +kernel

/-- R133: 1 to 15. -/
theorem test_pullSample : answer (.pullSample (bytes [15])) running = some (.ok, [15]) ∧
    (after (.pullSample (bytes [15])) running).orders.countdown = 15 ∧
    answer (.pullSample (bytes [16])) running = some (.badArg, []) := by decide +kernel

/-- Chapter 3, pitch 100: the capture was out of tolerance, and the blank receives REGISTER. -/
theorem test_feedEvent_accepts :
    let s := fired .feed 3000 { running with reg := { running.reg with last := some ⟨100, 37, true⟩ } }
    let t := after .feedEvent s
    t.track.records.map (fun r => (r.seq, r.cutPitch, r.defects, r.error)) = [(5#32, 100#32, 1#7, some 37)] ∧
      t.track.nextSeq = 6#32 ∧ (slotOf t 2).refs = 2 ∧ counter t .accepted = 1#32 ∧
      counter t .cutTotal = 1#32 := by decide +kernel

/-- Chapter 7, feed 903: need 0 at target 503 hands over from 50 to 51. -/
theorem test_feedEvent_handOver :
    let s := { tail with track := { tail.track with records := tail.track.records ++
      [{ blank 20 20 with tag := 50 }, { blank 21 21 with tag := 50 }, { blank 22 22 with tag := 50 }] } }
    let t := after .feedEvent (fired .feed 3000 s)
    t.orders.list.map (fun o => (o.tag, o.state)) = [(50, .feedDone), (51, .active)] ∧
      (t.track.records.getLast?).map Record.tag = some 51 := by decide +kernel

/-! ## Chapter 8: room at a full outfeed -/

/-- Orders 70 and 71 of chapter 8. -/
def order70 (delivered boxes : Nat) : Order :=
  ⟨0, 70, .normal, 2, 302, 100, 0, 0, false, false, .feedDone, delivered, boxes, false, false⟩

def order71 : Order := ⟨1, 71, .normal, 2, 500, 50, 0, 0, false, false, .active, 0, 0, false, false⟩

/-- A blank of chapter 8, COMMITTED or OPEN. -/
def blank70 (q : U32) (g : Stage) : Record := { blank q q with tag := 70, stage := g }

/-- A moment of chapter 8's worked sequence. -/
def outfeed (o : Order) (rs : List Record) (b : Option Box) (p : Option ProjectedBox) (k w : Nat)
    (e : Scheduled) : State :=
  { line .running [o, order71] (rs ++ [{ blank 806 806 with tag := 71 }]) [due e] with
    deliv := ⟨b, p, k, w, [], 41, false, false⟩ }

/-- Step 1: gate 803 fills the box in the projection and passes at 3 + 0 + 1 = 4. -/
def step1 : State :=
  outfeed (order70 297 2) [blank70 801 .committed, blank70 802 .committed, blank70 803 .opened]
    (some ⟨0, 70, 3, 97, 100, false⟩) (some ⟨0, 70, 99⟩) 0 3 (.gate 803)

theorem test_gateEvent_passes :
    let t := after (.gateEvent 803) step1
    t.deliv.committedCloses = 1 ∧ t.deliv.projected = none ∧
      (findRecord t 803).map Record.stage = some .committed := by decide +kernel

/-- Step 5: gate 805 would be the 302nd, 3 + 1 + 1 = 5: NO_ROOM. -/
def step5 : State :=
  outfeed (order70 299 2) [blank70 803 .committed, blank70 804 .committed, blank70 805 .opened]
    (some ⟨0, 70, 3, 99, 100, false⟩) (some ⟨0, 70, 1⟩) 1 3 (.gate 805)

theorem test_gateEvent_noRoom :
    let t := after (.gateEvent 805) step5
    counter t .rejected = 1#32 ∧ counter t .rejectNoRoom = 1#32 ∧ t.deliv.rejectGate = true ∧
      findRecord t 805 = none ∧ t.deliv.committedCloses = 1 := by decide +kernel

/-- Step 6: delivery 803 closes box 41 FULL: waiting 4, K 0, OUTFEED at H = 3. -/
def step6 : State :=
  outfeed (order70 299 2) [blank70 803 .committed, blank70 804 .committed]
    (some ⟨0, 70, 3, 99, 100, false⟩) (some ⟨0, 70, 1⟩) 1 3 (.delivery 803)

theorem test_deliveryEvent_full :
    let t := after (.deliveryEvent 803) step6
    t.deliv = ⟨none, some ⟨0, 70, 1⟩, 0, 4, [⟨41, 70, 3, 100, .full, 100⟩], 42, false, true⟩ ∧
      counter t .boxesClosed = 1#32 ∧ (findOrder t 70).map Order.boxesClosed = some 3 ∧
      t.notices.queue = [.boxClosed 41] ∧ holdReasons t = 2#5 := by decide +kernel

/-- Step 10: delivery 806 closes box 4 of order 70 ORDER_CHANGE and opens box 1 of order 71. -/
def step10 : State :=
  { line .running [{ order71 with id := 1 }] [{ blank 806 806 with tag := 71, stage := .committed }]
      [due (.delivery 806)] with
    deliv := ⟨some ⟨0, 70, 4, 1, 100, false⟩, some ⟨1, 71, 1⟩, 1, 3, [], 42, false, false⟩ }

theorem test_deliveryEvent_orderChange :
    let t := after (.deliveryEvent 806) step10
    t.deliv.openBox = some ⟨1, 71, 1, 1, 50, false⟩ ∧ t.deliv.waiting = 4 ∧ t.deliv.committedCloses = 0 ∧
      t.deliv.log = [⟨42, 70, 4, 1, .orderChange, 100⟩] := by decide +kernel

/-- R146: at step 1 a close is free; the box of 97 is closed REQUEST, and the replay from no box closes nothing. -/
theorem test_closeBox :
    let t := after (.closeBox []) step1
    replied t = some (.ok, [41, 0, 0, 0, 4, 0]) ∧ t.deliv.projected = some ⟨0, 70, 2⟩ ∧
      t.deliv.log = [⟨41, 70, 3, 97, .request, 100⟩] ∧ answer (.closeBox []) t = some (.empty, []) := by decide +kernel

/-- R146: at step 5, waiting 3 and K 1 leave no place. -/
theorem test_closeBox_full : answer (.closeBox []) step5 = some (.full, []) := by decide +kernel

/-- R148: box 41 is not yet given; the summary carries 41, no entry, waiting 3, K 0, box 3 at 97, projected 99. -/
theorem test_boxLogRead : answer (.boxLogRead (bytes [41, 0, 0, 0])) step1
    = some (.notHeld, [0, 0, 0, 0, 0, 0, 255, 255, 255, 255, 255, 255, 255, 0, 0, 0, 0]
      ++ [41, 0, 0, 0, 0, 3, 0, 70, 0, 3, 0, 0, 0, 97, 0, 70, 0, 99, 0]) := by decide +kernel

theorem test_rejectGateEnd :
    let s := { line .running [order7] [] [due .rejectGateEnd] with deliv := { running.deliv with rejectGate := true } }
    let t := after .rejectGateEnd s
    t.deliv.rejectGate = false ∧ drivenState s 1 = true ∧ drivenState t 1 = false := by decide +kernel

theorem test_separatorPulseEnd :
    let s := { line .running [order7] [] [due .separatorEnd] with deliv := { running.deliv with separator := true } }
    let t := after .separatorPulseEnd s
    t.deliv.separator = false ∧ drivenState s 2 = true ∧ drivenState t 2 = false := by decide +kernel

/-! ## Chapter 9: a jam cleared by hand -/

/-- Steps 4 to 6: HALTED on MASTER_STOP and REVERSE with records in transit, the last frame's LINE_STOP set. -/
def jam : State :=
  let s := faulted 10#6 (line .halted [order7] [blank 1 4980, blank 2 4981] [])
  { s with pos := { s.pos with hwm := posAt 5000 1000, depth := 3700 }, ring := { s.ring with lineStop := true } }

theorem test_lineStart : answer (.lineStart []) idle = some (.ok, [1, 0]) ∧
    (after (.lineStart []) idle).line.run = .running ∧ answer (.lineStart []) State.reset = some (.state, [0, 0]) := by
  decide +kernel

theorem test_lineDrain : (after (.lineDrain []) running).line.run = .idle ∧
    answer (.lineDrain []) (line .running [order7] [blank 1 100] []) = some (.ok, [2, 0]) := by decide +kernel

/-- Step 5: STATE while MASTER_STOP and REVERSE stand; step 8: RUNNING with the set empty. -/
theorem test_lineResume : answer (.lineResume []) jam = some (.state, [3, 10]) ∧
    answer (.lineResume []) (faulted 0#6 jam) = some (.ok, [1, 0]) := by decide +kernel

/-- Step 6: every record is removed LOST, and the line stays HALTED. -/
theorem test_linePurge :
    let t := after (.linePurge []) jam
    replied t = some (.ok, [2, 3, 10]) ∧ t.track.records = [] ∧ counter t .lost = 2#32 := by decide +kernel

/-- Step 4: both faults stay latched with LINE_STOP set and records in the list. -/
theorem test_clearStatus_stays : answer (.clearStatus [] 1700) jam = some (.ok, [3, 10]) := by decide +kernel

/-- Step 7: both clear, and the mark is re-based to pitch 4999, angle 900. -/
theorem test_clearStatus :
    let s := { jam with track := ⟨[], 5⟩, ring := { jam.ring with lineStop := false } }
    let t := after (.clearStatus [] 1700) s
    replied t = some (.ok, [3, 0]) ∧ t.pos.hwm = 17997300 ∧ t.pos.depth = 0 ∧ currentAngle t = 900 := by decide +kernel

/-- R162: OK in every run state; the reset is due once the frame has passed, here at once. -/
theorem test_resetFull : answer (.resetFull []) jam = some (.ok, [3, 10]) ∧
    (after (.resetFull []) jam).line.reset = .due := by decide +kernel

/-- R162: a full reset gives the values after reset, and comes only where it was asked for. -/
theorem test_fullReset :
    after (.fullReset resetPins) (after (.resetFull []) jam) = State.reset ∧
    (after (.fullReset resetPins) jam).line = jam.line := by decide +kernel

/-- 11 R176: the node address is read at the end of the reset. -/
theorem test_powerOnReset :
    (after (.powerOnReset ⟨3, ⟨true, true⟩, 63⟩) jam).ring.node = 63#6 ∧
    (after (.powerOnReset ⟨3, ⟨true, true⟩, 63⟩) jam).ring.watchdog = none ∧
    after (.powerOnReset resetPins) jam = State.reset := by decide +kernel

/-- R9: with the pin held every line is low, an ACTIVE_LOW line too, and no request is taken. -/
theorem test_resetPinHeld :
    let t := after .resetPinHeld { jam with lines := { jam.lines with
      outs := put jam.lines.outs 8 ⟨.manual, .activeLow, .hold, false, none⟩ } }
    outputLevel t 8 = false ∧ (after (.lineStart []) t).reply = none := by decide +kernel

/-! ## Chapter 10 -/

/-- Counters 0 to 2 as 4-byte numbers. -/
def counting : State := count .accepted (count .cutTotal (line .running [order7] [blank 1 100] []))

theorem test_countersRead : answer (.countersRead (bytes [0, 3])) counting
    = some (.ok, [1, 0, 0, 0, 0, 0, 0, 0, 1, 0, 0, 0]) ∧
    answer (.countersRead (bytes [19, 2])) counting = some (.badArg, []) := by decide +kernel

theorem test_countersSnapshot :
    let t := after (.countersSnapshot []) counting
    replied t = some (.ok, []) ∧ t.counters.buffer = counting.counters.live ∧ t.counters.valid = true ∧
      t.counters.live = counting.counters.live := by decide +kernel

/-- R167: CUT_TOTAL and ACCEPTED become the list's length, 1. -/
theorem test_countersSnapshotReset :
    let t := after (.countersSnapshotReset []) (count .diverted counting)
    replied t = some (.ok, [1]) ∧ counter t .cutTotal = 1#32 ∧ counter t .accepted = 1#32 ∧
      counter t .diverted = 0#32 := by decide +kernel

/-- R168: EMPTY before the first snapshot. -/
theorem test_snapshotRead : answer (.snapshotRead (bytes [0, 1])) counting = some (.empty, []) ∧
    answer (.snapshotRead (bytes [2, 1])) (after (.countersSnapshot []) counting) = some (.ok, [1, 0, 0, 0]) := by
  decide +kernel

/-- R170: two notices in 33 bytes: EARLY_END 50 with 10 left, then BOX_CLOSED 41. -/
theorem test_noticeRead :
    let s := offer .takeSpurious (offer (.boxClosed 41) (offer (.earlyEnd 50 10) running))
    let t := after (.noticeRead []) s
    replied t = some (.ok, [2, 1, 50, 0, 10, 0] ++ List.replicate 11 0 ++ [2, 41, 0, 0, 0] ++ List.replicate 11 0) ∧
      t.notices.queue = [.takeSpurious] := by decide +kernel

/-! ## Chapter 11 -/

/-- The usual check value of this CRC: of the digits 1 to 9 it is CBF43926 hexadecimal. -/
theorem test_crc : crc32 (bytes [49, 50, 51, 52, 53, 54, 55, 56, 57]) = 0xCBF43926#32 := by decide +kernel

/-- A frame from its bytes before the check. -/
def frame (l : List Nat) : List Byte := withCheck (bytes (l ++ [0, 0, 0, 0]))

/-- The worked frame of chapter 11 with its three slots and none of its records: cycle 900. -/
def slots : List Nat :=
  [1, 0, 132, 3, 3, 0, 0, 0] ++ ([5, 0, 1] ++ List.replicate 13 0) ++ ([5, 9, 2] ++ List.replicate 13 0)
    ++ ([0, 5, 3, 1, 19] ++ List.replicate 11 0)

/-- The part of chapter 11: IDLE, slot 3 EDITING, take count 17, takes from the ring. -/
def node5 : State :=
  let s := withSlot ⟨.empty, 0, Recipe.initial⟩
  { s with
    ring := { s.ring with takeCount := some 17#8 }
    pos := { s.pos with timebase := 4000#32 }
    store := { s.store with
      slots := put s.store.slots 3 ⟨.editing, 0, Recipe.initial⟩
      inForce := { table with general := { table.general with takeSource := .ring } } } }

/-- Slots 0 and 1 are written, slot 2 stays, the reserved header bytes leave as 0, two takes meet a waiting count of 0, and the
watchdog restarts. -/
theorem test_frameArrival :
    let t := after (.frameArrival (frame ((slots.set 6 7).set 7 9))) node5
    t.ring.sent = frame ([1, 0, 132, 3, 3, 0, 0, 0] ++ ([5, 0, 1, 1] ++ List.replicate 12 0)
      ++ ([5, 9, 2, 1] ++ List.replicate 12 0) ++ ([0, 5, 3, 1, 19] ++ List.replicate 11 0)) ∧
      t.notices.queue = [.takeSpurious, .takeSpurious] ∧ t.ring.takeCount = some 19#8 ∧
      t.ring.watchdog = some 4000#32 ∧ t.ring.cycle = 900 := by decide +kernel

/-- 11 R183: a frame that comes before the FULL_RESET finds the reset values; its arrival restarts the watchdog. -/
theorem test_fullReset_before_frame :
    let t := after (.frameArrival (frame slots)) (after (.resetFull []) node5)
    t.line = ⟨.idle, 0#6, .none⟩ ∧ t.store.validity = .invalid ∧ t.ring.takeCount = some 19#8 ∧
      t.notices.queue = [] ∧ t.ring.watchdog = some 0#32 := by decide +kernel

/-- A damaged frame leaves with its DAMAGED flag set and nothing else changed. -/
theorem test_frameArrival_damaged :
    let t := after (.frameArrival ((frame slots).set 30 1#8)) node5
    t.ring = { node5.ring with sent := ((frame slots).set 30 1#8).set 1 128#8 } ∧ t.notices.queue = [] := by
  decide +kernel

/-- Record 1 of the worked frame, alone: RECIPE_CHECK of slot 3, tag 41. -/
def checkFrame : List Byte :=
  frame ([1, 0, 132, 3, 0, 1, 0, 0] ++ [5, 1, 15, 41, 1, 0, 0, 0, 3] ++ List.replicate 47 0)

/-- Its reply travels in its record: REPLY, tag 41, length 0, ACCEPTED. -/
theorem test_recipeCheck_in_frame :
    let t := after (.recipeCheck (bytes [3])) (after (.frameArrival checkFrame) node5)
    t.ring.sent = frame ([1, 0, 132, 3, 0, 1, 0, 0] ++ [5, 2, 15, 41, 0, 1, 0, 0] ++ List.replicate 48 0) ∧
      t.ring.passage = none ∧ (slotOf t 3).state = .checking := by decide +kernel

/-- R177: RING latches with its notice, in IDLE without a halt, and the watchdog stops. -/
theorem test_watchdogExpiry :
    let t := after .watchdogExpiry idle
    t.line = ⟨.idle, 4#6, .none⟩ ∧ t.notices.queue = [.fault .ring] ∧ t.ring.watchdog = none ∧
      t.pos.timebase = 20000#32 := by decide +kernel

/-- R182: WORKING on slot 2, no last result, node 5, VALID, lock inactive, cycle 0. -/
theorem test_mgmtStatus :
    let s := { idle with mgmt := ⟨some ⟨.recipeClear, 2, 0, false⟩, none⟩ }
    answer (.mgmtStatus [] false) s
      = some (.ok, [1, 1, 2, 255, 255, 255, 255, 255, 255, 255, 5, 1, 0, 0, 0]) := by decide +kernel

/-- R181: a kind code outside the table is UNKNOWN with length 0, whatever its length. -/
theorem test_unknownRequest : answer (.unknownRequest 3 (List.replicate 60 0)) idle = some (.unknown, []) ∧
    (after (.unknownRequest 80 []) idle).reply = none := by decide +kernel

/-! ## Witnesses: for every statement with hypotheses, states and operands that meet them together, at the boundaries of
each clause -/

/-- An event that can be taken is taken from some pending one, leaving some state. -/
theorem some_pair {α β : Type} {o : Option (α × β)} (h : o.isSome = true) : ∃ p u, o = some (p, u) := by
  cases o with
  | none => cases h
  | some x => exact ⟨x.1, x.2, rfl⟩

/-- Whether bytes spell an item. -/
def isItem {α : Type} : Parsed α → Bool
  | .item _ => true
  | _ => false

/-- Whether bytes spell an item with a field out of range. -/
def isBadField {α : Type} : Parsed α → Bool
  | .badField _ => true
  | _ => false

/-- Whether bytes name no item. -/
def isUnknown {α : Type} : Parsed α → Bool
  | .unknown => true
  | _ => false

/-- A state WORKING on a check of slot 2. -/
def busy : State := { withSlot ⟨.checking, 0, recipe⟩ with mgmt := ⟨some ⟨.recipeCheck, 2, 0, false⟩, none⟩ }

/-- A state with a node address. -/
def atNode (n : BitVec 6) : State := { idle with ring := { idle.ring with node := n } }

/-- Every slot EMPTY, the table written. -/
def fresh : State := withSlot ⟨.empty, 0, Recipe.initial⟩

theorem witness_EveryCommandCompletes :
    ({ idle with pending := [.feedEvent, .rejectGateEnd] } : State).pending = .feedEvent :: [.rejectGateEnd] ∧
    State.reset.pending = [] := ⟨rfl, rfl⟩

/-- An empty queue while the reset pin is held; with an event fired at 3000 and one not yet due; with nothing fired and the
moment of a speed window's end come, and not yet come. -/
theorem witness_EveryCommandCompletes_idle :
    (let s := after .resetPinHeld idle
     s.pending = [] ∧ s.resetHeld = true) ∧
    (let s := line .running [order7] [] [due .separatorEnd, plainEvent (posAt 100 3001) .rejectGateEnd]
     s.pending = [] ∧ s.resetHeld = false ∧ posDist s.pos.hwm (posAt 100 3000) ≤ 0 ∧
       0 < posDist s.pos.hwm (posAt 100 3001)) ∧
    (let s := { idle with pos := { idle.pos with timebase := 10000#32 } }
     s.pending = [] ∧ s.pos.due = [] ∧ s.pos.schedule = [] ∧
       10000 ≤ (s.pos.timebase - s.pos.windowStart).toNat ∧ (idle.pos.timebase - idle.pos.windowStart).toNat < 10000 ∧
       idle.ring.watchdog = some 0#32 ∧ (s.pos.timebase - 0#32).toNat < 1000 * s.ring.watchdogMs ∧
       idle.mgmt.inFlight = none) := by decide +kernel

/-- A separator pulse end that is due, the earliest event of the machine, and the machine in which none has. -/
def ending1 : State := line .running [order7] [] [due .separatorEnd]

theorem has_fired : HasFired ending1 .separatorPulseEnd (posAt 100 3000) ending1 :=
  .inr ⟨due .separatorEnd, 0, by decide +kernel, by decide +kernel, rfl, rfl, by decide +kernel⟩

theorem none_fired {s : State} (h : s.pos.due = []) (h' : s.pos.schedule = []) :
    ∀ (c : Instr) (x : Pos) (u : State), ¬ HasFired s c x u := by
  rintro c x u (⟨f, hf, -⟩ | ⟨p, r, hp, -⟩)
  · rw [h] at hf; cases hf
  · rw [h'] at hp; cases hp

/-- The hypotheses on what has fired: an event of the state has, and none has. -/
theorem witness_FiredEventsTaken :
    (ending1.resetHeld = false ∧ HasFired ending1 .separatorPulseEnd (posAt 100 3000) ending1) ∧
    (idle.resetHeld = false ∧ ∀ c x u, ¬ HasFired idle c x u) ∧
    (∀ e, e ∈ idle.pos.schedule → isAppEvent e.event = true → 0 < posDist idle.pos.hwm e.pos) :=
  ⟨⟨rfl, has_fired⟩, ⟨rfl, none_fired rfl rfl⟩, fun _ h => nomatch h⟩

/-- 01 R11, 05 R82: settle takes the feed event, whose blank is diverted, and the end before it and leaves none; at a hand-over
of V the off event behind the mark is taken after the on event that stands before it. -/
theorem test_settle :
    (let s := { fired .feed 3000 idle with deliv := { idle.deliv with separator := true } }
     let t := settle { s with pos := { s.pos with schedule := [plainEvent (posAt 100 2900) .separatorEnd] } }
     t.pos.due = [] ∧ t.pos.schedule = [] ∧ counter t .diverted = 1#32 ∧ t.deliv.separator = false) ∧
    (let on : Pending := ⟨posAt 100 2000, .appOn 1 0 0 0, posAt 100 2000, none⟩
     let off : Pending := ⟨posAt 100 2001, .appOff 1 0 0 0, posAt 100 2000, none⟩
     let t := takeFiredApps (line .running [order7] [blank 1 94] [off, on])
     t.pos.schedule.map Pending.event = [.appOff 1 0 0 0] ∧ (getAt t.app.channels 0).serving = none) := by
  decide +kernel

/-- 01 R17: with nothing due a microsecond passes; 01 R15: a separator pulse end that is due is taken first. -/
theorem test_tick :
    tick idle = { idle with pos := { idle.pos with timebase := 1#32 } } ∧
    tick (line .running [order7] [] [due .separatorEnd])
      = after .separatorPulseEnd (line .running [order7] [] [due .separatorEnd]) := by decide +kernel

theorem witness_ResetsTakeEffect_pin :
    (after .resetPinHeld idle).resetHeld = true ∧ ∀ pins, Instr.lineStart [] ≠ .powerOnReset pins :=
  ⟨by decide +kernel, nofun⟩

theorem witness_RequestsTurnedAway :
    (requestOf (.feedHold []) = some (44, 0, []) ∧ (atNode 0).ring.node = 0#6 ∧ (atNode 63).ring.node = 63#6) ∧
    (requestOf (.feedHold (List.replicate 49 0)) = some (44, 0, List.replicate 49 0) ∧ reachable idle = true ∧
      48 < (List.replicate 49 (0 : Byte)).length) ∧
    (requestOf (.pullSample []) = some (46, 1, []) ∧ ([] : List Byte).length < 1) ∧
    (requestOf (.recipeCheck (bytes [2])) = some (15, 1, bytes [2]) ∧ 15 ∈ busyKinds ∧
      accepts busy 1 (bytes [2]) = true ∧ busy.mgmt.inFlight ≠ none) ∧
    ((atNode 0).ring.node = 0#6 ∧ after (.unknownRequest 3 []) (atNode 63) = atNode 63) ∧
    ((0#8).toNat ∉ knownKinds ∧ (3#8).toNat ∉ knownKinds ∧ (255#8).toNat ∉ knownKinds) := by decide +kernel

/-- A frame with two requests for this node. -/
def twoRequests : List Byte :=
  frame ([1, 0, 132, 3, 0, 2, 0, 0] ++ ([5, 1, 15, 41, 1, 0, 0, 0, 3] ++ List.replicate 47 0)
    ++ ([5, 1, 17, 42, 3, 0, 0, 0, 3, 1, 0] ++ List.replicate 45 0))

theorem witness_ReplyReplacesRecord :
    twoRequests.length = statedLength twoRequests ∧ 0 < recordCount twoRequests ∧ 1 < recordCount twoRequests ∧
      (List.replicate 48 (0 : Byte)).length ≤ 48 := by decide +kernel

/-- Two records, the first another node's, the second asking this one with a length byte. -/
def requests (n : Nat) : List Byte :=
  [1, 0, 132, 3, 0, 2, 0, 0].map (BitVec.ofNat 8) ++ bytes ([4, 1, 15, 41, 1, 0, 0, 0, 3] ++ List.replicate 47 0)
    ++ bytes ([5, 1, 17, 42, n, 0, 0, 0, 3, 1, 0] ++ List.replicate 45 0) ++ [0, 0, 0, 0]

theorem witness_ReplyReplacesRecord_next :
    ((requests 1).length = statedLength (requests 1) ∧ nextRequest 5 (requests 1) = some 1 ∧
      nextRequest 6 (requests 1) = none ∧ recordArgs (requests 1) 1 = bytes [3] ∧
      u8 (requests 1) (recordOff (requests 1) 1 + 4) ≤ 48) ∧
    ((requests 49).length = statedLength (requests 49) ∧ 48 < u8 (requests 49) (recordOff (requests 49) 1 + 4) ∧
      (recordArgs (requests 49) 1).length = 49 ∧ 1 < u8 (requests 49) 5) := by decide +kernel

/-- 11 R181: a request is carried by the next record of its kind and payload, and by no other. -/
theorem test_carriedAs :
    let s := { idle with ring := { idle.ring with passage := some (requests 1) } }
    (carriedAs 17 (bytes [3]) s).map Prod.snd = some 1 ∧ (carriedAs 17 (bytes [2]) s).isNone = true ∧
      (carriedAs 15 (bytes [3]) s).isNone = true ∧ (carriedAs 17 (bytes [3]) idle).isNone = true := by decide +kernel

theorem witness_ReplyTouchesTheFrameOnly :
    nextRequest 5 (writeReply checkFrame 0 (bare .accepted)) = none ∧
    nextRequest 5 (writeReply twoRequests 0 (bare .accepted)) ≠ none ∧ idle.ring.node.toNat = 5 := by decide +kernel

theorem witness_ResetsTakeEffect :
    accepts jam 0 [] = true ∧ (after (.resetFull []) jam).resetHeld = false ∧
      (after (.resetFull []) jam).line.reset = .due := by decide +kernel

theorem witness_LineStartDrainResume :
    (accepts idle 0 [] = true ∧ idle.line.run = .idle ∧ idle.store.validity = .valid ∧
      (line .draining [order7] [blank 1 100] []).line.run = .draining) ∧
    (∀ f, f ≠ .gumSupply → hasFault (faulted 32#6 idle) f = false) ∧
    (State.reset.store.validity = .invalid ∧ hasFault jam .masterStop = true ∧ running.line.run = .running) ∧
    (∀ f, f ≠ .gumSupply → hasFault (faulted 32#6 jam) f = false) ∧
    (accepts (faulted 32#6 jam) 0 [] = true ∧ (faulted 32#6 jam).line.run = .halted ∧ jam.line.run = .halted) :=
  ⟨by decide +kernel, by intro f; cases f <;> decide, by decide +kernel, by intro f; cases f <;> decide,
    by decide +kernel⟩

theorem witness_LinePurge :
    (accepts jam 0 [] = true ∧ jam.line.run = .halted ∧ jam.track.records ≠ [] ∧ accepts running 0 [] = true ∧
      running.line.run ≠ .halted) ∧
    (let o := { order7 with state := .feedDone }
     let s := { jam with orders := { jam.orders with list := [o, order51] } }
     accepts s 0 [] = true ∧ s.line.run = .halted ∧ (s.orders.list.map Order.tag).Nodup ∧ o ∈ s.orders.list ∧
       (∃ r, r ∈ s.track.records ∧ r.tag = o.tag) ∧
       (after (.linePurge []) s).notices.queue = [.orderEnd 7 .short 0 0 500]) := by decide +kernel

theorem witness_ClearStatus :
    accepts jam 0 [] = true ∧ (hasFault jam .reverse = true ∧ jam.track.records ≠ []) ∧
      (hasFault (faulted 63#6 idle) .reverse = true ∧ (faulted 63#6 idle).track.records = []) ∧
      accepts (faulted 63#6 idle) 0 [] = true ∧ hasFault running .reverse = false := by decide +kernel

theorem witness_ReportLatches :
    hasFault jam .reverse = true ∧ hasFault jam .ring = false ∧ hasFault running .gumSupply = false ∧
      hasFault running .tracking = false ∧ running.line.run = .running := by decide +kernel

theorem witness_CounterReads :
    ([[20, 1], [0, 0], [0, 13], [19, 2], [19, 1], [8, 12], [0, 12]] : List (List Nat)).all
      (fun a => accepts counting 2 (bytes a)) = true ∧
    19 < u8 (bytes [20, 1]) 0 ∧ u8 (bytes [0, 0]) 1 = 0 ∧ 12 < u8 (bytes [0, 13]) 1 ∧
    20 < u8 (bytes [19, 2]) 0 + u8 (bytes [19, 2]) 1 ∧ u8 (bytes [8, 12]) 0 + u8 (bytes [8, 12]) 1 ≤ 20 ∧
    u8 (bytes [19, 1]) 0 ≤ 19 ∧ u8 (bytes [8, 12]) 0 ≤ (counterIdx .trimClamped).val ∧
    (counterIdx .trimClamped).val < u8 (bytes [8, 12]) 0 + u8 (bytes [8, 12]) 1 ∧ counting.counters.valid = false ∧
    (snapshot counting).counters.valid = true ∧ accepts (snapshot counting) 2 (bytes [8, 12]) = true := by
  decide +kernel

theorem witness_Snapshots : accepts counting 0 [] = true := by decide +kernel

/-- 10 R169: with 15 notices held one more joins, with 16 it is dropped and the flag is set. -/
theorem test_offer :
    let s (n : Nat) := { running with notices := ⟨List.replicate n .takeSpurious, false⟩ }
    (offer (.boxClosed 1) (s 15)).notices = ⟨List.replicate 15 .takeSpurious ++ [.boxClosed 1], false⟩ ∧
      (offer (.boxClosed 1) (s 16)).notices = ⟨List.replicate 16 .takeSpurious, true⟩ ∧
      (s 15).notices.queue.length < 16 ∧ 16 ≤ (s 16).notices.queue.length ∧
      (after (.frameArrival (frame slots)) { node5 with
        notices := ⟨List.replicate 15 .takeSpurious, false⟩ }).notices = ⟨List.replicate 16 .takeSpurious, true⟩ := by
  decide +kernel

theorem witness_NoticeRead :
    let s := offer .takeSpurious running
    accepts s 0 [] = true ∧ s.notices.queue = [.takeSpurious] ∧
      (offer (.boxClosed 1) s).notices.queue = [.takeSpurious, .boxClosed 1] := by decide +kernel

theorem witness_PositionAndOutputSet :
    (accepts idle 2 (bytes [16, 14]) = true ∧ u16 (bytes [16, 14]) 0 = 3600 ∧ u16 (bytes [15, 14]) 0 = 3599 ∧
      accepts running 2 (bytes [15, 14]) = true ∧ running.line.run ≠ .idle ∧ idle.line.run = .idle ∧
      accepts jam 4 (bytes [255, 255, 0, 1]) = true ∧ jam.line.run = .halted ∧
      (getAt running.lines.outs 0).function ≠ .manual) ∧
    (let e := plainEvent (posAt 100 3200) .separatorEnd
     let s := { idle with pos := { idle.pos with schedule := [e] } }
     accepts s 2 (bytes [0, 0]) = true ∧ s.line.run = .idle ∧ (settle s).pos.schedule = [e] ∧
       isDue (after (.positionSet (bytes [0, 0])) s).pos.hwm e = false ∧
       isDue (after (.positionSet (bytes [15, 14])) s).pos.hwm e = true) := by decide +kernel

/-- The machine halted by a report from one of its lines, with held states. -/
def halting : State := report .tracking (line .running [order7] [blank 1 100, blank 2 101] [])

/-- R5 and R6: a line of each function, RUNNING and HALTED, with RELEASE and with HOLD. -/
theorem witness_PositionAndOutputSet_driven :
    ([running, halting].all (fun s => [(0, .feedGate), (1, .rejectGate), (2, .separator), (3, .channel 0), (7, .channel 1),
      (8, .manual), (9, .none)].all (fun (x : Fin 16 × OutFunction) => (getAt s.lines.outs x.1).function == x.2)) = true) ∧
    (halting.line.run = .halted ∧ (getAt halting.lines.outs 3).safeMode = .release ∧
      (getAt halting.lines.outs 7).safeMode = .hold ∧ (getAt halting.lines.outs 7).held = some false) := by
  decide +kernel

/-- A machine at a reverse depth. -/
def reversed (d : Nat) : State := { idle with pos := { idle.pos with depth := d } }

/-- The recurring events of the commissioned machine, each at its angle, with M 1200, W 150 and A_feed 3000; none one count
beside it. -/
theorem test_recurringAt : recurringAt running 3000 = [.feed] ∧ recurringAt running 1050 = [.captureArm] ∧
    recurringAt running 1350 = [.windowClose] ∧ recurringAt running 100 = [.watchOpen 0] ∧
    recurringAt running 3500 = [.watchEnd 0] ∧ recurringAt running 1049 = [] ∧ recurringAt running 3501 = [] := by
  decide +kernel

theorem witness_EncoderStep :
    idle.resetHeld = false ∧ (settle idle).pos.phases = ⟨false, false⟩ ∧
    (⟨true, false⟩ : PhasePair) = forwardPair (settle idle).pos.phases ∧ (settle idle).pos.depth = 0 ∧
    0 < (settle (reversed 1)).pos.depth ∧ (settle idle).pos.phases = forwardPair ⟨false, true⟩ ∧
    (settle (reversed 3599)).pos.depth = 3599 ∧ (settle (reversed 2147483646)).pos.depth < 2147483647 ∧
    2147483647 ≤ (settle (reversed 2147483647)).pos.depth ∧ true ≠ (settle idle).pos.phases.a ∧
    true ≠ (settle idle).pos.phases.b := by decide +kernel

theorem witness_SpeedWindowEnd :
    let s := { running with pos := { running.pos with windowCount := 4096 } }
    s.resetHeld = false ∧ (after .speedWindowEnd s).pos.speed ≠ s.pos.speed ∧
      (after .speedWindowEnd running).pos.speed = running.pos.speed ∧
      (getAt s.store.inForce.apps 0).enabled = true ∧ (getAt s.store.inForce.apps 11).enabled = false := by
  decide +kernel

/-- A line with an on event pending ahead, whose speed window counts to 900. -/
def speeding : State :=
  let s := line .running [order7] [blank 1 94] [⟨posAt 101 400, .appOn 1 0 0 0, posAt 101 400, none⟩]
  { s with pos := { s.pos with windowCount := 900 } }

/-- The states of the hand-over of V: nothing has fired, and the event is moved and stays ahead of the mark. -/
theorem witness_SpeedWindowEnd_moves :
    let t := after .speedWindowEnd speeding
    let w : State := { speeding with pos := { speeding.pos with
      timebase := t.pos.timebase, windowStart := t.pos.windowStart, windowCount := 0, speed := t.pos.speed } }
    let u := takeFiredApps w
    let v := moveEvents (computeLeads (fun k => (appOf u k).enabled) u)
    speeding.resetHeld = false ∧ t.pos.speed ≠ speeding.pos.speed ∧ u = w ∧ t = v ∧
      v.pos.schedule.map Pending.pos = [posAt 100 3595] ∧
      (∀ k : Fin 12, getAt v.app.channels k = { getAt u.app.channels k with
        onLead := (getAt t.app.channels k).onLead, offLead := (getAt t.app.channels k).offLead }) ∧
      (∀ e, e ∈ v.pos.schedule → isAppEvent e.event = true → isDue speeding.pos.hwm e = false) := by decide +kernel

theorem witness_EdgeEvent_levels :
    running.resetHeld = false ∧ running.lines.modes.getLsbD 6 = true ∧ running.lines.levels.getLsbD 5 = false ∧
      running.lines.modes.getLsbD 5 = false ∧ spanning.lines.levels.getLsbD 4 ≠ false := by decide +kernel

theorem witness_EdgeEvent_mark :
    let s := captured none { running with pos := { running.pos with hwm := posAt 100 1050 } }
    (sectionInForce s = some recipe.register ∧ recipe.register.markLine = 5 ∧
      s.reg.window.map CaptureWindow.line = some 5 ∧ 0 ≤ posDist (posAt 100 1050) (currentPos s)) ∧
    ((captured (some 1237) running).reg.window.bind CaptureWindow.capture = some 1237 ∧
      sectionInForce (captured (some 1237) running) = some recipe.register ∧
      posDist (posAt 100 1050) (posAt 100 1049) < 0 ∧ running.reg.window = none) := by decide +kernel

theorem witness_EdgeEvent_channels :
    let w : InspChannel := { InspChannel.initial with watch := some ⟨100, false⟩ }
    let m (v : Nat) : InspChannel := { InspChannel.initial with measurement := some ⟨41, 91, 0, 9, v, none⟩ }
    let s := { running with insp := put (put (put running.insp 0 w) 1 (m 0)) 2 (m 255) }
    (isPresence s 0 = true ∧ (inspOf s 0).line = 2 ∧ (inspChannel s 0).watch = some ⟨100, false⟩) ∧
    ((inspOf s 1).enabled = true ∧ (inspOf s 1).kind = .span ∧ (inspOf s 1).line = 4 ∧
      ((inspChannel s 1).measurement.map Measurement.segment) = some none ∧
      ((inspChannel spanning 1).measurement.map Measurement.segment) = some (some 1113200)) ∧
    ((inspOf s 2).enabled = true ∧ (inspOf s 2).kind = .count ∧ (inspOf s 2).line = 10 ∧
      (inspChannel s 2).measurement.isSome = true ∧ s.pos.depth = 0) ∧
    (inspOf s 7).enabled = false := by decide +kernel

theorem witness_EdgeEvent_takes :
    running.store.inForce.general.takeSource = .line 9 ∧ running.deliv.waiting = 0 ∧ 0 < step1.deliv.waiting ∧
      step1.store.inForce.general.takeSource = .line 9 ∧ running.lines.levels.getLsbD 9 ≠ true ∧
      running.store.inForce.general.takeSource ≠ .line 2 := by decide +kernel

theorem witness_ConditionsReported :
    State.reset.store.inForce.gum.line = none ∧ running.store.inForce.gum.line = some 6 ∧
      running.store.inForce.gum.threshold ≤ analogRead running 6 1500 ∧
      analogRead running 6 1499 < running.store.inForce.gum.threshold ∧ hasFault running .gumSupply = false ∧
      hasFault (faulted 32#6 running) .gumSupply = true ∧ running.resetHeld = false ∧
      running.ring.watchdog = some 0#32 ∧ (atNode 63).resetHeld = false ∧
      (after .watchdogExpiry running).ring.watchdog = none ∧ hasFault running .ring = false ∧
      hasFault (faulted 4#6 running) .ring = true := by decide +kernel

/-- A frame with one request for this node. -/
def oneRequest : List Byte :=
  frame ([1, 0, 132, 3, 0, 1, 0, 0] ++ ([5, 1, 15, 41, 1, 0, 0, 0, 3] ++ List.replicate 47 0))

theorem witness_FrameArrival :
    (node5.resetHeld = false ∧ repeating node5 = false ∧ node5.line.reset ≠ .due ∧ node5.ring.passage = none ∧
      isDamaged (frame slots) = false ∧ u8 (frame slots) 0 = 1) ∧
    (isDamaged (frame (slots.set 1 1)) = false ∧ ((frame (slots.set 1 1)).getD 1 0#8).getLsbD 0 = true ∧
      u8 (frame (slots.set 1 1)) 0 = 1) ∧
    nextRequest 5 (clearReserved (writeSlots (reportStop (frame slots) (noteFrame (frame slots) node5))
      (frame slots))) = none ∧
    (isDamaged oneRequest = false ∧ u8 oneRequest 0 = 1 ∧ (nextRequest 5 (clearReserved (writeSlots
      (reportStop oneRequest (noteFrame oneRequest node5)) oneRequest))).isSome = true) ∧
    (after (.frameArrival oneRequest) node5).ring.passage.isSome = true ∧
    ((after (.resetFull []) node5).line.reset = .due ∧ (after (.resetFull []) node5).ring.passage = none) ∧
    repeating (atNode 0) = true ∧ repeating (atNode 63) = true ∧
    (isDamaged [] = true ∧ isDamaged ((frame slots).set 30 1#8) = true ∧ isDamaged (frame (slots.set 1 128)) = true ∧
      isDamaged (frame slots ++ [0#8]) = true) ∧
    (isDamaged (frame (slots.set 0 2)) = false ∧ u8 (frame (slots.set 0 2)) 0 ≠ 1) := by decide +kernel

theorem witness_SlotsWritten :
    (frame slots).length = statedLength (frame slots) ∧ 2 < slotCount (frame slots) ∧
      (u8 (frame slots) (slotOff 0) = node5.ring.node.toNat ∧ u8 (frame slots) (slotOff 0 + 2) = 1) ∧
      (u8 (frame slots) (slotOff 1) = node5.ring.node.toNat ∧ u8 (frame slots) (slotOff 1 + 2) = 2) ∧
      u8 (frame slots) (slotOff 2) ≠ node5.ring.node.toNat := by decide +kernel

theorem witness_TakesRead :
    takeSlot node5 (frame slots) = some 19#8 ∧ node5.ring.takeCount = some 17#8 ∧
      node5.store.inForce.general.takeSource = .ring ∧ takeSlot idle (frame slots) = some 19#8 ∧
      idle.ring.takeCount = none ∧ idle.store.inForce.general.takeSource ≠ .ring ∧
      takeSlot (atNode 7) (frame slots) = none ∧ readTakes (frame slots) (atNode 7) = atNode 7 := by decide +kernel

theorem witness_MgmtStatus :
    accepts busy 0 [] = true ∧ busy.mgmt.inFlight = some ⟨.recipeCheck, 2, 0, false⟩ ∧ busy.mgmt.last = none ∧
    (let s := { idle with mgmt := ⟨none, some ⟨.recipeCheck, 7, .badRecipe, some ⟨6, 3, 1, 4⟩⟩⟩ }
     accepts s 0 [] = true ∧ s.mgmt.inFlight = none ∧
       s.mgmt.last = some ⟨.recipeCheck, 7, .badRecipe, some ⟨6, 3, 1, 4⟩⟩) := by decide +kernel

theorem witness_MachineTableWrite :
    (accepts fresh (2 + tableItemSize 7) (bytes [7, 0]) = true ∧ fresh.mgmt.inFlight = none ∧
      isUnknown (parseTableItem 7 0 []) = true) ∧
    (accepts fresh (2 + tableItemSize 6) (bytes [6, 15, 28, 0, 0]) = true ∧
      isBadField (parseTableItem 6 15 (bytes [28, 0, 0])) = true) ∧
    (accepts fresh (2 + tableItemSize 6) (bytes [6, 15, 27, 1, 1]) = true ∧
      isItem (parseTableItem 6 15 (bytes [27, 1, 1])) = true ∧ fresh.line.run = .idle ∧
      (∀ k : Fin 8, (slotOf fresh k).state = .empty) ∧ (∃ k : Fin 8, (slotOf idle k).state ≠ .empty) ∧
      idle.mgmt.inFlight = none ∧ running.line.run ≠ .idle ∧ running.mgmt.inFlight = none) := by decide +kernel

/-- The clauses on a cam entry and on an inspection setting: in order and range, with the relation failing after fields in
range, and after one out of range. -/
theorem witness_ItemRanges :
    (let order (b : List Byte) : Bool := decide (u16 b 1 < u16 b 3 ∧ u16 b 3 - u16 b 1 ≤ 3000)
     order (bytes [11, 87, 2, 15, 14, 15, 7, 7, 184, 11, 1]) = true ∧
       order (bytes [11, 86, 2, 15, 14, 0, 0, 0, 0, 0, 0]) = false ∧ order (bytes [12, 1, 0, 1, 0, 0]) = false ∧
       isBadField (parseRecipeItem 0 3 0 (bytes [12, 1, 0, 1, 0, 0])) = true) ∧
    (let b := bytes [1, 14, 14, 14, 14, 255, 15, 255, 15, 4]
     let c := bytes [1, 14, 14, 15, 14, 255, 15, 254, 15, 4]
     u16 b 3 ≤ u16 b 1 ∧ u8 b 0 ≤ 1 ∧ u16 b 3 ≤ 3599 ∧ u16 c 1 < u16 c 3 ∧ u16 c 7 < u16 c 5 ∧ u16 c 5 ≤ 4095 ∧
       isBadField (parseRecipeItem 0 5 7 (b.set 0 2#8)) = true) ∧
    (24 < (25 : Nat) ∧ isUnknown (parseRecipeItem 24 3 24 []) = true ∧ isUnknown (parseRecipeItem 2 3 3 []) = true) ∧
    ((recipe.cams.length : Nat) = 3 ∧ (2 : Nat) < recipe.cams.length) := by decide +kernel

theorem witness_ItemsKeepEveryField :
    (isItem (parseTableItem 1 0 (bytes [15, 14, 28, 15, 14, 30, 15, 14, 15, 14, 4, 255, 100])) = true ∧
      isItem (parseTableItem 2 0 (bytes [255, 255, 15, 232, 3])) = true ∧
      isItem (parseTableItem 3 11 (bytes [1, 3, 29, 15, 32, 78, 32, 78])) = true ∧
      isItem (parseTableItem 4 7 (bytes [1, 3, 27, 15])) = true ∧
      isItem (parseTableItem 5 0 (bytes [255, 255])) = true ∧ isItem (parseTableItem 6 15 (bytes [27, 1, 1])) = true) ∧
    (isItem (parseRecipeItem 24 1 0 (bytes ([15] ++ List.replicate 12 126))) = true ∧
      isItem (parseRecipeItem 24 2 0 (bytes [1, 15, 14, 132, 3, 0, 1, 200, 8, 7, 194, 1, 15, 15, 15])) = true ∧
      isItem (parseRecipeItem 23 3 23 (bytes [11, 87, 2, 15, 14, 15, 7, 7, 184, 11, 1])) = true ∧
      isItem (parseRecipeItem 24 4 0 (bytes [24])) = true ∧
      isItem (parseRecipeItem 24 5 7 (bytes [1, 14, 14, 15, 14, 255, 15, 255, 15, 4])) = true ∧
      isItem (parseRecipeItem 24 6 0 (bytes [31])) = true) := by decide +kernel

theorem witness_TableAndRecipeReads :
    (accepts idle 2 (bytes [3, 12]) = true ∧ idle.mgmt.inFlight = none ∧
      readTableItem idle.store.working 3 12 = none ∧ (readTableItem idle.store.working 3 11).isSome = true ∧
      accepts idle 3 (bytes [8, 1, 0]) = true ∧ 7 < u8 (bytes [8, 1, 0]) 0 ∧
      u8 (bytes [7, 1, 0]) 0 = (7 : Fin 8).val) ∧
    ([[2, 1, 255], [2, 2, 1], [2, 3, 2], [2, 4, 9], [2, 5, 7], [2, 6, 255], [2, 3, 3], [2, 0, 0], [2, 7, 0],
      [2, 5, 8]] : List (List Nat)).all (fun a => accepts idle 3 (bytes a) && u8 (bytes a) 0 == (2 : Fin 8).val) = true ∧
    ((recipeOf idle 2).cams[2]?.isSome = true ∧ u8 (bytes [2, 5, 7]) 2 = (7 : Fin 8).val ∧
      (recipeOf idle 2).cams.length ≤ u8 (bytes [2, 3, 3]) 2 ∧ 6 < u8 (bytes [2, 7, 0]) 1 ∧
      7 < u8 (bytes [2, 5, 8]) 2) := by decide +kernel

theorem witness_MachineTableApply :
    accepts fresh 0 [] = true ∧ fresh.mgmt.inFlight = none ∧ fresh.line.run = .idle ∧
      (∀ k : Fin 8, (slotOf fresh k).state = .empty) ∧ checkTable fresh.store.working = none ∧
      checkTable tableWithOversight = some ⟨7, 3, 0, 3⟩ ∧ (∃ k : Fin 8, (slotOf idle k).state ≠ .empty) ∧
      accepts idle 0 [] = true ∧ running.line.run ≠ .idle ∧ accepts running 0 [] = true := by decide +kernel

/-- 01 R3: a line that turns DIGITAL takes the level sampled at the apply, and one that was DIGITAL keeps its own. -/
theorem test_apply_levels :
    let s := { fresh with lines := { fresh.lines with modes := 96#16, levels := 2#16 } }
    (after (.machineTableApply [] false 32#16) s).lines.levels = 34#16 := by decide +kernel

theorem witness_RecipeEditAndWrite :
    (accepts idle 1 (bytes [2]) = true ∧ idle.mgmt.inFlight = none ∧ u8 (bytes [2]) 0 = (2 : Fin 8).val ∧
      idle.store.validity = .valid ∧ State.reset.store.validity = .invalid ∧
      accepts State.reset 1 (bytes [2]) = true) ∧
    ((slotOf idle 2).state = .usable ∧ (slotOf idle 2).refs = 0 ∧ (slotOf running 2).state = .usable ∧
      (slotOf running 2).refs ≠ 0 ∧ (slotOf fresh 2).state = .empty ∧
      (slotOf (withSlot ⟨.editing, 0, recipe⟩) 2).state = .editing) ∧
    (let s := withSlot ⟨.editing, 0, recipe⟩
     let len := (recipeOf s 2).cams.length
     accepts s (3 + recipeItemSize 6) (bytes [2, 6, 0, 31]) = true ∧ s.mgmt.inFlight = none ∧
       isItem (parseRecipeItem len 6 0 (bytes [31])) = true ∧ isBadField (parseRecipeItem len 6 0 (bytes [32])) = true ∧
       isUnknown (parseRecipeItem len 6 1 (bytes [31])) = true ∧ (slotOf idle 2).state ≠ .editing) := by decide +kernel

theorem witness_RecipeEditAndWrite_slot : idle.mgmt.inFlight = none ∧ 7 < u8 (bytes [8]) 0 ∧
    accepts idle 1 (bytes [8]) = true ∧ accepts idle (3 + recipeItemSize (u8 (bytes [8, 6, 0, 1]) 1)) (bytes [8, 6, 0, 1]) = true ∧
    7 < u8 (bytes [8, 6, 0, 1]) 0 := by decide +kernel

theorem witness_LongOperations_start :
    accepts idle 1 (bytes [8]) = true ∧ 7 < u8 (bytes [8]) 0 ∧ u8 (bytes [7]) 0 = (7 : Fin 8).val ∧
      u8 (bytes [2]) 0 = (2 : Fin 8).val ∧ accepts idle 1 (bytes [2]) = true ∧ idle.mgmt.inFlight = none ∧
      (slotOf idle 2).state ≠ .editing ∧ (slotOf (withSlot ⟨.editing, 0, recipe⟩) 2).state = .editing ∧
      (slotOf idle 7).state = .empty ∧ ((slotOf running 2).state = .usable ∧ (slotOf running 2).refs ≠ 0) ∧
      ((slotOf idle 2).state ≠ .empty ∧ ((slotOf idle 2).state = .usable → (slotOf idle 2).refs = 0)) := by
  decide +kernel

theorem witness_LongOperations_complete :
    busy.resetHeld = false ∧ busy.mgmt.inFlight = some ⟨.recipeCheck, 2, 0, false⟩ ∧
      checkRecipe busy.store.inForce (recipeOf busy 2) = none ∧ checkRecipe table badRecipe = some ⟨6, 3, 1, 4⟩ ∧
      ({ busy with mgmt := ⟨some ⟨.recipeClear, 2, 0, false⟩, none⟩ } : State).mgmt.inFlight
        = some ⟨.recipeClear, 2, 0, false⟩ := by decide +kernel

theorem witness_ListAndLogReads :
    let s := line .running [order7] [blank 1 100, blank 2 101] []
    (accepts s 5 (bytes [2, 0, 0, 0, 0]) = true ∧ 1 < u8 (bytes [2, 0, 0, 0, 0]) 0 ∧
      30 < u32 (bytes [0, 31, 0, 0, 0]) 1 ∧ u32 (bytes [0, 30, 0, 0, 0]) 1 ≤ 30 ∧
      s.track.records.length ≤ u32 (bytes [0, 2, 0, 0, 0]) 1 ∧ s.track.records[1]? = some (blank 2 101) ∧
      (blank 2 101).seq = BitVec.ofNat 32 (u32 (bytes [1, 2, 0, 0, 0]) 1) ∧ (blank 1 100).seq ≠ (blank 2 101).seq ∧
      s.track.records.all (fun r => r.seq != BitVec.ofNat 32 (u32 (bytes [1, 3, 0, 0, 0]) 1)) = true) ∧
    (accepts s 1 (bytes [8]) = true ∧ 7 < u8 (bytes [8]) 0 ∧ u8 (bytes [7]) 0 = (7 : Fin 8).val) ∧
    (accepts s 2 (bytes [7, 0]) = true ∧ u16 (bytes [0, 0]) 0 = 0 ∧ findOrder s (u16 (bytes [7, 0]) 0) = some order7 ∧
      s.orders.list.all (fun o => o.tag != u16 (bytes [8, 0]) 0) = true ∧
      findOrder tail (u16 (bytes [51, 0]) 0) = some order51 ∧ order51.state ≠ .active) ∧
    (accepts step1 4 (bytes [41, 0, 0, 0]) = true ∧ step1.deliv.log = [] ∧
      (after (.deliveryEvent 803) step6).deliv.log.find?
        (fun x => x.seq == BitVec.ofNat 32 (u32 (bytes [41, 0, 0, 0]) 0)) = some ⟨41, 70, 3, 100, .full, 100⟩) := by
  decide +kernel

/-- The commissioned line with no source of a register section. -/
def unsourced : State := { running with reg := ⟨.off, 0, 0, 0, 0, none, none, none⟩ }

theorem witness_CaptureArmAndEmptyClose_arm :
    (fired .captureArm 1050 running).resetHeld = false ∧
    (∃ x u, takeFired .captureArm (fired .captureArm 1050 running) = some (x, u)) ∧
    sectionInForce (fired .captureArm 1050 running) = some recipe.register ∧
    (∃ x u, takeFired .captureArm (fired .captureArm 1050 unsourced) = some (x, u)) ∧
    sectionInForce (fired .captureArm 1050 unsourced) = none :=
  ⟨by decide +kernel, some_pair (by decide +kernel), by decide +kernel, some_pair (by decide +kernel),
    by decide +kernel⟩

/-- A register state with its counts, a capture at an angle. -/
def closing (r : RegState) (n : Nat) (c : Option Nat) : State :=
  captured c { running with reg := ⟨r, n, n, n, 0, none, none, some 2⟩ }

theorem witness_WindowCloseWithCapture :
    (∃ x u, takeFired .windowClose (closing .locked 2 (some 1225)) = some (x, u)) ∧
    (let s := closing .locked 2 (some 1225)
     s.resetHeld = false ∧ s.reg.window.map CaptureWindow.capture = some (some 1225) ∧
       sectionInForce s = some recipe.register ∧ s.reg.state ≠ .off) ∧
    ((1225 : Int) - 1200).natAbs ≤ recipe.register.tol ∧ recipe.register.tol < ((1226 : Int) - 1200).natAbs ∧
    [RegState.seek, .locked, .coast, .lost].all (fun r =>
      (takeFired .windowClose (closing r 2 (some 1226))).isSome && (closing r 2 (some 1226)).reg.state == r
        && (closing r 2 (some 1226)).reg.good + 1 == recipe.register.kLock
        && (closing r 2 (some 1226)).reg.outliers + 1 == recipe.register.kLost) = true :=
  ⟨some_pair (by decide +kernel), by decide +kernel, by decide, by decide, by decide +kernel⟩

theorem witness_CaptureArmAndEmptyClose :
    (∃ x u, takeFired .windowClose (closing .coast 2 none) = some (x, u)) ∧
    (let s := closing .coast 2 none
     s.resetHeld = false ∧ s.reg.window.map CaptureWindow.capture = some none ∧
       sectionInForce s = some recipe.register ∧ s.reg.state ≠ .off ∧ s.reg.misses + 1 = recipe.register.kLost ∧
       (closing .coast 1 none).reg.misses + 1 ≠ recipe.register.kLost ∧ recipe.register.kLost ≠ 1) ∧
    (∃ x u, takeFired .windowClose (fired .windowClose 1350 running) = some (x, u)) ∧
    (fired .windowClose 1350 running).reg.window = none ∧
    [RegState.seek, .locked, .lost].all (fun r => (takeFired .windowClose (closing r 0 none)).isSome
      && (closing r 0 none).reg.state == r) = true :=
  ⟨some_pair (by decide +kernel), by decide +kernel, some_pair (by decide +kernel), by decide +kernel,
    by decide +kernel⟩

/-- A locked section of K_lost 1. -/
theorem witness_CaptureArmAndEmptyClose_one :
    let s := closing .locked 0 none
    let t := { s with store := { s.store with slots := put s.store.slots 2 ⟨.usable, 1,
      { recipe with register := { recipe.register with kLost := 1 } }⟩ } }
    (takeFired .windowClose t).isSome = true ∧ (sectionInForce t).map RegisterSettings.kLost = some 1 ∧
      t.reg.state = .locked := by decide +kernel

/-- 04 R58: the ACTIVE order's slot, else the next order's, else none. -/
theorem test_wantedSource :
    let other := { order51 with slot := 5 }
    wantedSource (line .running [other, order7] [] []) = some 2 ∧ wantedSource (line .running [other] [] []) = some 5 ∧
      wantedSource (line .running [] [] []) = none := by decide +kernel

/-- Slot 1 holds the recipe with M moved, slot 3 with K_lock 1, slot 4 with its section disabled, slot 5 with another mark
line. -/
def switching : State :=
  let at' (g : RegisterSettings) : Slot := ⟨.usable, 0, { recipe with register := g }⟩
  let moved := put running.store.slots 1 (at' { recipe.register with m := 1201 })
  let short := put moved 3 (at' { recipe.register with kLock := 1 })
  let off := put short 4 (at' { recipe.register with enabled := false })
  let marked := put off 5 (at' { recipe.register with markLine := 11 })
  { running with store := { running.store with slots := marked } }

/-- 04 R59, R60: of the events that have fired an equal section keeps all; another mark line, another M or no section drops
the arm and the close, and keeps the feed event and the watch. -/
theorem test_switch_fired :
    let f (e : Recurring) : Fired := ⟨e, posAt 100 3000⟩
    let s := { switching with pos := { switching.pos with due := [f .captureArm, f .feed, f .windowClose, f (.watchEnd 0)] } }
    (switchTo (some 3) s).pos.due = s.pos.due ∧
      [some 5, some 1, some 4, none].all (fun k => (switchTo k s).pos.due == [f .feed, f (.watchEnd 0)]) = true := by
  decide +kernel

theorem witness_SwitchEvent :
    (sectionInForce switching = some recipe.register ∧ sectionOf switching (some 4) = none ∧
      sectionOf switching none = none) ∧
    (sectionInForce unsourced = none ∧ sectionOf unsourced (some 2) = some recipe.register ∧
      sectionOf unsourced none = none) ∧
    (sectionOf switching (some 1) = some { recipe.register with m := 1201 } ∧
      sectionOf switching (some 3) = some { recipe.register with kLock := 1 } ∧
      sectionOf switching (some 5) = some { recipe.register with markLine := 11 }) ∧
    (wantedSource running = running.reg.source ∧ wantedSource unsourced ≠ unsourced.reg.source) := by decide +kernel

/-- The line with channel 0 serving an earlier blank, whose entry 1 has its off event pending. -/
def displacing (r : RunState) (e : Scheduled) (es : List Pending) : State :=
  { line r [order7] [blank 1 100, blank 2 101] (due e :: es) with
    app := ⟨put State.reset.app.channels 0 ⟨some ⟨1, 1, 0, 0⟩, 405, 270⟩, [⟨1, 100, false⟩, ⟨2, 101, false⟩]⟩ }

theorem witness_OnEvent :
    let s := line .running [order7] [{ blank 1 100 with defects := 1#7 }] [due (.appOn 1 0 0 0)]
    let h := displacing .halted (.appOn 2 0 1 2) [due (.appOn 2 0 0 0)]
    let g := faulted 32#6 (displacing .running (.appOn 1 1 2 0) [])
    let r := displacing .running (.appOn 2 0 0 0) [due (.appOff 1 0 1 0), due (.gate 1)]
    let a := { h with store := { h.store with inForce := { table with apps := put table.apps 0 ⟨true, .aux, 6, 3, 0, 0⟩ } } }
    (s.resetHeld = false ∧ (takeScheduled (.appOn 1 0 0 0) s).isSome = true ∧
      (findRecord s 1).map (isRejectable s) = some true ∧ (recipeOf s 2).cams[0]?.map CamEntry.skip = some true) ∧
    ((takeScheduled (.appOn 2 0 1 2) h).isSome = true ∧ h.line.run = .halted ∧ (appOf h 0).kind = .windowCut ∧
      (recipeOf h 2).cams[1]?.map CamEntry.skip = some false ∧ (findRecord h 2).isSome = true) ∧
    ((takeScheduled (.appOn 2 0 1 2) a).isSome = true ∧ a.line.run = .halted ∧ (appOf a 0).kind = .aux) ∧
    ((takeScheduled (.appOn 1 1 2 0) g).isSome = true ∧ (appOf g 1).kind = .gum ∧ hasFault g .gumSupply = true ∧
      (findRecord g 1).isSome = true ∧ (recipeOf g 2).cams[2]?.isSome = true) ∧
    ((takeScheduled (.appOn 2 0 0 0) r).isSome = true ∧ (findRecord r 2).map (isRejectable r) = some false ∧
      r.line.run ≠ .halted ∧ (appOf r 0).kind ≠ .gum ∧ (getAt r.app.channels 0).serving.map Serving.seq = some 1) := by
  decide +kernel

/-- R83 to R86, R89: in HALTED the channel keeps serving blank 1, and the class added withdraws the skip-on-defect entry 0 of
blank 2; with gum inhibited the blank is marked, and counted once; applied, blank 1 loses its off event there and the gate
event stays. -/
theorem test_onEvent_cases :
    let h := after (.onEvent 2 0 1 2) (displacing .halted (.appOn 2 0 1 2) [due (.appOn 2 0 0 0)])
    let g := after (.onEvent 1 1 2 0) (faulted 32#6 (displacing .running (.appOn 1 1 2 0) []))
    let r := after (.onEvent 2 0 0 0) (displacing .running (.appOn 2 0 0 0) [due (.appOff 1 0 1 0), due (.gate 1)])
    ((getAt h.app.channels 0).serving = some ⟨1, 1, 0, 0⟩ ∧ h.pos.schedule = []) ∧
    (g.app.blanks.map BlankEntry.gumInhibited = [true, false] ∧ counter g .gumInhibited = 1#32) ∧
    ((getAt r.app.channels 0).serving.map Serving.seq = some 2 ∧
      r.pos.schedule.map Pending.event = [.gate 1, .appOff 2 0 0 0]) := by decide +kernel

theorem witness_OutputsEnd :
    let s := { line .running [order7] [blank 61 500] [due (.appOff 61 0 1 2), due .rejectGateEnd, due .separatorEnd] with
      app := ⟨put State.reset.app.channels 0 ⟨some ⟨61, 1, 2, 0⟩, 405, 270⟩, []⟩ }
    s.resetHeld = false ∧ (takeScheduled (.appOff 61 0 1 2) s).isSome = true ∧
      (getAt s.app.channels 0).serving = some ⟨61, 1, 2, 0⟩ ∧ (takeScheduled .rejectGateEnd s).isSome = true ∧
      (takeScheduled .separatorEnd s).isSome = true ∧
      (takeScheduled (.appOff 61 0 0 0) (line .running [order7] [] [due (.appOff 61 0 0 0)])).isSome = true ∧
      (getAt running.app.channels 0).serving = none := by decide +kernel

/-- An event taken once: ahead of the mark it cannot be taken, at the mark it can, and then it is gone; of a recurring event
that has not fired the command changes nothing. -/
theorem witness_OutputsEnd_taking :
    let s := line .running [order7] [] [plainEvent (posAt 100 3001) .separatorEnd]
    let t := line .running [order7] [] [due .rejectGateEnd, due .separatorEnd]
    takeScheduled .separatorEnd s = none ∧ (takeScheduled .separatorEnd t).isSome = true ∧
      ((takeScheduled .separatorEnd t).bind (fun x => takeScheduled .separatorEnd x.2)) = none ∧
      takeFired .feed running = none := by decide +kernel

theorem witness_InspectionOpens :
    let s := fired (.watchOpen 0) 100 running
    let i := fired (.watchOpen 0) 100 idle
    let m := line .running [order7] [blank 41 91] [due (.inspOpen 1 41)]
    (s.resetHeld = false ∧ (takeFired (.watchOpen 0) s).isSome = true ∧ isPresence s 0 = true ∧ s.line.run ≠ .idle) ∧
    ((takeFired (.watchOpen 0) i).isSome = true ∧ i.line.run = .idle ∧ isPresence s 1 = false ∧
      (takeFired (.watchOpen 1) (fired (.watchOpen 1) 100 running)).isSome = true) ∧
    ((takeScheduled (.inspOpen 1 41) m).isSome = true ∧ findRecord m 41 = some (blank 41 91)) := by decide +kernel

theorem witness_WatchEnd :
    [watched true [blank 42 88], watched false [blank 42 88], watched true [], watched false []].all (fun s =>
      !s.resetHeld && (takeFired (.watchEnd 0) s).isSome && isPresence s 0 && s.line.run == .running
        && (inspChannel s 0).watch.map Watch.pitch == some 100#32) = true ∧
    posPitch (posAt 100 3500) = 100#32 ∧ (88#32 : U32) = 100#32 - BitVec.ofNat 32 (inspOf running 0).station ∧
    (blank 42 88).cutPitch = 88#32 ∧
    (let s := { watched true [] with line := ⟨.idle, 0#6, .none⟩ }
     (takeFired (.watchEnd 0) s).isSome = true ∧ s.line.run = .idle) ∧
    (let s (w : Option Watch) := { watched true [] with insp := put running.insp 0 { InspChannel.initial with watch := w } }
     isPresence (s none) 0 = true ∧ (takeFired (.watchEnd 0) (s none)).isSome = true ∧
       (inspChannel (s none) 0).watch = none ∧ isPresence (s none) 1 = false ∧
       (inspChannel (s (some ⟨99, true⟩)) 0).watch = some ⟨99, true⟩ ∧ (99#32 : U32) ≠ posPitch (posAt 100 3500)) := by
  decide +kernel

/-- 09 R154, R156, R157: a second loss that empties the list in DRAINING leaves IDLE and latches TRACKING without a halt; in
RUNNING it halts, the CHANNEL line 7 held as it is driven. -/
theorem test_watchEnd_tracking :
    let s (r : RunState) : State := { watched false [blank 42 88] with
      line := ⟨r, 0#6, .none⟩
      insp := put running.insp 0 { inspChannel (watched false [blank 42 88]) 0 with losses := 1 }
      app := ⟨put State.reset.app.channels 1 ⟨some ⟨9, 2, 0, 0⟩, 0, 0⟩, []⟩ }
    (after (.watchEnd 0) (s .draining)).line = ⟨.idle, 16#6, .none⟩ ∧
      (getAt (after (.watchEnd 0) (s .draining)).lines.outs 7).held = none ∧
      (after (.watchEnd 0) (s .running)).line = ⟨.halted, 16#6, .none⟩ ∧
      (getAt (after (.watchEnd 0) (s .running)).lines.outs 7).held = some true ∧
      (getAt (after (.watchEnd 0) (s .running)).lines.outs 0).held = none := by decide +kernel

/-- 06 R101, 09 R156, R157: an UNEXPECTED judgement reports TRACKING with its notice; in RUNNING it halts the line, and a second
one changes no more. -/
theorem test_watchEnd_unexpected_halts :
    let s := watched true []
    let t := after (.watchEnd 0) s
    t.line = ⟨.halted, 16#6, .none⟩ ∧ t.notices.queue = [.fault .tracking] ∧
      (getAt t.lines.outs 7).held = some false ∧ (getAt s.lines.outs 7).held = none ∧
      (after (.watchEnd 0) (faulted 16#6 s)).line = ⟨.running, 16#6, .none⟩ := by decide +kernel

theorem witness_MeasurementsComplete :
    let s := { line .running [order7] [blank 41 91] [due (.inspEnd 1 41), due (.inspSample 3 41)] with
      insp := put running.insp 1 { InspChannel.initial with measurement := some ⟨41, 91, 0, 45, 855, some 0⟩ } }
    s.resetHeld = false ∧ findRecord s 41 = some (blank 41 91) ∧ (takeScheduled (.inspEnd 1 41) s).isSome = true ∧
      (inspChannel s 1).measurement = some ⟨41, 91, 0, 45, 855, some 0⟩ ∧ (855 : Nat) + (posDist 0 45).toNat = 900 ∧
      (takeScheduled (.inspSample 3 41) s).isSome = true ∧ s.lines.modes.getLsbD (inspOf s 3).line.val = true := by
  decide +kernel

/-- Sixteen orders of tags 101 to 116. -/
def sixteen : List Order :=
  (List.range 16).map (fun i => { order51 with id := i, tag := 101 + i })

theorem witness_OrderQueue_refused :
    (accepts idle 15 (queue7 2) = true ∧ firstBad (orderChecks (queue7 2)) = none ∧
      firstBad (orderChecks (bytes [0, 0, 0, 2, 244, 1, 0, 0, 100, 0, 3, 10, 0, 0, 0])) = some 0 ∧
      firstBad (orderChecks (bytes [7, 0, 0, 2, 244, 1, 0, 0, 100, 0, 3, 10, 0, 0, 2])) = some 8) ∧
    (∃ o, o ∈ running.orders.list ∧ o.tag = u16 (queue7 2) 0) ∧
    (let s := line .running sixteen [] []
     16 ≤ s.orders.list.length ∧ s.orders.list.all (fun o => o.tag != u16 (queue7 2) 0) = true ∧
       accepts s 15 (queue7 2) = true) ∧
    (idle.orders.list.length < 16 ∧ (slotOf idle (Fin.ofNat 8 (u8 (queue7 3) 3))).state ≠ .usable) :=
  ⟨by decide +kernel, ⟨order7, List.mem_cons_self, rfl⟩, by decide +kernel, by decide +kernel⟩

/-- The line in a feed state with order 51 waiting, a running class and records. -/
def waiting (f : FeedState) (c : Nat) (rs : List Record) : State :=
  let s := line .running [order51] rs []
  { s with orders := { s.orders with feedState := f, runningClass := some c } }

theorem witness_OrderQueue_taken :
    let q := bytes [9, 0, 1, 2, 1, 0, 0, 0, 1, 0, 0, 1, 0, 1, 1]
    let c := { idle with orders := { idle.orders with runningClass := some 4 } }
    (accepts idle 15 q = true ∧ firstBad (orderChecks q) = none ∧ idle.orders.list = [] ∧
      newOrder idle q = ⟨0, 9, .priority, 2, 1, 1, 0, 1, false, false, .queued, 0, 0, false, false⟩ ∧
      (slotOf idle (newOrder idle q).slot).state = .usable ∧ idle.orders.feedState = .noOrder ∧
      nextOrder idle = none ∧ activeOrder idle = none ∧ idle.orders.runningClass = none) ∧
    (accepts running 15 q = true ∧ running.orders.list.all (fun x => x.tag != (newOrder running q).tag) = true ∧
      running.orders.feedState = .feeding ∧ (slotOf running (newOrder running q).slot).state = .usable) ∧
    (accepts c 15 q = true ∧ c.orders.feedState = .noOrder ∧ nextOrder c = none ∧ activeOrder c = none ∧
      c.orders.runningClass ≠ none ∧ c.orders.runningClass ≠ some (formatClassOf c (newOrder c q))) := by decide +kernel

/-- In CHANGEOVER a PRIORITY order becomes the next order, of the running class and of another, and a NORMAL one does not. -/
theorem witness_OrderQueue_changeover :
    let q := bytes [9, 0, 1, 2, 1, 0, 0, 0, 1, 0, 0, 1, 0, 1, 1]
    let n := bytes [9, 0, 0, 2, 1, 0, 0, 0, 1, 0, 0, 1, 0, 1, 1]
    [3, 4].all (fun c =>
      let s := waiting .changeover c [blank 1 100]
      let joined (a : List Byte) : State :=
        { s with orders := { s.orders with list := s.orders.list ++ [newOrder s a] } }
      accepts s 15 q && s.orders.feedState == .changeover && firstBad (orderChecks q) == none
        && firstBad (orderChecks n) == none && nextOrder (joined q) == some (newOrder s q)
        && nextOrder (joined n) == some order51 && (slotOf s 2).state == .usable
        && ((s.orders.runningClass == some (formatClassOf s (newOrder s q))) == (c == 3))) = true ∧
    (let s := waiting .changeover 3 [blank 1 100]
     (after (.orderQueue q) s).orders.feedState = .feeding ∧ (after (.orderQueue q) s).notices.queue = [.earlyEnd 9 1]) ∧
    ((line .running sixteen [] []).orders.list.map Order.tag).Nodup ∧ order51 ∈ (waiting .noOrder 3 []).orders.list ∧
    (nextOrder (waiting .noOrder 3 []) = some order51 ∧ nextOrder idle = none) := by decide +kernel

theorem witness_OrderAbort :
    (accepts aborting 2 (bytes [0, 0]) = true ∧ u16 (bytes [0, 0]) 0 = 0 ∧ u16 (bytes [1, 0]) 0 ≠ 0 ∧
      aborting.orders.list.all (fun o => o.tag != u16 (bytes [1, 0]) 0) = true) ∧
    ((findOrder aborting (u16 (bytes [60, 0]) 0)).map (fun o => (o.state, o.holdAfter)) = some (.active, true) ∧
      (aborting.orders.list.map Order.tag).Nodup ∧ (aborting.track.records.map Record.seq).Nodup ∧
      aborting.track.records.any (fun r => r.tag == 60 && cutAt aborting
        { r with defects := r.defects ||| oneDefect .aborted } 2 0) = true ∧
      aborting.track.records.any (fun r => r.tag == 60) = true ∧
      aborting.track.records.any (fun r => r.tag == 60 && r.stage == .opened) = true) ∧
    (findOrder aborting (u16 (bytes [51, 0]) 0) = some order51 ∧ order51.state = .queued ∧
      aborting.orders.feedState ≠ .changeover) ∧
    (let t := after (.orderAbort (bytes [60, 0])) aborting
     accepts t 2 (bytes [60, 0]) = true ∧
       (findOrder t (u16 (bytes [60, 0]) 0)).map (fun o => (o.state, o.aborted)) = some (.feedDone, true)) := by
  decide +kernel

/-- Order 60 in a state, with or without HOLD_AFTER, delivered to Q or not, and its blanks in transit or none. -/
def ending (st : OrderState) (hold : Bool) (done : Nat) (rs : List Record) : State :=
  line .running [{ order7 with tag := 60, state := st, holdAfter := hold, delivered := done }, order51] rs []

theorem witness_OrderAbort_ends :
    let rs := aborting.track.records
    [ending .active true 0 rs, ending .active false 0 rs, ending .feedDone false 0 rs, ending .active true 0 [],
      ending .active false 500 [], ending .feedDone false 500 [], ending .feedDone false 0 []].all (fun s =>
        accepts s 2 (bytes [60, 0]) && decide (s.orders.list.map Order.tag).Nodup
          && (findOrder s (u16 (bytes [60, 0]) 0)).any (fun o =>
            (o.state == .active || (o.state == .feedDone && !o.aborted)) && o.tag == 60)) = true ∧
    (rs.any (fun r => r.tag == 60) = true ∧ u16 (bytes [60, 0]) 0 ≠ 0 ∧
      (ending .feedDone false 0 []).orders.feedState ≠ .changeover ∧
      nextOrder { ending .active false 0 rs with orders := { running.orders with
        list := [{ order7 with tag := 60 }] } } = none) ∧
    ((after (.orderAbort (bytes [60, 0])) (ending .feedDone false 0 [])).notices.queue
      = [.orderEnd 60 .aborted 0 0 500]) ∧
    (findOrder (ending .feedDone false 0 []) 60).map (fun o => (o.aborted, o.state)) = some (false, .feedDone) ∧
    (findOrder (ending .active false 500 []) 60).map Order.delivered = some 500 := by decide +kernel

theorem witness_ResumeHoldsAndSamples_resume :
    (accepts running 0 [] = true ∧ running.orders.feedState = .feeding ∧ idle.orders.feedState = .noOrder ∧
      accepts idle 0 [] = true) ∧
    (let s := { idle with orders := { idle.orders with feedState := .suspended } }
     accepts s 0 [] = true ∧ s.orders.feedState = .suspended ∧ nextOrder s = none) ∧
    (let s := { idle with orders := { idle.orders with feedState := .changeover } }
     accepts s 0 [] = true ∧ s.orders.feedState = .changeover ∧ nextOrder s = none) ∧
    [FeedState.suspended, .changeover].all (fun f =>
      accepts (waiting f 3 []) 0 [] && nextOrder (waiting f 3 [blank 1 100]) == some order51
        && (waiting f 3 [blank 1 100]).orders.runningClass == some (formatClassOf (waiting f 3 []) order51)
        && (waiting f 4 []).track.records.isEmpty && !(waiting f 4 [blank 1 100]).track.records.isEmpty
        && (waiting f 4 [blank 1 100]).orders.runningClass != some (formatClassOf (waiting f 4 []) order51)) = true := by
  decide +kernel

theorem witness_ResumeHoldsAndSamples :
    accepts running 0 [] = true ∧ ([0, 1, 15, 16] : List Nat).all (fun n => accepts running 1 (bytes [n])) = true ∧
      u8 (bytes [0]) 0 = 0 ∧ 1 ≤ u8 (bytes [1]) 0 ∧ u8 (bytes [15]) 0 ≤ 15 ∧ 15 < u8 (bytes [16]) 0 := by
  decide +kernel

theorem witness_FeedDiverts :
    let s := fired .feed 3000 running
    let h := setForced true s
    let n := fired .feed 3000 { tail with orders := { tail.orders with list :=
      [{ order7 with tag := 50, delivered := 480, spare := 0, holdAfter := true }] } }
    (s.resetHeld = false ∧ (takeFired .feed h).isSome = true ∧ isStartable h = false ∧ holdReasons h ≠ 0#5) ∧
    ((takeFired .feed n).isSome = true ∧ isStartable n = false ∧ (activeOrder n).map (needOf n) = some 0) ∧
    ((takeFired .feed (fired .feed 3000 idle)).isSome = true ∧ idle.orders.feedState ≠ .feeding ∧
      idle.line.run ≠ .running) := by decide +kernel

/-- R116, R114 and 03 R49 on chapter 7's tail: target 503, 480 delivered, 6 committed and 14 hopeful leave need 3; order 51
is next and startable. A PRIORITY order behind it is next before it. -/
theorem test_derived_need :
    needOf tail { order7 with tag := 50, delivered := 480 } = 3 ∧ nextOrder tail = some order51 ∧ isStartable tail = true ∧
      nextOrder (line .running [order51, { order51 with tag := 52, lane := .priority }] [] [])
        = some { order51 with tag := 52, lane := .priority } := by decide +kernel

theorem witness_FeedAccepts :
    let s := fired .feed 3000 running
    s.resetHeld = false ∧ (takeFired .feed s).isSome = true ∧ activeOrder s = some order7 ∧ s.line.run = .running ∧
      s.orders.feedState = .feeding ∧ holdReasons s = 0#5 ∧ 0 < needOf s order7 := by decide +kernel

/-- A register state with a last capture of pitch 100, outside tolerance or not. -/
def registered (r : RegState) (outside : Bool) : State :=
  { running with reg := ⟨r, 0, 0, 0, 0, none, some ⟨100, 26, outside⟩, some 2⟩ }

/-- R73: the states and captures of the verdict, of pitch 100 and of another. -/
theorem witness_FeedAccepts_verdicts :
    (unsourced.reg.state = .off ∧ (registered .seek true).reg.state = .seek ∧ (registered .coast true).reg.state = .coast) ∧
    ([(.seek, true), (.locked, true), (.locked, false), (.coast, true)].map
      (fun (x : RegState × Bool) => verdictOf (registered x.1 x.2) 100)
      = [some .outOfRegister, some .outOfRegister, some .inRegister, some .outOfRegister]) ∧
    (verdictOf (registered .locked true) 101 = some .inRegister ∧ errorOf (registered .locked true) 101 = none ∧
      errorOf (registered .seek true) 100 = some 26 ∧ verdictOf unsourced 100 = none) := by decide +kernel

theorem witness_FeedHandsOver :
    let s := fired .feed 3000 { tail with track := { tail.track with records := tail.track.records ++
      [{ blank 20 20 with tag := 50 }, { blank 21 21 with tag := 50 }, { blank 22 22 with tag := 50 }] } }
    s.resetHeld = false ∧ (takeFired .feed s).isSome = true ∧ (s.orders.list.map Order.tag).Nodup ∧
      s.orders.list.countP (fun o => o.state == .active) = 1 ∧ s.orders.feedState = .feeding ∧
      (activeOrder s).map (fun a => (a.tag, needOf s a)) = some (50, 0) ∧ nextOrder s = some order51 ∧
      isStartable s = true ∧
      (decide (0 < order51.early ∧ order51.earlySent = false ∧
        order51.quantity ≤ order51.early + (order51.delivered + committedOf s order51.tag)) = false) ∧
      (after .feedEvent s).track.records.getLast?.map Record.tag = some 51 ∧
      (after .feedEvent (setForced true s)).orders.feedGate = true ∧
      activeOrder (after .feedEvent (setForced true s)) = some { order51 with state := .active } := by decide +kernel

theorem witness_GateRejects :
    let d := line .running [order7] [{ blank 1 100 with defects := 0b1100110#7 }] [due (.gate 1)]
    let f := line .running [{ order7 with delivered := 500, state := .feedDone }] [blank 1 100] [due (.gate 1)]
    (d.resetHeld = false ∧ (takeScheduled (.gate 1) d).isSome = true ∧
      (findRecord d 1).map (rejectClasses d) = some 0b1100110#7 ∧ (findOrder d 7).isSome = true ∧
      hasDefect 0b1100110#7 .window = true ∧ hasDefect 0b1100110#7 .register = false) ∧
    ((takeScheduled (.gate 1) f).isSome = true ∧ (findRecord f 1).map (rejectClasses f) = some 0#7 ∧
      (findOrder f 7).map (fun o => o.delivered + committedOf f o.tag == o.quantity) = some true) ∧
    ((takeScheduled (.gate 805) step5).isSome = true ∧ (findRecord step5 805).map (rejectClasses step5) = some 0#7 ∧
      (findOrder step5 70).map (fun o => decide (o.delivered + committedOf step5 o.tag ≠ o.quantity) &&
        decide (4 < step5.deliv.waiting + step5.deliv.committedCloses + (passClosesOf step5 o).1)) = some true) := by
  decide +kernel

/-- A gate pass that leaves `n` envelopes of an order that warns at 10. -/
def passing (sent : Bool) (delivered : Nat) : State :=
  line .running [{ order7 with delivered := delivered, earlySent := sent }] [blank 1 100] [due (.gate 1)]

theorem witness_GatePasses :
    [passing true 489, passing false 489, passing false 488].all (fun s =>
      !s.resetHeld && (takeScheduled (.gate 1) s).isSome && (findRecord s 1).map (rejectClasses s) == some 0#7
        && (findOrder s 7).any (fun o => o.delivered + committedOf s o.tag != o.quantity
          && decide (s.deliv.waiting + s.deliv.committedCloses + (passClosesOf s o).1 ≤ 4))
        && decide (s.track.records.map Record.seq).Nodup) = true ∧
    (order7.quantity ≤ order7.early + (489 + committedOf (passing false 489) 7 + 1) ∧
      order7.early + (488 + committedOf (passing false 488) 7 + 1) < order7.quantity) ∧
    (blank 1 100).stage = .opened := by decide +kernel

/-- A delivery of order 7, with an open box. -/
def delivering (delivered : Nat) (b : Option Box) : State :=
  { line .running [{ order7 with delivered := delivered }] [{ blank 1 100 with stage := .committed }]
      [due (.delivery 1)] with deliv := ⟨b, none, 1, 0, [], 1, false, false⟩ }

theorem witness_Delivers :
    [delivering 0 none, delivering 97 (some ⟨0, 7, 1, 98, 100, false⟩), delivering 99 (some ⟨0, 7, 1, 99, 100, false⟩),
      delivering 499 (some ⟨0, 7, 5, 3, 100, true⟩), step6, step10,
      { delivering 0 none with orders := { running.orders with list := [{ order7 with boxQuantity := 1 }] } },
      delivering 499 (some ⟨1, 51, 1, 7, 50, false⟩)].all (fun s =>
      !s.resetHeld && decide (s.deliv.log.length ≤ 32)
        && s.track.records.any (fun r => (takeScheduled (.delivery r.seq) s).isSome
          && (findOrder s r.tag).isSome)) = true ∧
    (step10.deliv.openBox.map Box.order = some 0 ∧ (findOrder step10 71).map Order.id = some 1) ∧
    (let t := after (.deliveryEvent 1) (delivering 499 (some ⟨1, 51, 1, 7, 50, false⟩))
     t.notices.queue = [.boxClosed 1, .boxClosed 2, .orderEnd 7 .complete 500 1 0] ∧ t.deliv.waiting = 2 ∧
       t.deliv.log.map BoxEntry.reason = [.orderChange, .final]) := by decide +kernel

theorem witness_CloseBox :
    (accepts step1 0 [] = true ∧ step1.deliv.openBox = some ⟨0, 70, 3, 97, 100, false⟩ ∧
      step1.deliv.waiting + step1.deliv.committedCloses < 4 ∧ accepts step5 0 [] = true ∧
      4 ≤ step5.deliv.waiting + step5.deliv.committedCloses ∧ step5.deliv.openBox.isSome = true ∧
      accepts running 0 [] = true ∧ running.deliv.openBox = none) ∧
    (step1.deliv.committedCloses = (replay step1).1 ∧ (step1.orders.list.map Order.id).Nodup ∧
      (∀ o, o ∈ step1.orders.list → o.id = 0 → 97 < o.boxQuantity)) ∧
    (step6.track.records = [blank70 803 .committed, blank70 804 .committed] ++ [{ blank 806 806 with tag := 71 }] ∧
      step10.track.records = [] ++ [{ blank 806 806 with tag := 71, stage := .committed }] ∧
      (findOrder step10 71).isSome = true ∧ idle.track.records = []) := by decide +kernel

/-- A line in production with its counters as they would stand. -/
def producing : State :=
  count .accepted (count .cutTotal (count .accepted (count .cutTotal
    (line .running [order7] [blank 1 100, blank 2 101] []))))

theorem witness_CounterConservation : Conserved producing ∧ step producing = .next (tick producing) := by
  refine ⟨?_, rfl⟩
  unfold Conserved
  decide +kernel

theorem witness_StepRefs : RefsHold producing ∧ SeqsFit producing ∧
    (∀ r, r ∈ producing.track.records → ageOf producing r + producing.pos.due.length < 4294967296) ∧
    step producing = .next (tick producing) := by
  refine ⟨⟨by decide +kernel, by decide +kernel, ?_⟩, ?_, by decide +kernel, rfl⟩
  · intro o h
    have h' : producing.mgmt.inFlight = none := by decide +kernel
    rw [h'] at h
    cases h
  · unfold SeqsFit; decide +kernel

theorem witness_RecordsGrow : step producing = .next (tick producing) ∧ producing.track.records.length = 2 := ⟨rfl, rfl⟩

theorem witness_StepOneActive : (OneActive producing ∧ step producing = .next (tick producing)) ∧
    Owned producing ∧ OrdersFit producing := by
  refine ⟨⟨?_, rfl⟩, ?_, ?_⟩
  · unfold OneActive; decide +kernel
  · intro r h
    exact ⟨order7, List.mem_cons_self, (by decide +kernel : ∀ r ∈ producing.track.records, order7.tag = r.tag) r h,
      by decide⟩
  · unfold OrdersFit; decide +kernel

/-- The register follows the ACTIVE order, and with no order it is OFF. -/
theorem witness_StepOneActive_source : SourceFits producing ∧ RefsHold producing ∧ OneActive producing ∧
    SourceFits State.reset :=
  ⟨by unfold SourceFits; decide +kernel, witness_StepRefs.1, witness_StepOneActive.1.1, by unfold SourceFits; decide +kernel⟩

/-- Chapter 8's step 6, its delivery waiting in the queue. -/
def delivering803 : State := { step6 with pending := [.deliveryEvent 803] }

/-- The only command that a step carries out, where the one at the front does not settle first. -/
theorem carries_front {s : State} {d : Instr} (h : s.pending = [d]) (hd : ¬ SettlesFirst d) {c : Instr} {v : State}
    (hc : Carries s c v) : c = d ∧ v = { s with pending := [] } := by
  rcases hc with ⟨q, hq, rfl⟩ | ⟨hq, -⟩ | ⟨e, q, w, hq, he, -⟩
  · rw [h] at hq; injection hq with h1 h2; subst h1; subst h2; exact ⟨rfl, rfl⟩
  · rw [h] at hq; cases hq
  · rw [h] at hq; injection hq with h1 h2; subst h1; exact absurd he hd

theorem no_settle (q : U32) : ¬ SettlesFirst (.deliveryEvent q) := by
  rintro (⟨p, h⟩ | ⟨a, h⟩ | ⟨a, l, v, h⟩) <;> cases h

theorem laws_803 : OneActive delivering803 ∧ Owned delivering803 ∧ SeqsFit delivering803 ∧
    (∀ r, r ∈ delivering803.track.records → ageOf delivering803 r + delivering803.pos.due.length < 4294967296) := by
  refine ⟨?_, ?_, ?_, ?_⟩
  · unfold OneActive; decide +kernel
  · unfold Owned; decide +kernel
  · unfold SeqsFit; decide +kernel
  · decide +kernel

/-- The delivery of a COMMITTED record at the head, under the laws together. -/
theorem witness_StepOneActive_orders :
    RefsHold { delivering803 with store := { step6.store with slots := put step6.store.slots 2 ⟨.usable, 5, recipe⟩ } } ∧
    OrdersFit delivering803 ∧
    (∀ d v r, Carries delivering803 (.deliveryEvent d) v → findRecord v d = some r → r.stage = .committed) ∧
    step delivering803 = exec (.deliveryEvent 803) step6 := by
  refine ⟨⟨by decide +kernel, by decide +kernel, ?_⟩, ?_, ?_, rfl⟩
  · intro o h
    have h' : step6.mgmt.inFlight = none := by decide +kernel
    exact absurd (h'.symm.trans h) (by simp)
  · unfold OrdersFit; decide +kernel
  · intro d v r hc hr
    obtain ⟨h1, rfl⟩ := carries_front rfl (no_settle 803) hc
    injection h1 with h1; subst h1
    have h2 : (findRecord { delivering803 with pending := [] } 803).map Record.stage = some .committed := by decide +kernel
    rw [hr] at h2
    injection h2

/-- Chapter 8's step 6 under the laws of the replay: box 41 is one short of its B, K is 1, and delivery 803 is in turn. -/
theorem witness_ReplayKept :
    (ProjectionHolds delivering803 ∧ CommittedFirst delivering803 ∧ IdsFit delivering803) ∧
    (∀ c v, Carries delivering803 c v → InTurn v c) ∧ Room delivering803 ∧ BoxFits delivering803 := by
  refine ⟨⟨?_, ?_, ?_⟩, ?_, ?_, ?_⟩
  · unfold ProjectionHolds; decide +kernel
  · unfold CommittedFirst; decide +kernel
  · unfold IdsFit; decide +kernel
  · intro c v hc
    obtain ⟨rfl, rfl⟩ := carries_front rfl (no_settle 803) hc
    refine ⟨fun q a r b h => (by cases h), ?_, fun j x u w r h => (by cases h)⟩
    intro q r h _ hr
    injection h with h; subst h
    have h1 : findRecord { delivering803 with pending := [] } 803
        = ({ delivering803 with pending := [] } : State).track.records.head? := by decide +kernel
    have h2 : (findRecord { delivering803 with pending := [] } 803).map Record.stage = some .committed := by decide +kernel
    refine ⟨h1.symm.trans hr, ?_⟩
    rw [hr] at h2
    injection h2
  · unfold Room; decide +kernel
  · unfold BoxFits; decide +kernel

/-- What holds of the ages of pitches holds of each. -/
theorem of_ages {s : State} {ps : List U32} {l : List Nat} {P : Nat → Prop} (h : ps.map (pitchAge s) = l)
    (hl : ∀ n, n ∈ l → P n) : ∀ p, p ∈ ps → P (pitchAge s p) :=
  fun _ hp => hl _ (h ▸ List.mem_map_of_mem hp)

/-- Two blanks, the older past its gate, the younger at it; their deliveries pending, and the gate event commanded. -/
def standing : State :=
  { line .running [order7] [{ blank 1 90 with stage := .committed }, blank 2 91]
      [plainEvent (posAt 105 1800) (.gate 2), plainEvent (posAt 112 2400) (.delivery 1),
        plainEvent (posAt 113 2400) (.delivery 2)] with
    pos := { State.reset.pos with hwm := posAt 105 1800, schedule :=
      [plainEvent (posAt 105 1800) (.gate 2), plainEvent (posAt 112 2400) (.delivery 1),
        plainEvent (posAt 113 2400) (.delivery 2)] }
    pending := [.gateEvent 2] }

theorem stands : EventsStand standing := by
  refine ⟨fun f h => (nomatch h), by decide +kernel, ?_, ?_, by decide +kernel⟩
  · intro e q he hq
    have : e ∈ [plainEvent (posAt 105 1800) (.gate 2), plainEvent (posAt 112 2400) (.delivery 1),
      plainEvent (posAt 113 2400) (.delivery 2)] := he
    simp only [List.mem_cons, List.not_mem_nil, or_false] at this
    rcases this with rfl | rfl | rfl <;> cases hq
    exact ⟨blank 2 91, by decide +kernel, rfl, rfl, by decide +kernel⟩
  · intro e q he hq
    have : e ∈ [plainEvent (posAt 105 1800) (.gate 2), plainEvent (posAt 112 2400) (.delivery 1),
      plainEvent (posAt 113 2400) (.delivery 2)] := he
    simp only [List.mem_cons, List.not_mem_nil, or_false] at this
    rcases this with rfl | rfl | rfl <;> cases hq
    · exact ⟨{ blank 1 90 with stage := .committed }, by decide +kernel, rfl, by decide +kernel⟩
    · exact ⟨blank 2 91, by decide +kernel, rfl, by decide +kernel⟩

theorem witness_EventsKeepTheirTurn :
    (TableFits standing ∧ EventsStand standing ∧ RunFits standing ∧ SeqsFit standing) ∧
    (∀ r, r ∈ standing.track.records → ageOf standing r + standing.pos.due.length < 4294967296) ∧
    (OneActive standing ∧ Owned standing ∧ PitchesRise standing) ∧
    Carries standing (.gateEvent 2) { standing with pending := [] } ∧ step standing = exec (.gateEvent 2) { standing with pending := [] } := by
  refine ⟨⟨⟨?_, ?_⟩, stands, ?_, ?_⟩, by decide +kernel, ⟨?_, ?_, ?_⟩, .inl ⟨[], rfl, rfl⟩, rfl⟩
  · exact fun _ => by decide +kernel
  · rintro u (rfl | rfl) <;> decide +kernel
  · unfold RunFits; decide +kernel
  · unfold SeqsFit; decide +kernel
  · unfold OneActive; decide +kernel
  · unfold Owned; decide +kernel
  · have h : ((standing.track.records.map Record.cutPitch ++ firedFeeds standing).map (pitchAge standing)) = [15, 14] := by
      decide +kernel
    exact ⟨by rw [h]; decide, fun _ => of_ages h (by decide)⟩

theorem witness_EventsKeepTheirTurn_runs : RunsUnbroken running ∧ OneActive running ∧ Owned running := by
  refine ⟨⟨?_, ?_⟩, ?_, ?_⟩
  · intro a x b y c h
    cases a <;> cases h
  · intro o a x b _ _ h
    cases a <;> cases h
  · unfold OneActive; decide +kernel
  · unfold Owned; decide +kernel

theorem witness_StepFits : RunFits producing ∧ RunFits (line .draining [order7] [blank 1 100] []) ∧
    TrimFits producing ∧ Fits producing ∧ HeldFits producing ∧ step producing = .next (tick producing) := by
  refine ⟨?_, ?_, ?_, ?_, ?_, rfl⟩
  · unfold RunFits; decide +kernel
  · unfold RunFits; decide +kernel
  · unfold TrimFits; decide +kernel
  · unfold Fits; decide +kernel
  · unfold HeldFits; decide +kernel

/-- Two blanks cut at pitches 97 and 99, and at pitch 100 the feed event fired, or not yet. -/
def rising (es : List Fired) (a : Nat) : State :=
  { line .running [order7] [blank 1 97, blank 2 99] [] with pos := { running.pos with hwm := posAt 100 a, due := es } }

theorem ages_before : (((rising [] 2999).track.records.map Record.cutPitch ++ firedFeeds (rising [] 2999)).map
    (pitchAge (rising [] 2999))) = [3, 1] := by decide +kernel

theorem ages_fired : (((rising [⟨.feed, posAt 100 3000⟩] 3000).track.records.map Record.cutPitch
    ++ firedFeeds (rising [⟨.feed, posAt 100 3000⟩] 3000)).map (pitchAge (rising [⟨.feed, posAt 100 3000⟩] 3000)))
      = [3, 1, 0] := by decide +kernel

/-- HALTED with held states, an open box one short of its B, and cut pitches that rise along the list before the feed event
of pitch 100 and on to it once it has fired. -/
theorem witness_StepFits_laws :
    HeldFits halting ∧ (BoxFits step5 ∧ BoxFits (delivering 99 (some ⟨0, 7, 1, 99, 100, false⟩))) ∧
    (PitchesRise (rising [⟨.feed, posAt 100 3000⟩] 3000) ∧ FiredAtMark (rising [⟨.feed, posAt 100 3000⟩] 3000) ∧
      (rising [⟨.feed, posAt 100 3000⟩] 3000).line.run = .running ∧
      ∀ p, p ∈ (rising [⟨.feed, posAt 100 3000⟩] 3000).track.records.map Record.cutPitch
          ++ firedFeeds (rising [⟨.feed, posAt 100 3000⟩] 3000) →
        pitchAge (rising [⟨.feed, posAt 100 3000⟩] 3000) p < 2147483647) ∧
    (PitchesRise (rising [] 2999) ∧ FiredAtMark (rising [] 2999)) := by
  refine ⟨?_, ⟨?_, ?_⟩, ⟨?_, .inr rfl, rfl, of_ages (P := fun n => n < 2147483647) ages_fired (by decide)⟩, ⟨?_, fun _ => of_ages ages_before (by decide)⟩,
    .inl rfl⟩
  · unfold HeldFits; decide +kernel
  · unfold BoxFits; decide +kernel
  · unfold BoxFits; decide +kernel
  · unfold PitchesRise; decide +kernel
  · rw [ages_before]; decide

/-- The premises of the law of the outfeed for a CLOSE_BOX and an ENCODER_STEP. -/
theorem witness_StepFits_room :
    (Room step1 ∧ step1.deliv.committedCloses = (replay step1).1 ∧ (step1.orders.list.map Order.id).Nodup ∧
      (∀ o, o ∈ step1.orders.list → o.id = 0 → 97 < o.boxQuantity)) ∧
    (Room producing ∧ ∀ c x u, ¬ HasFired producing c x u) := by
  refine ⟨?_, ?_, none_fired rfl rfl⟩ <;> unfold Room <;> decide +kernel

end Sys2Proof.Tests
end

section
/-! SUPPORT. The counters as a ledger. Counter conservation (10 R164) relates the counters 0 to 14 and the length of
the Transit List. `Posts cs s t` says that from `s` to `t` exactly the counters `cs` were counted among those, and that
the list grew and shrank as they say; an event whose postings balance keeps conservation. What posts nothing is said
once for each operation, what posts something once for each event. -/

namespace Sys2Proof.Ledger

open Sys2Proof.Machine

-- One theorem after another, as in the tests: a thread each would ask for more stack than a check may take.
set_option Elab.async false

/-- The counters that conservation relates: the first fifteen (10 section 10.1, R164). -/
abbrev Booked (c : Counter) : Prop := (counterIdx c).val < 15

/-- From `s` to `t` the booked counters rose by the events `cs`, and the Transit List gained a record for each ACCEPTED
among them and lost one for each DELIVERED_GOOD, REJECTED and LOST. -/
structure Posts (cs : List Counter) (s t : State) : Prop where
  counters : ∀ c, Booked c → counter t c = counter s c + BitVec.ofNat 32 (cs.count c)
  length : t.track.records.length + cs.count .deliveredGood + cs.count .rejected + cs.count .lost
    = s.track.records.length + cs.count .accepted

/-- Postings that balance: a cut blank is diverted or accepted, and a reject has one cause (10 R164). -/
def Balances (cs : List Counter) : Prop :=
  cs.count .cutTotal = cs.count .diverted + cs.count .accepted ∧
  cs.count .rejected = cs.count .rejectRegister + cs.count .rejectWindow + cs.count .rejectGum + cs.count .rejectFold
    + cs.count .rejectThickness + cs.count .rejectSample + cs.count .rejectAborted + cs.count .rejectSurplus
    + cs.count .rejectNoRoom

variable {s t u : State} {cs ds : List Counter}

/-- An event whose postings balance keeps conservation. -/
theorem Posts.conserved (p : Posts cs s t) (b : Balances cs) (h : Conserved s) : Conserved t := by
  obtain ⟨hcut, hacc, hrej⟩ := h
  have bcut := congrArg (BitVec.ofNat 32) b.1
  have brej := congrArg (BitVec.ofNat 32) b.2
  have blen := congrArg (BitVec.ofNat 32) p.length
  simp only [BitVec.ofNat_add] at bcut brej blen
  have hc (c : Counter) (k : Booked c := by decide) := p.counters c k
  refine ⟨?_, ?_, ?_⟩
  · rw [hc .cutTotal, hc .diverted, hc .accepted]
    linear_combination hcut + bcut
  · rw [hc .accepted, hc .deliveredGood, hc .rejected, hc .lost]
    linear_combination hacc - blen
  · rw [hc .rejected, hc .rejectRegister, hc .rejectWindow, hc .rejectGum, hc .rejectFold, hc .rejectThickness,
      hc .rejectSample, hc .rejectAborted, hc .rejectSurplus, hc .rejectNoRoom]
    linear_combination hrej + brej

/-- What posts nothing keeps conservation. -/
theorem Posts.conserved_of_nil (p : Posts [] s t) (h : Conserved s) : Conserved t := p.conserved ⟨rfl, rfl⟩ h

/-! ## Postings one after the other -/

theorem Posts.trans (p : Posts cs s t) (q : Posts ds t u) : Posts (cs ++ ds) s u where
  counters c k := by
    rw [q.counters c k, p.counters c k, List.count_append, BitVec.ofNat_add, BitVec.add_assoc]
  length := by
    have := p.length
    have := q.length
    simp only [List.count_append]
    omega

/-- What posts nothing may come after. -/
theorem Posts.andThen (p : Posts cs s t) (q : Posts [] t u) : Posts cs s u := by
  simpa using p.trans q

/-- What posts nothing may come before. -/
theorem Posts.butFirst (q : Posts cs t u) (p : Posts [] s t) : Posts cs s u := p.trans q

/-- Records and live counters as they were: nothing is posted. -/
theorem posts_of_books (hr : t.track.records.length = s.track.records.length)
    (hc : ∀ c, Booked c → counter t c = counter s c) : Posts [] s t where
  counters c k := by simp [hc c k]
  length := by simp [hr]

theorem Posts.refl (s : State) : Posts [] s s := posts_of_books rfl (fun _ _ => rfl)

/-- A change of neither the Transit List nor the live counters posts nothing. -/
theorem posts_of_eq (hr : t.track = s.track) (hc : t.counters.live = s.counters.live) : Posts [] s t :=
  posts_of_books (by rw [hr]) (fun c _ => by unfold counter; rw [hc])

/-- So does an operation that touches neither. -/
theorem posts_of_touches {fs : List StateField} (h : Touches fs s t) (kt : .track ∉ fs := by decide)
    (kc : .counters ∉ fs := by decide) : Posts [] s t :=
  posts_of_eq (h.track kt) (by rw [h.counters kc])

theorem Posts.foldl {α : Type} {g : State → α → State} (h : ∀ t x, Posts [] t (g t x)) :
    ∀ (xs : List α) (s : State), Posts [] s (xs.foldl g s)
  | [], s => .refl s
  | x :: xs, s => (h s x).andThen (Posts.foldl h xs (g s x))

/-! ## Counting -/

theorem counter_count_of_not_booked {c d : Counter} (h : ¬ Booked c) (k : Booked d) (s : State) :
    counter (count c s) d = counter s d := by
  rw [counter_count, if_neg (fun e : d = c => h (e ▸ k))]

/-- What `count` adds, as a posting. -/
theorem counter_count_eq_add (c d : Counter) (s : State) :
    counter (count c s) d = counter s d + BitVec.ofNat 32 ([c].count d) := by
  rw [counter_count, List.count_singleton]
  by_cases k : d = c
  · simp [k]
  · simp [k, Ne.symm k]

theorem posts_count_of_not_booked {c : Counter} (h : ¬ Booked c) (s : State) : Posts [] s (count c s) :=
  posts_of_books (by simp) (fun _ k => counter_count_of_not_booked h k s)

/-- A counter that stands for no record entering or leaving the Transit List. -/
theorem posts_count {c : Counter} (h : c ∉ [Counter.accepted, .deliveredGood, .rejected, .lost]) (s : State) :
    Posts [c] s (count c s) where
  counters d _ := counter_count_eq_add c d s
  length := by
    simp only [List.mem_cons, List.not_mem_nil, or_false, not_or] at h
    simp [h]

/-! ## The Register Unit -/

theorem posts_closeCapture (g : RegisterSettings) (w : CaptureWindow) (s : State) :
    Posts [] s (closeCapture g w s) := by
  have hreg (r : RegisterUnit) : Posts [] s { s with reg := r } := posts_of_touches (setReg_touches r s)
  have hcount {c : Counter} (h : ¬ Booked c) (r : RegisterUnit) : Posts [] s (count c { s with reg := r }) :=
    (hreg r).andThen (posts_count_of_not_booked h _)
  unfold closeCapture
  split
  · simp only
    split
    · exact hreg _
    · exact hcount (by decide) _
  · exact hcount (by decide) _

theorem posts_closeWindow (s : State) : Posts [] s (closeWindow s) := by
  unfold closeWindow
  split
  · split
    · exact .refl s
    · exact posts_closeCapture _ _ s
  · exact .refl s

/-! ## Records amended -/

theorem posts_amendRecord (q : U32) (f : Record → Record) (s : State) : Posts [] s (amendRecord q f s) :=
  posts_of_books (by simp) (fun _ _ => rfl)

theorem posts_addDefect (q : U32) (c : DefectClass) (s : State) : Posts [] s (addDefect q c s) := by
  unfold addDefect
  split
  · exact .refl s
  · exact (posts_amendRecord _ _ s).andThen (posts_of_touches (defectHandOver_touches _ _))

theorem posts_markAborted (tag : Nat) (s : State) : Posts [] s (markAborted tag s) :=
  .foldl (fun t q => posts_addDefect q .aborted t) _ s

theorem posts_completeMeasurement (j : Fin 8) (r : Record) (v : Nat) (s : State) :
    Posts [] s (completeMeasurement j r v s) := by
  have hv : Posts [] s (setValue r.seq j v s) := posts_amendRecord _ _ s
  unfold completeMeasurement
  refine Posts.andThen ?_ (posts_of_touches ((makeResult_touches j _ _).trans (modifyInsp_touches j _ _)))
  split
  · exact hv
  · exact hv.andThen (posts_addDefect _ _ _)

theorem posts_endMeasurement (j : Fin 8) (q : U32) (s : State) : Posts [] s (endMeasurement j q s) := by
  unfold endMeasurement
  split
  · split
    · exact posts_completeMeasurement _ _ _ s
    · exact .refl s
  · exact .refl s

theorem posts_sampleMeasurement (j : Fin 8) (q : U32) (z : Int) (s : State) :
    Posts [] s (sampleMeasurement j q z s) := by
  unfold sampleMeasurement
  split
  · exact .refl s
  · exact posts_completeMeasurement _ _ _ s

/-! ## The Application Unit -/

theorem posts_suppress (q : U32) (k : Fin 12) (s : State) : Posts [] s (suppress q k s) := by
  unfold suppress
  simp only
  split
  · exact (posts_amendRecord _ _ s).andThen (posts_addDefect _ _ _)
  · exact posts_amendRecord _ _ s

theorem posts_countGum (q : U32) (s : State) : Posts [] s (countGum q s) := by
  unfold countGum
  split
  · exact .refl s
  · exact (posts_of_touches (setBlanks_touches _ s)).andThen
      (posts_count_of_not_booked (by decide) _)

theorem posts_applyPair (r : Record) (k : Fin 12) (i : Nat) (e : CamEntry) (dot : Nat) (s : State) :
    Posts [] s (applyPair r k i e dot s) :=
  (((posts_of_touches (displace_touches r.seq k s)).andThen (posts_of_touches (modifyChannel_touches k _ _))).andThen
    (posts_amendRecord _ _ _)).andThen (posts_of_touches (schedule_touches _ _))

theorem posts_judgeOn (q : U32) (k : Fin 12) (i dot : Nat) (s : State) : Posts [] s (judgeOn q k i dot s) := by
  unfold judgeOn
  split
  · exact .refl s
  · split
    · exact .refl s
    · split
      · exact .refl s
      · split
        · exact posts_suppress q k s
        · split
          · exact (posts_suppress q k s).andThen (posts_countGum q _)
          · exact posts_applyPair _ _ _ _ _ s

theorem posts_judgeApp (e : Scheduled) (s : State) : Posts [] s (judgeApp e s) := by
  unfold judgeApp
  split
  · exact posts_judgeOn _ _ _ _ s
  · exact posts_of_touches (judgeOff_touches _ _ _ _ s)
  · exact .refl s

theorem posts_fireDueApps : ∀ (n : Nat) (s : State), Posts [] s (fireDueApps n s)
  | 0, s => .refl s
  | n + 1, s => by
    unfold fireDueApps
    split
    · exact .refl s
    · exact ((posts_of_touches (setSchedule_touches _ s)).andThen (posts_judgeApp _ _)).andThen (posts_fireDueApps n _)

theorem posts_recomputeLeads (s : State) : Posts [] s (recomputeLeads s) :=
  (((posts_fireDueApps _ s).andThen (posts_of_touches (computeLeads_touches _ _))).andThen
    (posts_of_touches (moveEvents_touches _))).andThen (posts_fireDueApps _ _)

/-! ## Boxes -/

theorem closeOpenBox_counters (b : Box) (why : CloseReason) (d : Bool) (s : State) :
    (closeOpenBox b why d s).counters = (count .boxesClosed s).counters := by
  unfold closeOpenBox
  simp only
  split
  · simp [counter]
  · simp [(offer_touches _ _).counters, counter]

theorem posts_closeOpenBox (b : Box) (why : CloseReason) (d : Bool) (s : State) :
    Posts [] s (closeOpenBox b why d s) :=
  posts_of_books (by rw [(closeOpenBox_touches b why d s).track]) (fun c k => by
    rw [counter_of_counters (closeOpenBox_counters b why d s)]
    exact counter_count_of_not_booked (by decide) k s)

/-- Step 1 of a delivery (08 R142). -/
theorem deliverChange_touches (o : Order) (s : State) :
    Touches [.deliv, .counters, .orders, .pos, .notices] s (deliverChange o s) := by
  unfold deliverChange
  split
  · exact .ite (fun _ => .refl _ s) (fun _ => closeOpenBox_touches _ _ _ s)
  · exact .refl _ s

theorem posts_deliverChange (o : Order) (s : State) : Posts [] s (deliverChange o s) := by
  unfold deliverChange
  split
  · split
    · exact .refl s
    · exact posts_closeOpenBox _ _ _ s
  · exact .refl s

/-- Step 2 of a delivery (08 R142). -/
theorem deliverEntry_touches (o : Order) (s : State) : Touches [.deliv, .orders] s (deliverEntry o s) :=
  (setDeliv_touches _ s).andThen (modifyOrder_touches _ _ _) (by decide) (by decide)

/-- Step 3 of a delivery (08 R142). -/
theorem deliverClose_touches (o : Order) (s : State) :
    Touches [.deliv, .counters, .orders, .pos, .notices] s (deliverClose o s) := by
  unfold deliverClose
  split
  · exact .refl _ s
  · exact .ite (fun _ => closeOpenBox_touches _ _ _ s)
      (fun _ => .ite (fun _ => closeOpenBox_touches _ _ _ s) (fun _ => .refl _ s))

theorem posts_deliverClose (o : Order) (s : State) : Posts [] s (deliverClose o s) := by
  unfold deliverClose
  split
  · exact .refl s
  · split
    · exact posts_closeOpenBox _ _ _ s
    · split
      · exact posts_closeOpenBox _ _ _ s
      · exact .refl s

/-! ## Removals -/

/-- A record of the list that is removed under one of DELIVERED_GOOD, REJECTED and LOST (03 R50). -/
theorem posts_removeRecord {r : Record} (hr : r ∈ s.track.records)
    (hout : cs.count .deliveredGood + cs.count .rejected + cs.count .lost = 1) (hin : cs.count .accepted = 0) :
    Posts cs s (removeRecord r cs s) where
  counters c _ := counter_removeRecord r cs s c
  length := by
    have hpos := List.length_pos_of_mem hr
    have hlen : (removeRecord r cs s).track.records.length = s.track.records.length - 1 := by
      rw [removeRecord_track]
      exact List.length_eraseP_of_mem hr (by simp)
    omega

theorem mem_of_findRecord {q : U32} {r : Record} (h : findRecord s q = some r) : r ∈ s.track.records :=
  List.mem_of_find?_eq_some h

/-- The head of the list leaves as LOST (03 R54). -/
theorem conserved_removeHeads : ∀ (n : Nat) (s : State), Conserved s → Conserved (removeHeads n s)
  | 0, _, h => h
  | n + 1, s, h => by
    unfold removeHeads
    split
    · exact h
    · next r _ hr =>
      have hmem : r ∈ s.track.records := by rw [hr]; exact List.mem_cons_self
      exact conserved_removeHeads n _ ((posts_removeRecord hmem rfl rfl).conserved ⟨rfl, rfl⟩ h)

/-! ## Gate and delivery -/

/-- The causes of a reject, which R164 sums to REJECTED. -/
abbrev causes : List Counter := [.rejectRegister, .rejectWindow, .rejectGum, .rejectFold, .rejectThickness,
  .rejectSample, .rejectAborted, .rejectSurplus, .rejectNoRoom]

/-- A gate counts one cause counter of R164's sum with REJECTED (08 R138). -/
theorem gateCause_mem {r : Record} {o : Order} {c : Counter} (h : gateCause s r o = some c) : c ∈ causes := by
  unfold gateCause at h
  split at h
  · next d _ => cases h; cases d <;> decide
  · split at h
    · cases h; decide
    · split at h
      · cases h
      · cases h; decide

/-- REJECTED and one cause balance, and are one blank's leaving. -/
theorem balances_reject : ∀ c ∈ causes, Balances [.rejected, c] ∧
    [Counter.rejected, c].count .deliveredGood + [Counter.rejected, c].count .rejected
      + [Counter.rejected, c].count .lost = 1 ∧ [Counter.rejected, c].count .accepted = 0 := by
  unfold Balances
  decide

theorem conserved_gateReject {r : Record} {o : Order} {c : Counter} (hr : r ∈ s.track.records)
    (hc : gateCause s r o = some c) (x : Pos) (h : Conserved s) : Conserved (gateReject r c x s) := by
  obtain ⟨hbal, hout, hin⟩ := balances_reject c (gateCause_mem hc)
  have hpost : Posts [.rejected, c] s (gateReject r c x s) :=
    (((posts_removeRecord hr hout hin).andThen (posts_of_touches (setDeliv_touches _ _))).andThen
      (posts_of_touches (withdraw_touches _ _))).andThen (posts_of_touches (schedule_touches _ _))
  exact hpost.conserved hbal h

theorem posts_gatePass (r : Record) (o : Order) (s : State) : Posts [] s (gatePass r o s) := by
  unfold gatePass
  simp only
  refine Posts.andThen ?_ (posts_of_touches (earlyTest_touches _ _))
  split
  · exact (posts_amendRecord _ _ s).andThen (posts_of_touches (setDeliv_touches _ _))
  · exact ((posts_amendRecord _ _ s).andThen (posts_of_touches (setDeliv_touches _ _))).andThen
      (posts_count_of_not_booked (by decide) _)

theorem conserved_gateAt (q : U32) (x : Pos) (h : Conserved s) : Conserved (gateAt q x s) := by
  unfold gateAt
  split
  · exact h
  · next r hr =>
    split
    · exact h
    · split
      · next hc => exact conserved_gateReject (mem_of_findRecord hr) hc x h
      · exact (posts_gatePass _ _ s).conserved_of_nil h

theorem conserved_deliverAt (q : U32) (h : Conserved s) : Conserved (deliverAt q s) := by
  unfold deliverAt
  split
  · exact h
  · next r hr =>
    split
    · exact h
    · next o _ =>
      have hmem := mem_of_findRecord hr
      have htrack : (deliverEntry o (deliverChange o s)).track = s.track := by
        rw [(deliverEntry_touches o _).track, (deliverChange_touches o s).track]
      have hentry : Posts [] s (deliverEntry o (deliverChange o s)) :=
        (posts_deliverChange o s).andThen (posts_of_touches (deliverEntry_touches o _))
      simp only
      split
      · next o' _ =>
        have hmem' : r ∈ (deliverClose o' (deliverEntry o (deliverChange o s))).track.records := by
          rw [(deliverClose_touches o' _).track, htrack]; exact hmem
        exact ((posts_removeRecord hmem' rfl rfl).butFirst (hentry.andThen (posts_deliverClose o' _))).conserved
          ⟨rfl, rfl⟩ h
      · exact ((posts_removeRecord (htrack ▸ hmem) rfl rfl).butFirst hentry).conserved ⟨rfl, rfl⟩ h

/-! ## Feed and watch events -/

theorem posts_createRecord (r : Record) (s : State) : Posts [.accepted] s (createRecord r s) where
  counters c _ := by
    rw [counter_of_counters (createRecord_counters s r), counter_count_eq_add]
  length := by simp

/-- A blank cut is diverted or accepted, the list gaining a record for it (07 R125 to R127). -/
theorem conserved_feedAt (p : U32) (h : Conserved s) : Conserved (feedAt p s) := by
  have hcut : Posts [.cutTotal] s (handOverTest (count .cutTotal s)) :=
    (posts_count (by decide) s).andThen (posts_of_touches (handOverTest_touches _))
  unfold feedAt
  simp only
  split
  · refine Posts.conserved (cs := [.cutTotal] ++ [.accepted]) (hcut.trans ?_) ⟨rfl, rfl⟩ h
    exact (((posts_createRecord _ _).andThen (posts_of_touches (announce_touches _ _))).andThen
      (posts_of_touches (countdownStep_touches _))).andThen (posts_of_touches (setFeedGate_touches _ _))
  · refine Posts.conserved (cs := [.cutTotal] ++ [.diverted]) (hcut.trans ?_) ⟨rfl, rfl⟩ h
    exact (posts_count (by decide) _).andThen (posts_of_touches (setFeedGate_touches _ _))

theorem conserved_watchLost (j : Fin 8) {r : Record} (hr : r ∈ s.track.records) (h : Conserved s) :
    Conserved (watchLost j r s) := by
  have hres := (modifyInsp_touches j (fun c => { c with losses := min (c.losses + 1) 255 }) s).trans
    (makeResult_touches j ⟨some r.seq, r.cutPitch, 0, .lost⟩ _)
  have hpost := (posts_removeRecord (cs := [.lost]) (hres.track ▸ hr) rfl rfl).butFirst (posts_of_touches hres)
  unfold watchLost
  simp only
  split
  · exact (hpost.andThen (posts_of_touches (report_touches _ _))).conserved ⟨rfl, rfl⟩ h
  · exact hpost.conserved ⟨rfl, rfl⟩ h

theorem conserved_watchEndAt (j : Fin 8) (p : U32) (h : Conserved s) : Conserved (watchEndAt j p s) := by
  have hend : Touches [.insp] s (endWatch j s) := modifyInsp_touches j _ s
  have hkept : Conserved (endWatch j s) := (posts_of_touches hend).conserved_of_nil h
  unfold watchEndAt
  split
  · split
    · exact h
    · simp only
      split
      · exact hkept
      · split
        · have hpass (r : Record) : Posts [] (endWatch j s) (watchPass j r (endWatch j s)) :=
            (posts_amendRecord r.seq _ _).andThen
              (posts_of_touches ((modifyInsp_touches j _ _).trans (makeResult_touches j _ _)))
          exact (hpass _).conserved_of_nil hkept
        · next r hr _ =>
          exact conserved_watchLost j (hend.track ▸ List.mem_of_find?_eq_some hr) hkept
        · exact ((posts_of_touches (makeResult_touches j _ _)).andThen
            (posts_of_touches (report_touches _ _))).conserved_of_nil hkept
        · exact hkept
  · exact h

/-! ## The part's own taking of events -/

theorem conserved_fireRecurring (e : Recurring) (x : Pos) (h : Conserved s) : Conserved (fireRecurring e x s) := by
  cases e with
  | feed => exact conserved_feedAt _ h
  | captureArm => exact (posts_of_touches (armWindow_touches _ s)).conserved_of_nil h
  | windowClose => exact (posts_closeWindow s).conserved_of_nil h
  | watchOpen j => exact (posts_of_touches (watchOpenAt_touches j _ s)).conserved_of_nil h
  | watchEnd j => exact conserved_watchEndAt j _ h

theorem conserved_firePending (e : Pending) (z : Int) (h : Conserved s) : Conserved (firePending e z s) := by
  unfold firePending
  split
  · exact (posts_judgeOn _ _ _ _ s).conserved_of_nil h
  · exact (posts_of_touches (judgeOff_touches _ _ _ _ s)).conserved_of_nil h
  · exact (posts_of_touches (openMeasurement_touches _ _ _ s)).conserved_of_nil h
  · exact (posts_endMeasurement _ _ s).conserved_of_nil h
  · exact (posts_sampleMeasurement _ _ _ s).conserved_of_nil h
  · exact conserved_gateAt _ _ h
  · exact conserved_deliverAt _ h
  · exact (posts_of_touches (endRejectGate_touches s)).conserved_of_nil h
  · exact (posts_of_touches (endSeparator_touches s)).conserved_of_nil h

theorem conserved_takeDue (e : DueEvent) (h : Conserved s) : Conserved (takeDue e s) := by
  cases e with
  | recurring f => exact conserved_fireRecurring _ _ ((posts_of_touches (setDue_touches _ s)).conserved_of_nil h)
  | scheduled p =>
    have hleft : Posts [] s { s with pos := { s.pos with schedule := s.pos.schedule.erase p } } :=
      posts_of_touches (setSchedule_touches _ s)
    unfold takeDue
    simp only
    split
    · exact conserved_firePending _ _ ((hleft.andThen (posts_of_touches (bumpFree_touches _))).conserved_of_nil h)
    · exact conserved_firePending _ _ (hleft.conserved_of_nil h)

theorem conserved_chooseDue {e : DueEvent} (k : chooseDue s = some (e, t)) (h : Conserved s) : Conserved t :=
  (posts_of_touches (chooseDue_touches k)).conserved_of_nil h

theorem conserved_drainDue : ∀ (n : Nat) (s : State), Conserved s → Conserved (drainDue n s)
  | 0, _, h => h
  | n + 1, s, h => by
    unfold drainDue
    split
    · exact h
    · next k => exact conserved_drainDue n _ (conserved_takeDue _ (conserved_chooseDue k h))

theorem conserved_settle (h : Conserved s) : Conserved (settle s) := conserved_drainDue _ s h

/-! ## Requests and events of the part -/

/-- A request keeps conservation where its owner's rule does: the reply touches no counter and no record. -/
theorem conserved_request {own : State → State × Reply} (kind need : Nat) (args : List Byte) (h : Conserved s)
    (k : Conserved (own s).1) : Conserved (request kind need args own s) := by
  unfold request
  split
  · split
    · exact (posts_of_touches (giveReply_touches _ _ s)).conserved_of_nil h
    · exact (posts_of_touches (giveReply_touches _ _ _)).conserved_of_nil k
  · exact h

theorem conserved_unlessBusy {own : State → State × Reply} (h : Conserved s) (k : Conserved (own s).1) :
    Conserved (unlessBusy own s).1 := by
  unfold unlessBusy
  split
  · exact h
  · exact k

theorem conserved_event {g : State → State} (h : Conserved s) (k : Conserved (g s)) : Conserved (event g s) := by
  unfold event
  split
  · exact h
  · exact k

/-! ## Position, lines and encoder -/

theorem conserved_positionSet (args : List Byte) (h : Conserved s) : Conserved (positionSet args s).1 := by
  unfold positionSet
  simp only
  split
  · exact h
  · split
    · exact h
    · exact ((posts_of_touches (placeAt_touches _ _)).andThen
        (posts_of_touches (fireEnds_touches _))).conserved_of_nil (conserved_settle h)

theorem posts_outputSet (args : List Byte) (s : State) : Posts [] s (outputSet args s).1 :=
  posts_of_eq (by simp [outputSet]) (by simp [outputSet])

theorem posts_setPos (p : PositionUnit) (s : State) : Posts [] s { s with pos := p } := posts_of_eq rfl rfl

theorem posts_reverseStep (s : State) : Posts [] s (reverseStep s) := by
  unfold reverseStep
  split
  · exact posts_of_touches (report_touches _ s)
  · simp only
    split
    · exact (posts_setPos _ s).andThen (posts_of_touches (report_touches _ _))
    · exact posts_setPos _ s

theorem posts_encoderMove (pair : PhasePair) (s : State) : Posts [] s (encoderMove pair s) := by
  unfold encoderMove
  split
  · exact .refl s
  · simp only
    refine (posts_setPos { s.pos with phases := pair } s).andThen ?_
    split
    · unfold forwardStep
      split
      · exact posts_setPos _ _
      · exact posts_of_touches (advance_touches _)
    · split
      · exact posts_reverseStep _
      · exact posts_of_touches (report_touches _ _)

theorem posts_timeAtLeast (t0 : U32) (n : Nat) (s : State) : Posts [] s (timeAtLeast t0 n s) := by
  unfold timeAtLeast
  split
  · exact posts_setPos _ s
  · exact .refl s

theorem posts_endWindow (s : State) : Posts [] s (endWindow s) := by
  have htime := posts_timeAtLeast s.pos.windowStart 10000 s
  unfold endWindow
  simp only
  split
  · exact htime.andThen (posts_setPos _ _)
  · exact (htime.andThen (posts_setPos _ _)).andThen (posts_recomputeLeads _)

theorem posts_edgeAt (l : Fin 16) (level : Bool) (s : State) : Posts [] s (edgeAt l level s) := by
  have hset : Posts [] s (setLevel l level s) := posts_of_touches (setLevel_touches _ _ s)
  unfold edgeAt
  split
  · exact .refl s
  · split
    · exact .refl s
    · simp only
      refine Posts.andThen (Posts.andThen ?_ (posts_of_touches (inspEdge_touches _ _ _)))
        (posts_of_touches (takeEdge_touches _ _ _))
      split
      · exact hset.andThen (posts_of_touches (markEdge_touches _ _))
      · exact hset

/-! ## Machine Table and recipes -/

theorem posts_machineTableWrite (args : List Byte) (lock : Bool) (s : State) :
    Posts [] s (machineTableWrite args lock s).1 := by
  unfold machineTableWrite
  split
  · exact .refl s
  · exact .refl s
  · split
    · exact .refl s
    · exact posts_of_eq (writeWorking_track s _) (by rw [writeWorking_counters])

theorem posts_machineTableRead (args : List Byte) (s : State) : Posts [] s (machineTableRead args s).1 := by
  unfold machineTableRead
  split <;> exact .refl s

theorem posts_applyTable (levels : BitVec 16) (s : State) : Posts [] s (applyTable levels s) := by
  refine Posts.andThen (t := applyWatchdog _ (applyLines _ levels _)) (posts_of_eq ?_ ?_)
    (posts_of_touches (computeLeads_touches _ _))
  · rw [applyWatchdog_track, applyLines_track]
  · rw [applyWatchdog_counters, applyLines_counters]

/-- An apply that passes first takes what has fired (01 R16), and so may cut, reject and deliver. -/
theorem conserved_machineTableApply (lock : Bool) (levels : BitVec 16) (h : Conserved s) :
    Conserved (machineTableApply lock levels s).1 := by
  unfold machineTableApply
  split
  · exact h
  · split
    · exact h
    · exact (posts_applyTable levels _).conserved_of_nil (conserved_settle h)

theorem posts_setSlotState (k : Fin 8) (x : SlotState) (s : State) : Posts [] s (setSlotState k x s) :=
  posts_of_touches (modifySlot_touches _ _ s)

theorem posts_recipeEdit (args : List Byte) (lock : Bool) (s : State) : Posts [] s (recipeEdit args lock s).1 := by
  unfold recipeEdit
  split
  · exact .refl s
  · split
    · exact .refl s
    · split
      · exact .refl s
      · simp only
        split
        · exact (posts_of_touches (modifySlot_touches _ _ s)).andThen (posts_setSlotState _ _ _)
        · exact .refl s
        · split
          · exact posts_setSlotState _ _ s
          · exact .refl s
        · exact .refl s
        · exact .refl s

theorem posts_recipeWrite (args : List Byte) (lock : Bool) (s : State) : Posts [] s (recipeWrite args lock s).1 := by
  unfold recipeWrite
  split
  · exact .refl s
  · split
    · exact .refl s
    · exact .refl s
    · split
      · exact .refl s
      · split
        · exact .refl s
        · exact posts_of_touches (modifySlot_touches _ _ s)

theorem posts_startWork (op : LongOp) (k : Fin 8) (b : Bool) (s : State) : Posts [] s (startWork op k b s) :=
  posts_of_eq rfl rfl

theorem posts_recipeCheck (args : List Byte) (s : State) : Posts [] s (recipeCheck args s).1 := by
  unfold recipeCheck
  split
  · exact .refl s
  · split
    · exact .refl s
    · exact (posts_setSlotState _ _ s).andThen (posts_startWork _ _ _ _)

theorem posts_recipeClear (args : List Byte) (lock : Bool) (s : State) : Posts [] s (recipeClear args lock s).1 := by
  unfold recipeClear
  split
  · exact .refl s
  · split
    · exact .refl s
    · split
      · exact .refl s
      · split
        · exact .refl s
        · exact (posts_setSlotState _ _ s).andThen (posts_startWork _ _ _ _)

theorem posts_recipeRead (args : List Byte) (s : State) : Posts [] s (recipeRead args s).1 := by
  unfold recipeRead
  split
  · exact .refl s
  · split <;> exact .refl s

theorem posts_finishWork (op : LongOp) (k : Fin 8) (c : ResultCode) (f : Option CheckFailure) (s : State) :
    Posts [] s (finishWork op k c f s) := by
  have hmgmt : Posts [] s { s with mgmt := ⟨none, some ⟨op, k, c, f⟩⟩ } := posts_of_eq rfl rfl
  exact hmgmt.andThen (posts_of_touches (offer_touches _ _))

theorem posts_checkCompletion (s : State) : Posts [] s (checkCompletion s) := by
  unfold checkCompletion
  split
  · unfold completeCheck
    split
    · exact (posts_setSlotState _ _ s).andThen (posts_finishWork _ _ _ _ _)
    · exact (posts_setSlotState _ _ s).andThen (posts_finishWork _ _ _ _ _)
  · exact .refl s

theorem posts_clearCompletion (s : State) : Posts [] s (clearCompletion s) := by
  unfold clearCompletion
  split
  · exact ((posts_of_touches (modifySlot_touches _ _ s)).andThen (posts_setSlotState _ _ _)).andThen
      (posts_finishWork _ _ _ _ _)
  · exact .refl s

/-! ## Reads -/

theorem posts_transitRead (args : List Byte) (s : State) : Posts [] s (transitRead args s).1 := by
  unfold transitRead
  simp only
  split
  · exact .refl s
  · split
    · exact .refl s
    · split <;> exact .refl s

theorem posts_channelResultRead (args : List Byte) (s : State) : Posts [] s (channelResultRead args s).1 := by
  unfold channelResultRead
  split
  · exact posts_of_touches (modifyInsp_touches _ _ s)
  · exact .refl s

theorem posts_orderRead (args : List Byte) (s : State) : Posts [] s (orderRead args s).1 := by
  unfold orderRead
  split
  · exact .refl s
  · split <;> exact .refl s

/-! ## Orders -/

theorem posts_enqueue (o : Order) (s : State) : Posts [] s (enqueue o s) := by
  have hjoin : Posts [] s (updateSource (refUp o.slot (joinList o s))) :=
    ((posts_of_eq (joinList_track s o) (by rw [joinList_counters])).andThen
      (posts_of_touches (refUp_touches _ _))).andThen (posts_of_touches (updateSource_touches _))
  unfold enqueue
  simp only
  refine hjoin.andThen ?_
  split
  · exact posts_of_touches (select_touches _)
  · split
    · exact posts_of_touches (reexamine_touches _)
    · exact .refl _
  · exact .refl _
  · exact .refl _

theorem posts_orderQueue (args : List Byte) (s : State) : Posts [] s (orderQueue args s).1 := by
  unfold orderQueue
  split
  · exact .refl s
  · split
    · exact .refl s
    · exact posts_enqueue _ s

theorem posts_abortOrder (o : Order) (s : State) : Posts [] s (abortOrder o s) := by
  have hmark : Posts [] s (markAbort o s) :=
    (posts_of_touches (modifyOrder_touches _ _ s)).andThen (posts_markAborted _ _)
  unfold abortOrder
  split
  · exact hmark.andThen (posts_of_touches (afterActive_touches _ _))
  · exact hmark

theorem posts_finishAbort (o : Order) (s : State) : Posts [] s (finishAbort o s).1 := by
  unfold finishAbort
  split
  · exact .refl s
  · split
    · exact .refl s
    · split
      · exact .refl s
      · exact posts_of_touches (depart_touches _ _ s)

theorem posts_orderAbort (args : List Byte) (s : State) : Posts [] s (orderAbort args s).1 := by
  unfold orderAbort
  split
  · exact .refl s
  · split
    · exact .refl s
    · split
      · exact posts_of_touches (depart_touches _ _ s)
      · split
        · exact .refl s
        · exact (posts_abortOrder _ s).andThen (posts_finishAbort _ _)

theorem posts_resumeNext (o : Order) (s : State) : Posts [] s (resumeNext o s).1 := by
  unfold resumeNext
  split
  · exact posts_of_touches (activate_touches o s)
  · split
    · exact (posts_of_touches (setFeed_touches _ s)).andThen (posts_of_touches (offer_touches _ _))
    · exact .refl s

theorem posts_orderResume (s : State) : Posts [] s (orderResume s).1 := by
  unfold orderResume
  split
  · exact .refl s
  · exact .refl s
  · split
    · exact posts_of_touches (setFeed_touches _ s)
    · exact posts_resumeNext _ s
  · split
    · exact .refl s
    · exact posts_resumeNext _ s

theorem posts_pullSample (args : List Byte) (s : State) : Posts [] s (pullSample args s).1 := by
  unfold pullSample
  split
  · exact posts_of_eq rfl rfl
  · exact .refl s

theorem posts_closeBox (s : State) : Posts [] s (closeBox s).1 := by
  unfold closeBox
  split
  · exact .refl s
  · split
    · exact .refl s
    · exact (posts_closeOpenBox _ _ _ s).andThen (posts_of_touches (rebuildProjection_touches _))

/-! ## Line Control -/

theorem posts_lineStart (s : State) : Posts [] s (lineStart s).1 := by
  unfold lineStart
  split
  · exact .refl s
  · split
    · exact .refl s
    · split
      · exact .refl s
      · exact posts_of_touches (setRun_touches _ s)

theorem posts_lineDrain (s : State) : Posts [] s (lineDrain s).1 := by
  unfold lineDrain
  split
  · exact .refl s
  · exact .refl s
  · exact posts_of_touches (setRun_touches _ s)
  · split
    · exact .refl s
    · exact posts_of_touches (leaveHalted_touches _ s)

theorem posts_lineResume (s : State) : Posts [] s (lineResume s).1 := by
  unfold lineResume
  split
  · exact posts_of_touches (leaveHalted_touches _ s)
  · exact .refl s

theorem conserved_linePurge (h : Conserved s) : Conserved (linePurge s).1 := by
  unfold linePurge
  split
  · exact ((posts_of_touches (dropWatches_touches _)).andThen
      (posts_of_touches (rebuildProjection_touches _))).conserved_of_nil (conserved_removeHeads _ s h)
  · exact h

theorem posts_clearFault (reading : Int) (s : State) (f : FaultKind) : Posts [] s (clearFault reading s f) := by
  have hun : Posts [] s (unlatch f s) := posts_of_touches (unlatch_touches f s)
  unfold clearFault
  split
  · refine hun.andThen ?_
    cases f with
    | reverse => exact posts_of_touches (rebase_touches _)
    | tracking => exact posts_of_touches (clearLosses_touches _)
    | encoder => exact .refl _
    | ring => exact .refl _
    | masterStop => exact .refl _
    | gumSupply => exact .refl _
  · exact .refl s

theorem posts_clearStatus (reading : Int) (s : State) : Posts [] s (clearStatus reading s).1 :=
  .foldl (posts_clearFault reading) allFaults s

/-! ## Resets and new periods -/

/-- At reset every counter is 0 and the Transit List is empty (10 R163, 03 R56). -/
theorem conserved_resetWith (pins : ResetPins) : Conserved (State.resetWith pins) := by
  have hzero (c : Counter) : counter (State.resetWith pins) c = 0#32 := getAt_replicate _ _
  have hempty : (State.resetWith pins).track.records.length = 0 := rfl
  simp [Conserved, hzero, hempty]

theorem conserved_takeReset (pins : ResetPins) (s : State) : Conserved (takeReset pins s) :=
  (posts_of_eq (s := State.resetWith pins) rfl rfl).conserved_of_nil (conserved_resetWith pins)

theorem conserved_fullReset (pins : ResetPins) (h : Conserved s) : Conserved (fullReset pins s) := by
  unfold fullReset
  split
  · exact conserved_takeReset pins s
  · exact h

/-- A new period begins with the blanks in transit counted as cut and accepted (10 R167). -/
theorem counter_snapshotReset (c : Counter) (s : State) : counter (snapshotReset s).1 c
    = if c = .cutTotal ∨ c = .accepted then BitVec.ofNat 32 s.track.records.length else 0#32 := by
  have hval : counter (snapshotReset s).1 c = getAt (freshCounters s.track.records.length) (counterIdx c) := rfl
  rw [hval]
  unfold freshCounters
  rw [getAt_put, getAt_put, getAt_replicate]
  cases c <;> rfl

/-- Whatever the counters stood at, a new period begins in balance (10 R167). -/
theorem conserved_snapshotReset (s : State) : Conserved (snapshotReset s).1 := by
  have hlen : (snapshotReset s).1.track.records.length = s.track.records.length := rfl
  simp [Conserved, counter_snapshotReset, hlen]

theorem posts_snapshotRead (args : List Byte) (s : State) : Posts [] s (snapshotRead args s).1 := by
  unfold snapshotRead
  split
  · split <;> exact .refl s
  · exact .refl s

theorem posts_countersRead (args : List Byte) (s : State) : Posts [] s (countersRead args s).1 := by
  unfold countersRead
  split <;> exact .refl s

/-! ## Ring -/

theorem conserved_unknownRequest (kind : Byte) (args : List Byte) (h : Conserved s) :
    Conserved (unknownRequest kind args s) := by
  unfold unknownRequest
  split
  · exact h
  · split
    · exact (posts_of_touches (giveReply_touches _ _ s)).conserved_of_nil h
    · exact h

theorem posts_actOnFrame (f : List Byte) (s : State) : Posts [] s (actOnFrame f s) := by
  have hnote : Posts [] s (noteFrame f s) := posts_of_touches (setRing_touches _ s)
  have hstop : Posts [] (noteFrame f s) (reportStop f (noteFrame f s)) := by
    unfold reportStop
    split
    · exact posts_of_touches (report_touches _ _)
    · exact .refl _
  exact ((hnote.andThen hstop).andThen (posts_of_touches (readTakes_touches _ _))).andThen
    (posts_of_touches (passFrame_touches _ _))

theorem posts_receiveFrame (f : List Byte) (s : State) : Posts [] s (receiveFrame f s) := by
  unfold receiveFrame
  split
  · exact posts_of_touches (setRing_touches _ s)
  · split
    · exact posts_of_touches (setRing_touches _ s)
    · exact posts_actOnFrame f s

theorem conserved_frameArrival (f : List Byte) (h : Conserved s) : Conserved (frameArrival f s) := by
  unfold frameArrival
  split
  · exact (posts_of_touches (setRing_touches _ s)).conserved_of_nil h
  · split
    · exact h
    · exact (posts_receiveFrame f _).conserved_of_nil (conserved_fullReset _ h)

theorem posts_watchdogExpiry (s : State) : Posts [] s (watchdogExpiry s) := by
  unfold watchdogExpiry
  split
  · exact ((posts_timeAtLeast _ _ s).andThen (posts_of_touches (setRing_touches _ _))).andThen
      (posts_of_touches (report_touches _ _))
  · exact .refl s

theorem posts_gumPressure (reading : Int) (s : State) : Posts [] s (gumPressure reading s) := by
  unfold gumPressure
  split
  · exact .refl s
  · split
    · exact posts_of_touches (report_touches _ s)
    · exact .refl s

/-! ## Steps with no command waiting -/

theorem posts_takeTime (e : TimeEvent) (s : State) : Posts [] s (takeTime e s) := by
  cases e with
  | windowEnd => exact posts_endWindow s
  | watchdog => exact posts_watchdogExpiry s
  | completion => exact (posts_checkCompletion s).andThen (posts_clearCompletion _)

theorem posts_timeStep (s : State) : Posts [] s (timeStep s) := by
  unfold timeStep
  split
  · exact posts_of_touches (microsecond_touches s)
  · exact posts_takeTime _ s
  · exact (posts_of_touches (bumpFree_touches s)).andThen (posts_takeTime _ _)

theorem conserved_tick (h : Conserved s) : Conserved (tick s) := by
  unfold tick
  split
  · exact h
  · split
    · next k => exact conserved_takeDue _ (conserved_chooseDue k h)
    · exact (posts_timeStep s).conserved_of_nil h

/-! ## Events by command -/

/-- What the command of a recurring event does: it takes the event where it has fired, as the part itself would. -/
def takeCommanded (e : Recurring) (s : State) : State :=
  match takeFired e s with
  | some (x, t) => fireRecurring e x t
  | none => s

theorem exec_firedCommand (e : Recurring) (s : State) :
    exec (firedCommand e) s = .next (event (takeCommanded e) s) := by
  cases e <;> rfl

theorem conserved_takeCommanded (e : Recurring) (h : Conserved s) : Conserved (takeCommanded e s) := by
  unfold takeCommanded
  split
  · next k =>
    obtain ⟨_, rfl⟩ := takeFired_some k
    exact conserved_fireRecurring _ _ ((posts_of_touches (setDue_touches _ s)).conserved_of_nil h)
  · exact h

/-- What the command of a scheduled event does, `z` being what the converter reads for a sample. -/
def takeCommandedDue (z : Int) (e : Scheduled) (s : State) : State :=
  match takeScheduled e s with
  | some (p, t) => firePending { p with event := e } z t
  | none => s

theorem exec_dueCommand (z : Int) (e : Scheduled) (s : State) :
    exec (dueCommand z e) s = .next (event (takeCommandedDue z e) s) := by
  cases e <;> rfl

theorem conserved_takeCommandedDue (z : Int) (e : Scheduled) (h : Conserved s) :
    Conserved (takeCommandedDue z e s) := by
  unfold takeCommandedDue
  split
  · next k =>
    obtain ⟨_, _, _, rfl⟩ := takeScheduled_some k
    exact conserved_firePending _ _ ((posts_of_touches (setSchedule_touches _ s)).conserved_of_nil h)
  · exact h

/-! ## Every command -/

/-- Every command is carried out and keeps conservation. -/
theorem exec_conserved (i : Instr) (h : Conserved s) : ∃ t, exec i s = .next t ∧ Conserved t := by
  have quiet {own : State → State × Reply} (kind need : Nat) (args : List Byte) (p : Posts [] s (own s).1) :
      Conserved (request kind need args own s) := conserved_request kind need args h (p.conserved_of_nil h)
  have busy {own : State → State × Reply} (kind need : Nat) (args : List Byte) (p : Posts [] s (own s).1) :
      Conserved (request kind need args (unlessBusy own) s) :=
    conserved_request kind need args h (conserved_unlessBusy h (p.conserved_of_nil h))
  have quietEvent {g : State → State} (p : Posts [] s (g s)) : Conserved (event g s) :=
    conserved_event h (p.conserved_of_nil h)
  have fired (e : Recurring) : ∃ t, exec (firedCommand e) s = .next t ∧ Conserved t :=
    ⟨_, exec_firedCommand e s, conserved_event h (conserved_takeCommanded e h)⟩
  have due (z : Int) (e : Scheduled) : ∃ t, exec (dueCommand z e) s = .next t ∧ Conserved t :=
    ⟨_, exec_dueCommand z e s, conserved_event h (conserved_takeCommandedDue z e h)⟩
  cases i with
  | positionSet args => exact ⟨_, rfl, conserved_request _ _ _ h (conserved_positionSet args h)⟩
  | outputSet args => exact ⟨_, rfl, quiet _ _ _ (posts_outputSet args s)⟩
  | machineTableWrite args lock => exact ⟨_, rfl, busy _ _ _ (posts_machineTableWrite args lock s)⟩
  | machineTableRead args => exact ⟨_, rfl, busy _ _ _ (posts_machineTableRead args s)⟩
  | machineTableApply args lock levels =>
    exact ⟨_, rfl, conserved_request _ _ _ h (conserved_unlessBusy h (conserved_machineTableApply lock levels h))⟩
  | recipeEdit args lock => exact ⟨_, rfl, busy _ _ _ (posts_recipeEdit args lock s)⟩
  | recipeWrite args lock => exact ⟨_, rfl, busy _ _ _ (posts_recipeWrite args lock s)⟩
  | recipeCheck args => exact ⟨_, rfl, busy _ _ _ (posts_recipeCheck args s)⟩
  | recipeClear args lock => exact ⟨_, rfl, busy _ _ _ (posts_recipeClear args lock s)⟩
  | recipeRead args => exact ⟨_, rfl, busy _ _ _ (posts_recipeRead args s)⟩
  | checkCompletion => exact ⟨_, rfl, quietEvent (posts_checkCompletion s)⟩
  | clearCompletion => exact ⟨_, rfl, quietEvent (posts_clearCompletion s)⟩
  | transitRead args => exact ⟨_, rfl, quiet _ _ _ (posts_transitRead args s)⟩
  | channelResultRead args => exact ⟨_, rfl, quiet _ _ _ (posts_channelResultRead args s)⟩
  | orderQueue args => exact ⟨_, rfl, quiet _ _ _ (posts_orderQueue args s)⟩
  | orderRead args => exact ⟨_, rfl, quiet _ _ _ (posts_orderRead args s)⟩
  | orderAbort args => exact ⟨_, rfl, quiet _ _ _ (posts_orderAbort args s)⟩
  | orderResume args => exact ⟨_, rfl, quiet _ _ _ (posts_orderResume s)⟩
  | feedHold args => exact ⟨_, rfl, quiet _ _ _ (posts_of_eq rfl rfl)⟩
  | feedRelease args => exact ⟨_, rfl, quiet _ _ _ (posts_of_eq rfl rfl)⟩
  | pullSample args => exact ⟨_, rfl, quiet _ _ _ (posts_pullSample args s)⟩
  | closeBox args => exact ⟨_, rfl, quiet _ _ _ (posts_closeBox s)⟩
  | boxLogRead args => exact ⟨_, rfl, quiet _ _ _ (.refl s)⟩
  | lineStart args => exact ⟨_, rfl, quiet _ _ _ (posts_lineStart s)⟩
  | lineDrain args => exact ⟨_, rfl, quiet _ _ _ (posts_lineDrain s)⟩
  | lineResume args => exact ⟨_, rfl, quiet _ _ _ (posts_lineResume s)⟩
  | linePurge args => exact ⟨_, rfl, conserved_request _ _ _ h (conserved_linePurge h)⟩
  | clearStatus args reading => exact ⟨_, rfl, quiet _ _ _ (posts_clearStatus reading s)⟩
  | resetFull args => exact ⟨_, rfl, quiet _ _ _ (posts_of_eq rfl rfl)⟩
  | fullReset pins => exact ⟨_, rfl, conserved_event h (conserved_fullReset pins h)⟩
  | powerOnReset pins => exact ⟨_, rfl, conserved_takeReset pins s⟩
  | countersRead args => exact ⟨_, rfl, quiet _ _ _ (posts_countersRead args s)⟩
  | countersSnapshot args => exact ⟨_, rfl, quiet _ _ _ (posts_of_eq rfl rfl)⟩
  | countersSnapshotReset args => exact ⟨_, rfl, conserved_request _ _ _ h (conserved_snapshotReset s)⟩
  | snapshotRead args => exact ⟨_, rfl, quiet _ _ _ (posts_snapshotRead args s)⟩
  | noticeRead args => exact ⟨_, rfl, quiet _ _ _ (posts_of_eq rfl rfl)⟩
  | mgmtStatus args lock => exact ⟨_, rfl, quiet _ _ _ (.refl s)⟩
  | unknownRequest kind args => exact ⟨_, rfl, conserved_unknownRequest kind args h⟩
  | frameArrival bytes => exact ⟨_, rfl, conserved_event h (conserved_frameArrival bytes h)⟩
  | watchdogExpiry => exact ⟨_, rfl, quietEvent (posts_watchdogExpiry s)⟩
  | encoderStep pair =>
    exact ⟨_, rfl, conserved_event h ((posts_encoderMove pair _).conserved_of_nil (conserved_settle h))⟩
  | speedWindowEnd => exact ⟨_, rfl, quietEvent (posts_endWindow s)⟩
  | edgeEvent line level => exact ⟨_, rfl, quietEvent (posts_edgeAt line level s)⟩
  | gumPressureLow reading => exact ⟨_, rfl, quietEvent (posts_gumPressure reading s)⟩
  | feedEvent => exact fired .feed
  | captureArm => exact fired .captureArm
  | windowClose => exact fired .windowClose
  | onEvent seq ch entry dot => exact due 0 (.appOn seq ch entry dot)
  | offEvent seq ch entry dot => exact due 0 (.appOff seq ch entry dot)
  | watchOpen ch => exact fired (.watchOpen ch)
  | watchEnd ch => exact fired (.watchEnd ch)
  | inspectionWindowOpen ch seq => exact due 0 (.inspOpen ch seq)
  | inspectionWindowEnd ch seq => exact due 0 (.inspEnd ch seq)
  | sampleEvent ch seq reading => exact due reading (.inspSample ch seq)
  | gateEvent seq => exact due 0 (.gate seq)
  | rejectGateEnd => exact due 0 .rejectGateEnd
  | deliveryEvent seq => exact due 0 (.delivery seq)
  | separatorPulseEnd => exact due 0 .separatorEnd
  | resetPinHeld => exact ⟨_, rfl, (posts_of_eq rfl rfl).conserved_of_nil h⟩

theorem step_conserved (h : Conserved s) (k : step s = .next t) : Conserved t := by
  unfold step at k
  split at k
  · next c rest _ =>
    have hrest : Conserved { s with pending := rest } := (posts_of_eq rfl rfl).conserved_of_nil h
    obtain ⟨u, hu, hcons⟩ := exec_conserved c hrest
    rw [hu] at k
    cases k
    exact hcons
  · cases k
    exact conserved_tick h

/-- Settles O55: it holds at reset by the reset values, and a step keeps it because the postings of every event
balance. -/
theorem counterConservation : Obligations.CounterConservation := by
  unfold Obligations.CounterConservation
  exact ⟨conserved_resetWith, fun _ _ h k => step_conserved h k⟩

end Sys2Proof.Ledger
end

section
/-! SUPPORT. COUNTERS_READ and SNAPSHOT_READ (10 R165, R168): their argument checks, and the values that a reply
carries. -/

namespace Sys2Proof.CounterReads

open Sys2Proof.Machine

-- One theorem after another, as in the tests: a thread each would ask for more stack than a check may take.
set_option Elab.async false

/-! ## Words in a reply -/

theorem length_flatMap_le32 (l : List U32) : (l.flatMap (fun x => le32 x.toNat)).length = 4 * l.length := by
  induction l with
  | nil => rfl
  | cons x l ih =>
    rw [List.flatMap_cons, List.length_append, ih, List.length_cons]
    simp only [le32, le16, List.length_append, List.length_cons, List.length_nil]
    omega

/-- The four bytes of a number, least significant first, read back as the number (11 R172). -/
theorem u32_le32_append (x : U32) (rest : List Byte) : u32 (le32 x.toNat ++ rest) 0 = x.toNat := by
  have hx : x.toNat < 4294967296 := x.isLt
  simp only [u32, u16, u8, le32, le16, List.cons_append, List.nil_append, List.getD_cons_zero, List.getD_cons_succ,
    BitVec.toNat_ofNat]
  omega

/-- Four bytes in front move a field by four. -/
theorem u32_append_le32 (n i : Nat) (rest : List Byte) : u32 (le32 n ++ rest) (i + 4) = u32 rest i := rfl

/-- Word `k` of a list of words one after the other. -/
theorem u32_flatMap_le32 : ∀ (l : List U32) (k : Nat) (hk : k < l.length),
    u32 (l.flatMap (fun x => le32 x.toNat)) (4 * k) = (l[k]).toNat
  | x :: l, 0, _ => u32_le32_append x _
  | x :: l, k + 1, hk => by
    rw [List.flatMap_cons, Nat.mul_succ, u32_append_le32, u32_flatMap_le32 l k (Nat.lt_of_succ_lt_succ hk)]
    rfl

/-! ## Ranges of counters -/

theorem rangeOk_iff (first n : Nat) :
    rangeOk first n = true ↔ first ≤ 19 ∧ 1 ≤ n ∧ n ≤ 12 ∧ first + n ≤ 20 := by
  simp [rangeOk, within, and_assoc]

theorem rangeOk_eq_false {first n : Nat} (h : 19 < first ∨ n = 0 ∨ 12 < n ∨ 20 < first + n) :
    rangeOk first n = false := by
  rw [Bool.eq_false_iff, ne_eq, rangeOk_iff]
  omega

theorem length_valueBytes (v : Vector U32 20) {first n : Nat} (h : first + n ≤ 20) :
    (valueBytes v first n).length = 4 * n := by
  unfold valueBytes
  rw [length_flatMap_le32, List.length_take, List.length_drop, Vector.length_toList]
  omega

theorem u32_valueBytes (v : Vector U32 20) {first n : Nat} (h : first + n ≤ 20) (i : Fin 20) (hlo : first ≤ i.val)
    (hhi : i.val < first + n) : u32 (valueBytes v first n) (4 * (i.val - first)) = (getAt v i).toNat := by
  have hk : i.val - first < ((v.toList.drop first).take n).length := by
    rw [List.length_take, List.length_drop, Vector.length_toList]
    omega
  have hi : first + (i.val - first) = i.val := by omega
  unfold valueBytes
  rw [u32_flatMap_le32 _ _ hk]
  simp only [List.getElem_take, List.getElem_drop, hi, Vector.getElem_toList]
  rfl

/-! ## The two requests -/

variable {args : List Byte} {s : State}

/-- COUNTERS_READ that reaches its owner answers as the owner's rule says. -/
theorem exec_countersRead (ha : accepts s 2 args = true) :
    exec (.countersRead args) s
      = .next (giveReply (carriedAs 70 args s) (countersRead args s).2 (countersRead args s).1) :=
  congrArg _ (request_accepted ha 70 (countersRead args))

/-- So does SNAPSHOT_READ. -/
theorem exec_snapshotRead (ha : accepts s 2 args = true) :
    exec (.snapshotRead args) s
      = .next (giveReply (carriedAs 73 args s) (snapshotRead args s).2 (snapshotRead args s).1) :=
  congrArg _ (request_accepted ha 73 (snapshotRead args))

theorem countersRead_refused (h : rangeOk (u8 args 0) (u8 args 1) = false) :
    countersRead args s = (s, bare .badArg) := by
  simp [countersRead, h]

theorem countersRead_taken (h : rangeOk (u8 args 0) (u8 args 1) = true) :
    countersRead args s = (s, ⟨.ok, valueBytes s.counters.live (u8 args 0) (u8 args 1)⟩) := by
  simp [countersRead, h]

theorem snapshotRead_refused (h : rangeOk (u8 args 0) (u8 args 1) = false) :
    snapshotRead args s = (s, bare .badArg) := by
  simp [snapshotRead, h]

theorem snapshotRead_empty (h : rangeOk (u8 args 0) (u8 args 1) = true) (hv : s.counters.valid = false) :
    snapshotRead args s = (s, bare .empty) := by
  simp [snapshotRead, h, hv]

theorem snapshotRead_taken (h : rangeOk (u8 args 0) (u8 args 1) = true) (hv : s.counters.valid = true) :
    snapshotRead args s = (s, ⟨.ok, valueBytes s.counters.buffer (u8 args 0) (u8 args 1)⟩) := by
  simp [snapshotRead, h, hv]

/-- Settles O12: the range check decides, and the reply's words are read back one by one. -/
theorem counterReads : Obligations.CounterReads := by
  unfold Obligations.CounterReads
  refine ⟨fun args s ha => ⟨fun hbad => ?_, fun hfirst hn hmax hsum => ?_⟩,
    fun args s ha => ⟨fun hbad => ?_, fun hfirst hn hmax hsum => ⟨fun hv => ?_, fun hv => ?_⟩⟩⟩
  · rw [exec_countersRead ha, countersRead_refused (rangeOk_eq_false hbad)]
    rfl
  · refine ⟨_, ?_, length_valueBytes s.counters.live hsum,
      fun c => u32_valueBytes s.counters.live hsum (counterIdx c)⟩
    rw [exec_countersRead ha, countersRead_taken ((rangeOk_iff _ _).mpr ⟨hfirst, hn, hmax, hsum⟩)]
    rfl
  · rw [exec_snapshotRead ha, snapshotRead_refused (rangeOk_eq_false hbad)]
    rfl
  · rw [exec_snapshotRead ha, snapshotRead_empty ((rangeOk_iff _ _).mpr ⟨hfirst, hn, hmax, hsum⟩) hv]
    rfl
  · refine ⟨_, ?_, length_valueBytes s.counters.buffer hsum, u32_valueBytes s.counters.buffer hsum⟩
    rw [exec_snapshotRead ha, snapshotRead_taken ((rangeOk_iff _ _).mpr ⟨hfirst, hn, hmax, hsum⟩) hv]
    rfl

end Sys2Proof.CounterReads
end

section
/-! SUPPORT. What a step carries out. `effect c` is what command `c` does apart from its reply; `Does c s t` says how
a command's outcome is made of its effect and its reply, `Ticks s t` what a step with no command waiting does. Every
law over all steps is proved from these two inversions, from the fields that an effect can touch, and from the taking
of one fired event (`TakesKeep`), which settling repeats. -/

namespace Sys2Proof.Steps

open Sys2Proof.Machine Sys2Proof.Ledger

-- One theorem after another, as in the tests: a thread each would ask for more stack than a check may take.
set_option Elab.async false

/-- What a command does apart from the reply it is answered with. -/
def effect (c : Instr) (s : State) : State :=
  match c with
  | .positionSet a => (positionSet a s).1
  | .outputSet a => (outputSet a s).1
  | .machineTableWrite a lock => (machineTableWrite a lock s).1
  | .machineTableRead a => (machineTableRead a s).1
  | .machineTableApply _ lock levels => (machineTableApply lock levels s).1
  | .recipeEdit a lock => (recipeEdit a lock s).1
  | .recipeWrite a lock => (recipeWrite a lock s).1
  | .recipeCheck a => (recipeCheck a s).1
  | .recipeClear a lock => (recipeClear a lock s).1
  | .recipeRead a => (recipeRead a s).1
  | .checkCompletion => checkCompletion s
  | .clearCompletion => clearCompletion s
  | .transitRead a => (transitRead a s).1
  | .channelResultRead a => (channelResultRead a s).1
  | .orderQueue a => (orderQueue a s).1
  | .orderRead a => (orderRead a s).1
  | .orderAbort a => (orderAbort a s).1
  | .orderResume _ => (orderResume s).1
  | .feedHold _ => setForced true s
  | .feedRelease _ => setForced false s
  | .pullSample a => (pullSample a s).1
  | .closeBox _ => (closeBox s).1
  | .boxLogRead _ => s
  | .lineStart _ => (lineStart s).1
  | .lineDrain _ => (lineDrain s).1
  | .lineResume _ => (lineResume s).1
  | .linePurge _ => (linePurge s).1
  | .clearStatus _ reading => (clearStatus reading s).1
  | .resetFull a => (resetFull a s).1
  | .fullReset pins => fullReset pins s
  | .powerOnReset pins => takeReset pins s
  | .countersRead a => (countersRead a s).1
  | .countersSnapshot _ => snapshot s
  | .countersSnapshotReset _ => (snapshotReset s).1
  | .snapshotRead a => (snapshotRead a s).1
  | .noticeRead _ => dropNotices s
  | .mgmtStatus _ _ => s
  | .unknownRequest _ _ => s
  | .frameArrival f => frameArrival f s
  | .watchdogExpiry => watchdogExpiry s
  | .encoderStep pair => encoderMove pair (settle s)
  | .speedWindowEnd => endWindow s
  | .edgeEvent l level => edgeAt l level s
  | .gumPressureLow reading => gumPressure reading s
  | .feedEvent => takeCommanded .feed s
  | .captureArm => takeCommanded .captureArm s
  | .windowClose => takeCommanded .windowClose s
  | .onEvent q k i d => takeCommandedDue 0 (.appOn q k i d) s
  | .offEvent q k i d => takeCommandedDue 0 (.appOff q k i d) s
  | .watchOpen j => takeCommanded (.watchOpen j) s
  | .watchEnd j => takeCommanded (.watchEnd j) s
  | .inspectionWindowOpen j q => takeCommandedDue 0 (.inspOpen j q) s
  | .inspectionWindowEnd j q => takeCommandedDue 0 (.inspEnd j q) s
  | .sampleEvent j q z => takeCommandedDue z (.inspSample j q) s
  | .gateEvent q => takeCommandedDue 0 (.gate q) s
  | .rejectGateEnd => takeCommandedDue 0 .rejectGateEnd s
  | .deliveryEvent q => takeCommandedDue 0 (.delivery q) s
  | .separatorPulseEnd => takeCommandedDue 0 .separatorEnd s
  | .resetPinHeld => { s with resetHeld := true }

/-- A command whose effect comes about in `s`: the reset pin is not held, but for the two commands of the pin, and a
table or recipe request finds the Management Unit READY (09 R162, 02 R36). -/
structure Ready (c : Instr) (s : State) : Prop where
  free : (∀ pins, c ≠ .powerOnReset pins) → c ≠ .resetPinHeld → s.resetHeld = false
  idle : ∀ k n a, requestOf c = some (k, n, a) → k ∈ busyKinds → s.mgmt.inFlight = none

/-- The outcome of a command: nothing, its effect, a refusal, or its effect with the reply. -/
inductive Does (c : Instr) (s : State) : State → Prop where
  | nothing : Does c s s
  | quiet : Ready c s → Does c s (effect c s)
  | refused (place : Option (List Byte × Nat)) (r : Reply) : Does c s (giveReply place r s)
  | answered (place : Option (List Byte × Nat)) (r : Reply) : Ready c s → Does c s (giveReply place r (effect c s))

variable {s t u : State} {c : Instr}

theorem does_owned {kind need : Nat} {args : List Byte} {own : State → State × Reply}
    (hc : requestOf c = some (kind, need, args)) (hkind : kind ∈ busyKinds → s.mgmt.inFlight = none)
    (heff : effect c s = (own s).1) :
    Does c s (request kind need args own s) := by
  have hready (hr : reachable s = true) : Ready c s := by
    refine ⟨fun _ _ => ?_, fun k n a h hk => ?_⟩
    · simp only [reachable, Bool.and_eq_true, Bool.not_eq_true'] at hr
      exact hr.1
    · rw [hc] at h
      cases h
      exact hkind hk
  unfold request
  split
  · next hr =>
    split
    · exact .refused _ _
    · rw [← heff]
      exact .answered _ _ (hready hr)
  · exact .nothing

theorem does_request {kind need : Nat} {args : List Byte} {own : State → State × Reply}
    (hc : requestOf c = some (kind, need, args)) (hkind : kind ∉ busyKinds) (heff : effect c s = (own s).1) :
    Does c s (request kind need args own s) := does_owned hc (fun h => absurd h hkind) heff

theorem does_busyRequest {kind need : Nat} {args : List Byte} {own : State → State × Reply}
    (hc : requestOf c = some (kind, need, args)) (heff : effect c s = (own s).1) :
    Does c s (request kind need args (unlessBusy own) s) := by
  by_cases hw : s.mgmt.inFlight = none
  · have hown : unlessBusy own s = own s := by simp [unlessBusy, working, hw]
    exact does_owned hc (fun _ => hw) (by rw [heff, hown])
  · have hbusy : unlessBusy own s = (s, bare .busy) := by
      simp [unlessBusy, working, Option.isSome_iff_ne_none, hw]
    unfold request
    split
    · split
      · exact .refused _ _
      · rw [hbusy]
        exact .refused _ _
    · exact .nothing

theorem does_event {g : State → State} (hc : requestOf c = none) (heff : effect c s = g s) :
    Does c s (event g s) := by
  unfold event
  split
  · exact .nothing
  · next h =>
    rw [← heff]
    refine .quiet ⟨fun _ _ => by simpa using h, fun k n a e => ?_⟩
    rw [hc] at e
    cases e

/-- Every command answers a next state, which its effect and its reply make. -/
theorem exec_does (c : Instr) (s : State) : ∃ t, exec c s = .next t ∧ Does c s t := by
  have fired (e : Recurring) (hc : requestOf (firedCommand e) = none)
      (heff : effect (firedCommand e) s = takeCommanded e s) :
      ∃ t, exec (firedCommand e) s = .next t ∧ Does (firedCommand e) s t :=
    ⟨_, exec_firedCommand e s, does_event hc heff⟩
  have due (z : Int) (e : Scheduled) (hc : requestOf (dueCommand z e) = none)
      (heff : effect (dueCommand z e) s = takeCommandedDue z e s) :
      ∃ t, exec (dueCommand z e) s = .next t ∧ Does (dueCommand z e) s t :=
    ⟨_, exec_dueCommand z e s, does_event hc heff⟩
  cases c with
  | positionSet args => exact ⟨_, rfl, does_request rfl (by decide) rfl⟩
  | outputSet args => exact ⟨_, rfl, does_request rfl (by decide) rfl⟩
  | machineTableWrite args lock => exact ⟨_, rfl, does_busyRequest rfl rfl⟩
  | machineTableRead args => exact ⟨_, rfl, does_busyRequest rfl rfl⟩
  | machineTableApply args lock levels => exact ⟨_, rfl, does_busyRequest rfl rfl⟩
  | recipeEdit args lock => exact ⟨_, rfl, does_busyRequest rfl rfl⟩
  | recipeWrite args lock => exact ⟨_, rfl, does_busyRequest rfl rfl⟩
  | recipeCheck args => exact ⟨_, rfl, does_busyRequest rfl rfl⟩
  | recipeClear args lock => exact ⟨_, rfl, does_busyRequest rfl rfl⟩
  | recipeRead args => exact ⟨_, rfl, does_busyRequest rfl rfl⟩
  | checkCompletion => exact ⟨_, rfl, does_event rfl rfl⟩
  | clearCompletion => exact ⟨_, rfl, does_event rfl rfl⟩
  | transitRead args => exact ⟨_, rfl, does_request rfl (by decide) rfl⟩
  | channelResultRead args => exact ⟨_, rfl, does_request rfl (by decide) rfl⟩
  | orderQueue args => exact ⟨_, rfl, does_request rfl (by decide) rfl⟩
  | orderRead args => exact ⟨_, rfl, does_request rfl (by decide) rfl⟩
  | orderAbort args => exact ⟨_, rfl, does_request rfl (by decide) rfl⟩
  | orderResume args => exact ⟨_, rfl, does_request rfl (by decide) rfl⟩
  | feedHold args => exact ⟨_, rfl, does_request rfl (by decide) rfl⟩
  | feedRelease args => exact ⟨_, rfl, does_request rfl (by decide) rfl⟩
  | pullSample args => exact ⟨_, rfl, does_request rfl (by decide) rfl⟩
  | closeBox args => exact ⟨_, rfl, does_request rfl (by decide) rfl⟩
  | boxLogRead args => exact ⟨_, rfl, does_request rfl (by decide) rfl⟩
  | lineStart args => exact ⟨_, rfl, does_request rfl (by decide) rfl⟩
  | lineDrain args => exact ⟨_, rfl, does_request rfl (by decide) rfl⟩
  | lineResume args => exact ⟨_, rfl, does_request rfl (by decide) rfl⟩
  | linePurge args => exact ⟨_, rfl, does_request rfl (by decide) rfl⟩
  | clearStatus args reading => exact ⟨_, rfl, does_request rfl (by decide) rfl⟩
  | resetFull args => exact ⟨_, rfl, does_request rfl (by decide) rfl⟩
  | fullReset pins => exact ⟨_, rfl, does_event rfl rfl⟩
  | powerOnReset pins =>
    exact ⟨_, rfl, .quiet ⟨fun h => absurd rfl (h pins), fun _ _ _ h => nomatch h⟩⟩
  | countersRead args => exact ⟨_, rfl, does_request rfl (by decide) rfl⟩
  | countersSnapshot args => exact ⟨_, rfl, does_request rfl (by decide) rfl⟩
  | countersSnapshotReset args => exact ⟨_, rfl, does_request rfl (by decide) rfl⟩
  | snapshotRead args => exact ⟨_, rfl, does_request rfl (by decide) rfl⟩
  | noticeRead args => exact ⟨_, rfl, does_request rfl (by decide) rfl⟩
  | mgmtStatus args lock => exact ⟨_, rfl, does_request rfl (by decide) rfl⟩
  | unknownRequest kind args =>
    refine ⟨_, rfl, ?_⟩
    unfold unknownRequest
    split
    · exact .nothing
    · split
      · exact .refused _ _
      · exact .nothing
  | frameArrival bytes => exact ⟨_, rfl, does_event rfl rfl⟩
  | watchdogExpiry => exact ⟨_, rfl, does_event rfl rfl⟩
  | encoderStep pair => exact ⟨_, rfl, does_event rfl rfl⟩
  | speedWindowEnd => exact ⟨_, rfl, does_event rfl rfl⟩
  | edgeEvent line level => exact ⟨_, rfl, does_event rfl rfl⟩
  | gumPressureLow reading => exact ⟨_, rfl, does_event rfl rfl⟩
  | feedEvent => exact fired .feed rfl rfl
  | captureArm => exact fired .captureArm rfl rfl
  | windowClose => exact fired .windowClose rfl rfl
  | onEvent seq ch entry dot => exact due 0 (.appOn seq ch entry dot) rfl rfl
  | offEvent seq ch entry dot => exact due 0 (.appOff seq ch entry dot) rfl rfl
  | watchOpen ch => exact fired (.watchOpen ch) rfl rfl
  | watchEnd ch => exact fired (.watchEnd ch) rfl rfl
  | inspectionWindowOpen ch seq => exact due 0 (.inspOpen ch seq) rfl rfl
  | inspectionWindowEnd ch seq => exact due 0 (.inspEnd ch seq) rfl rfl
  | sampleEvent ch seq reading => exact due reading (.inspSample ch seq) rfl rfl
  | gateEvent seq => exact due 0 (.gate seq) rfl rfl
  | rejectGateEnd => exact due 0 .rejectGateEnd rfl rfl
  | deliveryEvent seq => exact due 0 (.delivery seq) rfl rfl
  | separatorPulseEnd => exact due 0 .separatorEnd rfl rfl
  | resetPinHeld =>
    exact ⟨_, rfl, .quiet ⟨fun _ h => absurd rfl h, fun _ _ _ h => nomatch h⟩⟩

theorem does_of_exec (h : exec c s = .next t) : Does c s t := by
  obtain ⟨u, hu, hd⟩ := exec_does c s
  rw [hu] at h
  cases h
  exact hd

/-! ## Steps with no command waiting -/

/-- The outcome of a step with no command waiting (log entry 4): nothing while the pin is held, a fired event taken, a
microsecond, or an event of the timebase whose moment has come. -/
inductive Ticks (s : State) : State → Prop where
  | held : s.resetHeld = true → Ticks s s
  | station (e : DueEvent) (v : State) : s.resetHeld = false → chooseDue s = some (e, v) → Ticks s (takeDue e v)
  | passes : s.resetHeld = false → chooseDue s = none → Ticks s (microsecond s)
  | timed (e : TimeEvent) (v : State) : s.resetHeld = false → chooseDue s = none → e ∈ dueTimes s →
      v = s ∨ v = bumpFree s → Ticks s (takeTime e v)

theorem tick_ticks (s : State) : Ticks s (tick s) := by
  unfold tick
  split
  · next h => exact .held h
  · next h =>
    have hfree : s.resetHeld = false := by simpa using h
    split
    · next hc => exact .station _ _ hfree hc
    · next hc =>
      unfold timeStep
      split
      · exact .passes hfree hc
      · next e he => exact .timed e s hfree hc (by simp [he]) (.inl rfl)
      · next e es _ he =>
        refine .timed _ _ hfree hc ?_ (.inr rfl)
        have hlt : Config.eventChoice s.freeIndex % (es.length + 1) < (e :: es).length :=
          Nat.mod_lt _ (Nat.succ_pos _)
        rw [he, List.getD_eq_getElem _ _ hlt]
        exact List.getElem_mem hlt

/-- A step takes the command at the front of the queue, or ticks. -/
theorem step_cases (h : step s = .next t) :
    (∃ c q, s.pending = c :: q ∧ Does c { s with pending := q } t) ∨ (s.pending = [] ∧ Ticks s t) := by
  unfold step at h
  split at h
  · next c q hq => exact .inl ⟨c, q, hq, does_of_exec h⟩
  · next hq =>
    cases h
    exact .inr ⟨hq, tick_ticks s⟩

/-! ## Taking fired events -/

/-- What each taking of a fired event keeps, whichever command or part takes it. -/
structure TakesKeep (P : State → Prop) : Prop where
  free : ∀ (n : Nat) (s : State), P s → P { s with freeIndex := n }
  recurring : ∀ (f : Fired) (s : State), f ∈ s.pos.due → P s →
    P (fireRecurring f.event f.pos { s with pos := { s.pos with due := s.pos.due.erase f } })
  scheduled : ∀ (p : Pending) (z : Int) (s : State), p ∈ s.pos.schedule → isDue s.pos.hwm p = true → P s →
    P (firePending p z { s with pos := { s.pos with schedule := s.pos.schedule.erase p } })

variable {P Q : State → Prop}

theorem mem_dueEvents {e : DueEvent} : e ∈ dueEvents s ↔
    (∃ f, f ∈ s.pos.due ∧ e = .recurring f) ∨
    ∃ p, p ∈ s.pos.schedule ∧ isDue s.pos.hwm p = true ∧ e = .scheduled p := by
  simp only [dueEvents, List.mem_append, List.mem_map, List.mem_filter, and_assoc, eq_comm]

/-- The event chosen is one that has fired, of the earliest position, and at most one free value is spent. -/
theorem chooseDue_some {e : DueEvent} {v : State} (h : chooseDue s = some (e, v)) :
    e ∈ earliestDue s ∧ (v = s ∨ v = bumpFree s) := by
  unfold chooseDue at h
  split at h
  · cases h
  · next d hd =>
    cases h
    exact ⟨by simp [hd], .inl rfl⟩
  · next d es _ hd =>
    cases h
    refine ⟨?_, .inr rfl⟩
    have hlt : Config.eventChoice s.freeIndex % (es.length + 1) < (d :: es).length :=
      Nat.mod_lt _ (Nat.succ_pos _)
    rw [hd, List.getD_eq_getElem _ _ hlt]
    exact List.getElem_mem hlt

theorem mem_dueEvents_of_earliest {e : DueEvent} (h : e ∈ earliestDue s) : e ∈ dueEvents s :=
  List.mem_of_mem_filter h

/-- Where one event takes nothing along, the fired events are the same after a free value is spent. -/
theorem TakesKeep.takeDue (K : TakesKeep P) {e : DueEvent} {v : State} (hc : chooseDue s = some (e, v)) (h : P s) :
    P (takeDue e v) := by
  obtain ⟨he, hv⟩ := chooseDue_some hc
  have hmem := mem_dueEvents_of_earliest he
  have hPv : P v := by
    rcases hv with rfl | rfl
    · exact h
    · exact K.free _ _ h
  have hpos : v.pos = s.pos := by rcases hv with rfl | rfl <;> rfl
  rcases mem_dueEvents.mp hmem with ⟨f, hf, rfl⟩ | ⟨p, hp, hdue, rfl⟩
  · exact K.recurring f v (by rw [hpos]; exact hf) hPv
  · have hp' : p ∈ v.pos.schedule := by rw [hpos]; exact hp
    have hdue' : isDue v.pos.hwm p = true := by rw [hpos]; exact hdue
    unfold Machine.takeDue
    simp only
    split
    · exact K.scheduled p _ (bumpFree v) hp' hdue' (K.free _ _ hPv)
    · exact K.scheduled p 0 v hp' hdue' hPv

theorem TakesKeep.drainDue (K : TakesKeep P) : ∀ (n : Nat) (s : State), P s → P (drainDue n s)
  | 0, _, h => h
  | n + 1, s, h => by
    unfold Machine.drainDue
    split
    · exact h
    · next hc => exact K.drainDue n _ (K.takeDue hc h)

/-- So does the taking of every fired event. -/
theorem TakesKeep.settle (K : TakesKeep P) (h : P s) : P (settle s) := K.drainDue _ s h

theorem TakesKeep.takeCommanded (K : TakesKeep P) (e : Recurring) (h : P s) : P (takeCommanded e s) := by
  unfold Ledger.takeCommanded
  split
  · next hk =>
    obtain ⟨hmem, rfl⟩ := takeFired_some hk
    exact K.recurring _ s hmem h
  · exact h

theorem TakesKeep.takeCommandedDue (K : TakesKeep P) (z : Int) (e : Scheduled) (h : P s) :
    P (takeCommandedDue z e s) := by
  unfold Ledger.takeCommandedDue
  split
  · next p _ hk =>
    obtain ⟨hmem, hev, hdue, rfl⟩ := takeScheduled_some hk
    subst hev
    exact K.scheduled p z s hmem hdue h
  · exact h

/-! ## The fields that an effect can touch -/

theorem setLines_touches (x : LineInterface) (s : State) : Touches [.lines] s { s with lines := x } := by
  intro f hf; cases f <;> first | rfl | exact absurd (List.mem_singleton_self _) hf

theorem setLine_touches (x : LineControl) (s : State) : Touches [.line] s { s with line := x } := by
  intro f hf; cases f <;> first | rfl | exact absurd (List.mem_singleton_self _) hf

theorem setStore_touches (x : TableStore) (s : State) : Touches [.store] s { s with store := x } := by
  intro f hf; cases f <;> first | rfl | exact absurd (List.mem_singleton_self _) hf

theorem setMgmt_touches (x : ManagementUnit) (s : State) : Touches [.mgmt] s { s with mgmt := x } := by
  intro f hf; cases f <;> first | rfl | exact absurd (List.mem_singleton_self _) hf

theorem setInsp_touches (x : Vector InspChannel 8) (s : State) : Touches [.insp] s { s with insp := x } := by
  intro f hf; cases f <;> first | rfl | exact absurd (List.mem_singleton_self _) hf

theorem setCounters_touches (x : CounterBlock) (s : State) : Touches [.counters] s { s with counters := x } := by
  intro f hf; cases f <;> first | rfl | exact absurd (List.mem_singleton_self _) hf

theorem setNotices_touches (x : NoticeQueue) (s : State) : Touches [.notices] s { s with notices := x } := by
  intro f hf; cases f <;> first | rfl | exact absurd (List.mem_singleton_self _) hf

theorem setResetHeld_touches (b : Bool) (s : State) : Touches [.resetHeld] s { s with resetHeld := b } := by
  intro f hf; cases f <;> first | rfl | exact absurd (List.mem_singleton_self _) hf

theorem setPos_touches (x : PositionUnit) (s : State) : Touches [.pos] s { s with pos := x } := by
  intro f hf; cases f <;> first | rfl | exact absurd (List.mem_singleton_self _) hf

theorem completeCheck_touches (k : Fin 8) (s : State) : Touches [.store, .mgmt, .notices] s (completeCheck k s) := by
  have hset (x : SlotState) (m : ManagementUnit) : Touches [.store, .mgmt, .notices] s
      { setSlotState k x s with mgmt := m } :=
    (modifySlot_touches k _ s).andThen (setMgmt_touches m _) (by decide) (by decide)
  unfold completeCheck
  split <;> exact (hset _ _).trans ((offer_touches _ _).mono (by decide))

theorem completeClear_touches (k : Fin 8) (s : State) : Touches [.store, .mgmt, .notices] s (completeClear k s) := by
  have hset (m : ManagementUnit) : Touches [.store, .mgmt, .notices] s
      { setSlotState k .empty (clearContent k s) with mgmt := m } :=
    ((modifySlot_touches k _ s).trans (modifySlot_touches k _ _)).andThen (setMgmt_touches m _) (by decide) (by decide)
  exact (hset _).trans ((offer_touches _ _).mono (by decide))

theorem checkCompletion_touches (s : State) : Touches [.store, .mgmt, .notices] s (checkCompletion s) := by
  unfold checkCompletion
  split
  · exact completeCheck_touches _ s
  · exact .refl _ s

theorem clearCompletion_touches (s : State) : Touches [.store, .mgmt, .notices] s (clearCompletion s) := by
  unfold clearCompletion
  split
  · exact completeClear_touches _ s
  · exact .refl _ s

theorem reverseStep_touches (s : State) : Touches [.pos, .line, .lines, .notices] s (reverseStep s) := by
  have hpos : Touches [.pos, .line, .lines, .notices] s
      { s with pos := { s.pos with depth := s.pos.depth + 1 } } := (setPos_touches _ s).mono (by decide)
  exact .ite (fun _ => (report_touches _ s).mono (by decide))
    (fun _ => .ite (fun _ => hpos.trans ((report_touches _ _).mono (by decide))) (fun _ => hpos))

theorem forwardStep_touches (s : State) : Touches [.pos] s (forwardStep s) :=
  .ite (fun _ => setPos_touches _ s) (fun _ => advance_touches s)

theorem encoderMove_touches (pair : PhasePair) (s : State) :
    Touches [.pos, .line, .lines, .notices] s (encoderMove pair s) := by
  have hpos : Touches [.pos, .line, .lines, .notices] s { s with pos := { s.pos with phases := pair } } :=
    (setPos_touches _ s).mono (by decide)
  exact .ite (fun _ => .refl _ s) (fun _ => .ite (fun _ => hpos.trans ((forwardStep_touches _).mono (by decide)))
    (fun _ => .ite (fun _ => hpos.trans (reverseStep_touches _))
      (fun _ => hpos.trans ((report_touches _ _).mono (by decide)))))

theorem timeAtLeast_touches (t0 : U32) (n : Nat) (s : State) : Touches [.pos] s (timeAtLeast t0 n s) :=
  .ite (fun _ => setPos_touches _ s) (fun _ => .refl _ s)

theorem endWindow_touches (s : State) : Touches [.track, .pos, .app, .counters] s (endWindow s) := by
  have h := ((timeAtLeast_touches s.pos.windowStart 10000 s).trans (setPos_touches
    { (timeAtLeast s.pos.windowStart 10000 s).pos with
      windowStart := s.pos.windowStart + 10000#32, windowCount := 0, speed := min s.pos.windowCount 4095 } _)).mono
    (gs := [.track, .pos, .app, .counters]) (by decide)
  exact .ite (fun _ => h) (fun _ => h.trans (recomputeLeads_touches _))

theorem edgeAt_touches (l : Fin 16) (level : Bool) (s : State) :
    Touches [.lines, .reg, .insp, .deliv, .notices] s (edgeAt l level s) := by
  have hset : Touches [.lines, .reg, .insp, .deliv, .notices] s (setLevel l level s) :=
    (setLevel_touches l level s).mono (by decide)
  refine .ite (fun _ => .refl _ s) (fun _ => .ite (fun _ => .refl _ s) (fun _ => ?_))
  refine Touches.trans (Touches.trans ?_ ((inspEdge_touches l level _).mono (by decide)))
    ((takeEdge_touches l level _).mono (by decide))
  exact .ite (fun _ => hset.trans ((markEdge_touches l _).mono (by decide))) (fun _ => hset)

theorem gumPressure_touches (z : Int) (s : State) : Touches [.line, .lines, .notices] s (gumPressure z s) := by
  unfold gumPressure
  split
  · exact .refl _ s
  · exact .ite (fun _ => report_touches _ s) (fun _ => .refl _ s)

theorem watchdogExpiry_touches (s : State) :
    Touches [.pos, .ring, .line, .lines, .notices] s (watchdogExpiry s) := by
  unfold watchdogExpiry
  split
  · exact ((timeAtLeast_touches _ _ s).andThen (hs := [.pos, .ring, .line, .lines, .notices]) (setRing_touches _ _)
      (by decide) (by decide)).trans ((report_touches _ _).mono (by decide))
  · exact .refl _ s

theorem takeCommanded_touches (e : Recurring) (s : State) : Touches stationFields s (takeCommanded e s) := by
  unfold Ledger.takeCommanded
  split
  · next hk =>
    obtain ⟨_, rfl⟩ := takeFired_some hk
    exact ((setDue_touches _ s).mono (by decide)).trans (fireRecurring_touches _ _ _)
  · exact .refl _ s

theorem takeCommandedDue_touches (z : Int) (e : Scheduled) (s : State) :
    Touches stationFields s (takeCommandedDue z e s) := by
  unfold Ledger.takeCommandedDue
  split
  · next hk =>
    obtain ⟨_, _, _, rfl⟩ := takeScheduled_some hk
    exact ((setSchedule_touches _ s).mono (by decide)).trans (firePending_touches _ _ _)
  · exact .refl _ s

theorem enqueue_touches (o : Order) (s : State) :
    Touches [.orders, .store, .reg, .pos, .notices] s (enqueue o s) := by
  have h : Touches [.orders, .store, .reg, .pos, .notices] s (updateSource (refUp o.slot (joinList o s))) := by
    exact (((setOrders_touches _ s).andThen (hs := [.orders, .store, .reg, .pos, .notices]) (refUp_touches _ _)
      (by decide) (by decide)).trans ((updateSource_touches _).mono (by decide)))
  unfold enqueue
  simp only
  split
  · exact h.trans ((select_touches _).mono (by decide))
  · exact .ite (fun _ => h.trans ((reexamine_touches _).mono (by decide))) (fun _ => h)
  · exact h
  · exact h

theorem abortOrder_touches (o : Order) (s : State) :
    Touches [.track, .pos, .app, .orders, .reg, .notices] s (abortOrder o s) := by
  have h : Touches [.track, .pos, .app, .orders, .reg, .notices] s (markAbort o s) :=
    (modifyOrder_touches _ _ s).andThen (markAborted_touches _ _) (by decide) (by decide)
  exact .ite (fun _ => h.trans ((afterActive_touches _ _).mono (by decide))) (fun _ => h)

theorem finishAbort_touches (o : Order) (s : State) :
    Touches [.store, .orders, .reg, .pos, .notices] s (finishAbort o s).1 := by
  unfold finishAbort
  split
  · exact .refl _ s
  · split
    · exact .refl _ s
    · split
      · exact .refl _ s
      · exact depart_touches _ _ s

theorem orderAbort_touches (a : List Byte) (s : State) :
    Touches [.track, .pos, .app, .orders, .reg, .notices, .store] s (orderAbort a s).1 := by
  unfold orderAbort
  split
  · exact .refl _ s
  · split
    · exact .refl _ s
    · split
      · exact (depart_touches _ _ s).mono (by decide)
      · split
        · exact .refl _ s
        · exact ((abortOrder_touches _ s).mono (by decide)).trans ((finishAbort_touches _ _).mono (by decide))

theorem resumeNext_touches (o : Order) (s : State) :
    Touches [.orders, .reg, .pos, .notices] s (resumeNext o s).1 := by
  unfold resumeNext
  split
  · exact activate_touches o s
  · split
    · exact (setFeed_touches _ s).andThen (offer_touches _ _) (by decide) (by decide)
    · exact .refl _ s

theorem orderResume_touches (s : State) : Touches [.orders, .reg, .pos, .notices] s (orderResume s).1 := by
  unfold orderResume
  split
  · exact .refl _ s
  · exact .refl _ s
  · split
    · exact (setFeed_touches _ s).mono (by decide)
    · exact resumeNext_touches _ s
  · split
    · exact .refl _ s
    · exact resumeNext_touches _ s

theorem closeBox_touches (s : State) :
    Touches [.deliv, .counters, .orders, .pos, .notices] s (closeBox s).1 := by
  unfold closeBox
  split
  · exact .refl _ s
  · split
    · exact .refl _ s
    · exact (closeOpenBox_touches _ _ _ s).trans ((rebuildProjection_touches _).mono (by decide))

/-- The fields that a removal can touch. -/
def removalFields : List StateField :=
  [.track, .store, .counters, .pos, .app, .insp, .orders, .reg, .notices, .line]

theorem removeHeads_touches : ∀ (n : Nat) (s : State), Touches removalFields s (removeHeads n s)
  | 0, s => .refl _ s
  | n + 1, s => by
    unfold removeHeads
    split
    · exact .refl _ s
    · exact (removeRecord_touches _ _ s).trans (removeHeads_touches n _)

theorem purge_touches (s : State) : Touches (.deliv :: removalFields) s (purge s) :=
  (((removeHeads_touches _ s).mono (by decide)).trans ((dropWatches_touches _).mono (by decide))).trans
    ((rebuildProjection_touches _).mono (by decide))

theorem clearFault_touches (z : Int) (f : FaultKind) (s : State) :
    Touches [.line, .pos, .insp] s (clearFault z s f) := by
  have h : Touches [.line, .pos, .insp] s (unlatch f s) := (unlatch_touches f s).mono (by decide)
  refine .ite (fun _ => h.trans ?_) (fun _ => .refl _ s)
  cases f with
  | reverse => exact (rebase_touches _).mono (by decide)
  | tracking => exact (clearLosses_touches _).mono (by decide)
  | encoder => exact .refl _ _
  | ring => exact .refl _ _
  | masterStop => exact .refl _ _
  | gumSupply => exact .refl _ _

theorem clearStatus_touches (z : Int) (s : State) : Touches [.line, .pos, .insp] s (clearStatus z s).1 :=
  .foldl (fun t f => clearFault_touches z f t) allFaults s

/-- The state just before an apply computes the leads: table, lines, inspection channels and watchdog (02 R23). -/
theorem applyTable_touches (levels : BitVec 16) (s : State) :
    Touches [.store, .insp, .lines, .ring, .app] s (applyTable levels s) :=
  (((((setStore_touches _ s).mono (by decide)).trans ((setInsp_touches _ _).mono (by decide))).trans
    ((setLines_touches _ _).mono (by decide))).trans ((setRing_touches _ _).mono (by decide))).trans
    ((computeLeads_touches _ _).mono (by decide))

theorem positionSet_touches (a : List Byte) (s : State) :
    Touches (.freeIndex :: stationFields) s (positionSet a s).1 := by
  unfold positionSet
  simp only
  split
  · exact .refl _ s
  · split
    · exact .refl _ s
    · exact (settle_touches s).trans (((placeAt_touches _ _).mono (by decide)).trans
        ((fireEnds_touches _).mono (by decide)))

theorem machineTableApply_touches (lock : Bool) (levels : BitVec 16) (s : State) :
    Touches (.freeIndex :: .ring :: stationFields) s (machineTableApply lock levels s).1 := by
  unfold machineTableApply
  split
  · exact .refl _ s
  · split
    · exact (setStore_touches _ s).mono (by decide)
    · exact ((settle_touches s).mono (by decide)).trans ((applyTable_touches levels _).mono (by decide))

theorem lineDrain_touches (s : State) : Touches [.line, .lines] s (lineDrain s).1 := by
  unfold lineDrain
  split
  · exact .refl _ s
  · exact .refl _ s
  · exact (setRun_touches _ s).mono (by decide)
  · split
    · exact .refl _ s
    · exact leaveHalted_touches _ s

/-- Every field but those that are the model's own and outlive a reset: the queue and the free-value index. -/
def resetFields : List StateField :=
  [.pos, .lines, .store, .track, .reg, .app, .insp, .orders, .deliv, .line, .counters, .notices, .mgmt, .ring,
    .resetHeld, .reply]

theorem takeReset_touches (pins : ResetPins) (s : State) : Touches resetFields s (takeReset pins s) := by
  intro f hf; cases f <;> first | rfl | (simp [resetFields] at hf)

theorem fullReset_touches (pins : ResetPins) (s : State) : Touches resetFields s (fullReset pins s) :=
  .ite (fun _ => takeReset_touches pins s) (fun _ => .refl _ s)

/-- The fields that a frame can touch, a reset that it brings about apart. -/
def frameFields : List StateField := [.ring, .mgmt, .line, .lines, .notices, .deliv]

theorem receiveFrame_touches (f : List Byte) (s : State) : Touches frameFields s (receiveFrame f s) := by
  have hsend (g : List Byte) : Touches frameFields s (sendFrame g s) := (setRing_touches _ s).mono (by decide)
  have hnote : Touches frameFields s (noteFrame f s) := (setRing_touches _ s).mono (by decide)
  have hstop : Touches frameFields s (reportStop f (noteFrame f s)) :=
    .ite (fun _ => hnote.trans ((report_touches _ _).mono (by decide))) (fun _ => hnote)
  refine .ite (fun _ => hsend _) (fun _ => .ite (fun _ => hsend _) (fun _ => ?_))
  exact hstop.trans (((readTakes_touches f _).mono (by decide)).trans ((passFrame_touches _ _).mono (by decide)))

theorem frameArrival_touches (f : List Byte) (s : State) : Touches resetFields s (frameArrival f s) :=
  .ite (fun _ => (setRing_touches _ s).mono (by decide)) (fun _ => .ite (fun _ => .refl _ s)
    (fun _ => (fullReset_touches _ s).trans ((receiveFrame_touches f _).mono (by decide))))

/-- The fields of the state that a command's effect can touch. -/
def effectFields : Instr → List StateField
  | .positionSet _ => .freeIndex :: stationFields
  | .outputSet _ => [.lines]
  | .machineTableWrite _ _ => [.store]
  | .machineTableRead _ => []
  | .machineTableApply _ _ _ => .freeIndex :: .ring :: stationFields
  | .recipeEdit _ _ => [.store]
  | .recipeWrite _ _ => [.store]
  | .recipeCheck _ => [.store, .mgmt]
  | .recipeClear _ _ => [.store, .mgmt]
  | .recipeRead _ => []
  | .checkCompletion => [.store, .mgmt, .notices]
  | .clearCompletion => [.store, .mgmt, .notices]
  | .transitRead _ => []
  | .channelResultRead _ => [.insp]
  | .orderQueue _ => [.orders, .store, .reg, .pos, .notices]
  | .orderRead _ => []
  | .orderAbort _ => [.track, .pos, .app, .orders, .reg, .notices, .store]
  | .orderResume _ => [.orders, .reg, .pos, .notices]
  | .feedHold _ => [.orders]
  | .feedRelease _ => [.orders]
  | .pullSample _ => [.orders]
  | .closeBox _ => [.deliv, .counters, .orders, .pos, .notices]
  | .boxLogRead _ => []
  | .lineStart _ => [.line]
  | .lineDrain _ => [.line, .lines]
  | .lineResume _ => [.line, .lines]
  | .linePurge _ => .deliv :: removalFields
  | .clearStatus _ _ => [.line, .pos, .insp]
  | .resetFull _ => [.line]
  | .fullReset _ => resetFields
  | .powerOnReset _ => resetFields
  | .countersRead _ => []
  | .countersSnapshot _ => [.counters]
  | .countersSnapshotReset _ => [.counters]
  | .snapshotRead _ => []
  | .noticeRead _ => [.notices]
  | .mgmtStatus _ _ => []
  | .unknownRequest _ _ => []
  | .frameArrival _ => resetFields
  | .watchdogExpiry => [.pos, .ring, .line, .lines, .notices]
  | .encoderStep _ => .freeIndex :: stationFields
  | .speedWindowEnd => [.track, .pos, .app, .counters]
  | .edgeEvent _ _ => [.lines, .reg, .insp, .deliv, .notices]
  | .gumPressureLow _ => [.line, .lines, .notices]
  | .resetPinHeld => [.resetHeld]
  | _ => stationFields

theorem effect_touches (c : Instr) (s : State) : Touches (effectFields c) s (effect c s) := by
  cases c with
  | positionSet a => exact positionSet_touches a s
  | outputSet a => exact setLines_touches _ s
  | machineTableWrite a lock =>
    show Touches [.store] s (machineTableWrite a lock s).1
    unfold machineTableWrite
    split
    · exact .refl _ s
    · exact .refl _ s
    · split
      · exact .refl _ s
      · exact setStore_touches _ s
  | machineTableRead a =>
    show Touches [] s (machineTableRead a s).1
    unfold machineTableRead
    split <;> exact .refl _ s
  | machineTableApply a lock levels => exact machineTableApply_touches lock levels s
  | recipeEdit a lock =>
    have hslot (k : Fin 8) (x : SlotState) : Touches [.store] s (setSlotState k x s) := modifySlot_touches k _ s
    show Touches [.store] s (recipeEdit a lock s).1
    unfold recipeEdit
    split
    · exact .refl _ s
    · split
      · exact .refl _ s
      · split
        · exact .refl _ s
        · simp only
          split
          · exact (modifySlot_touches _ _ s).trans (modifySlot_touches _ _ _)
          · exact .refl _ s
          · split
            · exact hslot _ _
            · exact .refl _ s
          · exact .refl _ s
          · exact .refl _ s
  | recipeWrite a lock =>
    show Touches [.store] s (recipeWrite a lock s).1
    unfold recipeWrite
    split
    · exact .refl _ s
    · split
      · exact .refl _ s
      · exact .refl _ s
      · split
        · exact .refl _ s
        · split
          · exact .refl _ s
          · exact modifySlot_touches _ _ s
  | recipeCheck a =>
    show Touches [.store, .mgmt] s (recipeCheck a s).1
    unfold recipeCheck
    split
    · exact .refl _ s
    · split
      · exact .refl _ s
      · exact (modifySlot_touches _ _ s).andThen (setMgmt_touches _ _) (by decide) (by decide)
  | recipeClear a lock =>
    show Touches [.store, .mgmt] s (recipeClear a lock s).1
    unfold recipeClear
    split
    · exact .refl _ s
    · split
      · exact .refl _ s
      · split
        · exact .refl _ s
        · split
          · exact .refl _ s
          · exact (modifySlot_touches _ _ s).andThen (setMgmt_touches _ _) (by decide) (by decide)
  | recipeRead a =>
    show Touches [] s (recipeRead a s).1
    unfold recipeRead
    split
    · exact .refl _ s
    · split <;> exact .refl _ s
  | checkCompletion => exact checkCompletion_touches s
  | clearCompletion => exact clearCompletion_touches s
  | transitRead a =>
    show Touches [] s (transitRead a s).1
    unfold transitRead
    simp only
    split
    · exact .refl _ s
    · split
      · exact .refl _ s
      · split <;> exact .refl _ s
  | channelResultRead a =>
    show Touches [.insp] s (channelResultRead a s).1
    unfold channelResultRead
    split
    · exact modifyInsp_touches _ _ s
    · exact .refl _ s
  | orderQueue a =>
    show Touches [.orders, .store, .reg, .pos, .notices] s (orderQueue a s).1
    unfold orderQueue
    split
    · exact .refl _ s
    · split
      · exact .refl _ s
      · exact enqueue_touches _ s
  | orderRead a =>
    show Touches [] s (orderRead a s).1
    unfold orderRead
    split
    · exact .refl _ s
    · split <;> exact .refl _ s
  | orderAbort a => exact orderAbort_touches a s
  | orderResume a => exact orderResume_touches s
  | feedHold a => exact setOrders_touches _ s
  | feedRelease a => exact setOrders_touches _ s
  | pullSample a =>
    show Touches [.orders] s (pullSample a s).1
    unfold pullSample
    split
    · exact setOrders_touches _ s
    · exact .refl _ s
  | closeBox a => exact closeBox_touches s
  | boxLogRead a => exact .refl _ s
  | lineStart a =>
    show Touches [.line] s (lineStart s).1
    unfold lineStart
    split
    · exact .refl _ s
    · split
      · exact .refl _ s
      · split
        · exact .refl _ s
        · exact setRun_touches _ s
  | lineDrain a => exact lineDrain_touches s
  | lineResume a =>
    show Touches [.line, .lines] s (lineResume s).1
    unfold lineResume
    split
    · exact leaveHalted_touches _ s
    · exact .refl _ s
  | linePurge a =>
    show Touches (.deliv :: removalFields) s (linePurge s).1
    unfold linePurge
    split
    · exact purge_touches s
    · exact .refl _ s
  | clearStatus a reading => exact clearStatus_touches reading s
  | resetFull a => exact setLine_touches _ s
  | fullReset pins => exact fullReset_touches pins s
  | powerOnReset pins => exact takeReset_touches pins s
  | countersRead a =>
    show Touches [] s (countersRead a s).1
    unfold countersRead
    split <;> exact .refl _ s
  | countersSnapshot a => exact setCounters_touches _ s
  | countersSnapshotReset a => exact setCounters_touches _ s
  | snapshotRead a =>
    show Touches [] s (snapshotRead a s).1
    unfold snapshotRead
    split
    · split <;> exact .refl _ s
    · exact .refl _ s
  | noticeRead a => exact setNotices_touches _ s
  | mgmtStatus a lock => exact .refl _ s
  | unknownRequest kind a => exact .refl _ s
  | frameArrival f => exact frameArrival_touches f s
  | watchdogExpiry => exact watchdogExpiry_touches s
  | encoderStep pair => exact (settle_touches s).trans ((encoderMove_touches pair _).mono (by decide))
  | speedWindowEnd => exact endWindow_touches s
  | edgeEvent l level => exact edgeAt_touches l level s
  | gumPressureLow z => exact gumPressure_touches z s
  | feedEvent => exact takeCommanded_touches _ s
  | captureArm => exact takeCommanded_touches _ s
  | windowClose => exact takeCommanded_touches _ s
  | onEvent q k i d => exact takeCommandedDue_touches _ _ s
  | offEvent q k i d => exact takeCommandedDue_touches _ _ s
  | watchOpen j => exact takeCommanded_touches _ s
  | watchEnd j => exact takeCommanded_touches _ s
  | inspectionWindowOpen j q => exact takeCommandedDue_touches _ _ s
  | inspectionWindowEnd j q => exact takeCommandedDue_touches _ _ s
  | sampleEvent j q z => exact takeCommandedDue_touches _ _ s
  | gateEvent q => exact takeCommandedDue_touches _ _ s
  | rejectGateEnd => exact takeCommandedDue_touches _ _ s
  | deliveryEvent q => exact takeCommandedDue_touches _ _ s
  | separatorPulseEnd => exact takeCommandedDue_touches _ _ s
  | resetPinHeld => exact setResetHeld_touches true s

/-! ## Laws over all steps -/

/-- The commands that take a fired event. -/
def isStation : Instr → Bool
  | .feedEvent | .captureArm | .windowClose | .onEvent _ _ _ _ | .offEvent _ _ _ _ | .watchOpen _ | .watchEnd _
  | .inspectionWindowOpen _ _ | .inspectionWindowEnd _ _ | .sampleEvent _ _ _ | .gateEvent _ | .rejectGateEnd
  | .deliveryEvent _ | .separatorPulseEnd => true
  | _ => false

/-- What each taking keeps, the command of a fired event keeps. -/
theorem TakesKeep.effect (K : TakesKeep P) (hc : isStation c = true) (h : P s) : P (effect c s) := by
  cases c with
  | feedEvent => exact K.takeCommanded .feed h
  | captureArm => exact K.takeCommanded .captureArm h
  | windowClose => exact K.takeCommanded .windowClose h
  | onEvent q k i d => exact K.takeCommandedDue 0 (.appOn q k i d) h
  | offEvent q k i d => exact K.takeCommandedDue 0 (.appOff q k i d) h
  | watchOpen j => exact K.takeCommanded (.watchOpen j) h
  | watchEnd j => exact K.takeCommanded (.watchEnd j) h
  | inspectionWindowOpen j q => exact K.takeCommandedDue 0 (.inspOpen j q) h
  | inspectionWindowEnd j q => exact K.takeCommandedDue 0 (.inspEnd j q) h
  | sampleEvent j q z => exact K.takeCommandedDue z (.inspSample j q) h
  | gateEvent q => exact K.takeCommandedDue 0 (.gate q) h
  | rejectGateEnd => exact K.takeCommandedDue 0 .rejectGateEnd h
  | deliveryEvent q => exact K.takeCommandedDue 0 (.delivery q) h
  | separatorPulseEnd => exact K.takeCommandedDue 0 .separatorEnd h
  | _ => cases hc

/-- What keeps a law: the queue and the replies leave it alone, and it comes out of every effect and every tick. `P` is
what the taking of events keeps and `Q` what the step is to leave. -/
structure StepKeeps (P Q : State → Prop) : Prop where
  takes : TakesKeep P
  weaken : ∀ s, P s → Q s
  queue : ∀ (q : List Instr) (s : State), P s → P { s with pending := q }
  reply : ∀ (place : Option (List Byte × Nat)) (r : Reply) (s : State), Q s → Q (giveReply place r s)
  effect : ∀ (c : Instr) (s : State), isStation c = false → Ready c s → P s → Q (effect c s)
  microsecond : ∀ s, P s → Q (microsecond s)
  completions : ∀ s, P s → Q (clearCompletion (checkCompletion s))

theorem StepKeeps.anyEffect (K : StepKeeps P Q) (hr : Ready c s) (h : P s) : Q (Steps.effect c s) := by
  cases hc : isStation c with
  | true => exact K.weaken _ (K.takes.effect hc h)
  | false => exact K.effect c s hc hr h

theorem StepKeeps.takeTime (K : StepKeeps P Q) (e : TimeEvent) (hfree : s.resetHeld = false) (h : P s) :
    Q (takeTime e s) := by
  have hready (c : Instr) (hc : requestOf c = none) : Ready c s :=
    ⟨fun _ _ => hfree, fun k n a e => by rw [hc] at e; cases e⟩
  cases e with
  | windowEnd => exact K.effect .speedWindowEnd s rfl (hready _ rfl) h
  | watchdog => exact K.effect .watchdogExpiry s rfl (hready _ rfl) h
  | completion => exact K.completions s h

/-- A law that every effect and every tick keeps is kept by every step. -/
theorem StepKeeps.step (K : StepKeeps P Q) (h : P s) (hstep : step s = .next t) : Q t := by
  rcases step_cases hstep with ⟨c, q, _, hd⟩ | ⟨_, ht⟩
  · have hq := K.queue q s h
    cases hd with
    | nothing => exact K.weaken _ hq
    | quiet hr => exact K.anyEffect hr hq
    | refused place r => exact K.reply place r _ (K.weaken _ hq)
    | answered place r hr => exact K.reply place r _ (K.anyEffect hr hq)
  · cases ht with
    | held _ => exact K.weaken s h
    | station e v _ hc => exact K.weaken _ (K.takes.takeDue hc h)
    | passes _ _ => exact K.microsecond s h
    | timed e v hfree _ _ hv =>
      rcases hv with rfl | rfl
      · exact K.takeTime e hfree h
      · exact K.takeTime e (s := bumpFree s) hfree (K.takes.free _ s h)

end Sys2Proof.Steps
end

section
/-! SUPPORT. Relations that every operation of the part respects. An operation is built from a few plain changes of the
state; a reflexive and transitive relation that holds across each plain change (`Respects`) holds across every shared
operation and every station event, the creation of a record and the queuing of an order apart. The operations are taken
apart here once, and each law gives its plain changes alone. -/

namespace Sys2Proof.Changes

open Sys2Proof.Machine Sys2Proof.Ledger

-- One theorem after another, as in the tests: a thread each would ask for more stack than a check may take.
set_option Elab.async false

/-- An order as it was queued (07 R115): the fields that stand from then on, the others at their first values. -/
def asQueued (o : Order) : Order :=
  { o with state := .queued, delivered := 0, boxesClosed := 0, earlySent := false, aborted := false }

/-- A relation of states that holds across every plain change but the removal of a record. -/
structure RespectsPlain (R : State → State → Prop) : Prop where
  refl : ∀ s, R s s
  trans : ∀ {s t u}, R s t → R t u → R s u
  offer : ∀ n s, R s (offer n s)
  count : ∀ c s, R s (count c s)
  withdraw : ∀ p s, R s (withdraw p s)
  unschedule : ∀ (e : Pending) (s : State),
    R s { s with pos := { s.pos with schedule := s.pos.schedule.erase e } }
  switchTo : ∀ src s, R s (switchTo src s)
  armWindow : ∀ p s, R s (armWindow p s)
  closeWindow : ∀ s, R s (closeWindow s)
  amendRecord : ∀ q f s, (∀ r, Grown r (f r)) → R s (amendRecord q f s)
  modifyChannel : ∀ k f s, (∀ c, (f c).onLead = c.onLead ∧ (f c).offLead = c.offLead) → R s (modifyChannel k f s)
  setBlanks : ∀ (b : List BlankEntry) (s : State), R s { s with app := { s.app with blanks := b } }
  modifyInsp : ∀ j f s, (∀ c, c.losses ≤ 255 → (f c).losses ≤ 255) → R s (modifyInsp j f s)
  mapOrders : ∀ (f : Order → Order) (s : State), (∀ o, asQueued (f o) = asQueued o) →
    R s { s with orders := { s.orders with list := s.orders.list.map f } }
  setFeed : ∀ (f : FeedState) (c : Option Nat) (s : State),
    R s { s with orders := { s.orders with feedState := f, runningClass := c } }
  setFeedGate : ∀ b s, R s (setFeedGate b s)
  removeOrder : ∀ t s, R s (removeOrder t s)
  refDown : ∀ k s, R s (refDown k s)
  setDeliv : ∀ (d : DeliveryUnit) (s : State), d.log = s.deliv.log → R s { s with deliv := d }
  logBox : ∀ b why s, R s (logBox b why s)
  report : ∀ f s, R s (report f s)

/-- A relation of states that holds across the removal of a record too. -/
structure Respects (R : State → State → Prop) : Prop extends RespectsPlain R where
  removeRecord : ∀ r cs s, R s (removeRecord r cs s)

/-- The ends that an event brings about: off events, and the ends of the two outputs (05 R81, 08 R138, R144). -/
def isEnd : Scheduled → Bool
  | .appOff _ _ _ _ => true
  | .rejectGateEnd => true
  | .separatorEnd => true
  | _ => false

/-- A relation of states that holds across the start of the separator pulse too. -/
structure RespectsPulse (R : State → State → Prop) : Prop extends Respects R where
  startSeparator : ∀ s, R s (startSeparator s)

/-- A relation of states that holds across the scheduling of any end. -/
structure RespectsEnds (R : State → State → Prop) : Prop extends Respects R where
  schedule : ∀ e s, isEnd e.event = true → R s (schedule e s)

/-! ## Amendments (03 R45 to R48) -/

theorem grown_refl (r : Record) : Grown r r :=
  ⟨rfl, rfl, rfl, rfl, rfl, rfl, id, by simp, by simp, by simp, fun _ h => h⟩

theorem and_eq_of_subset_trans {n : Nat} {a b c : BitVec n} (h : a &&& b = a) (k : b &&& c = b) : a &&& c = a := by
  calc a &&& c = a &&& b &&& c := by rw [h]
    _ = a &&& (b &&& c) := BitVec.and_assoc a b c
    _ = a := by rw [k, h]

theorem grown_trans {r x y : Record} (h : Grown r x) (k : Grown x y) : Grown r y := by
  obtain ⟨h1, h2, h3, h4, h5, h6, hstage, hdefects, happlied, hsuppressed, hvalues⟩ := h
  obtain ⟨k1, k2, k3, k4, k5, k6, kstage, kdefects, kapplied, ksuppressed, kvalues⟩ := k
  exact ⟨k1.trans h1, k2.trans h2, k3.trans h3, k4.trans h4, k5.trans h5, k6.trans h6,
    fun e => kstage (hstage e), and_eq_of_subset_trans hdefects kdefects, and_eq_of_subset_trans happlied kapplied,
    and_eq_of_subset_trans hsuppressed ksuppressed, fun j e => kvalues j (hvalues j e)⟩

theorem and_or_self {n : Nat} (a b : BitVec n) : a &&& (a ||| b) = a := by
  ext i; simp; cases a[i] <;> simp

theorem grown_addDefect (c : DefectClass) (r : Record) : Grown r { r with defects := r.defects ||| oneDefect c } :=
  ⟨rfl, rfl, rfl, rfl, rfl, rfl, id, and_or_self _ _, by simp, by simp, fun _ h => h⟩

theorem grown_addApplied (k : Fin 12) (r : Record) : Grown r { r with applied := r.applied ||| oneChannel k } :=
  ⟨rfl, rfl, rfl, rfl, rfl, rfl, id, by simp, and_or_self _ _, by simp, fun _ h => h⟩

theorem grown_addSuppressed (k : Fin 12) (r : Record) :
    Grown r { r with suppressed := r.suppressed ||| oneChannel k } :=
  ⟨rfl, rfl, rfl, rfl, rfl, rfl, id, by simp, by simp, and_or_self _ _, fun _ h => h⟩

theorem grown_setValue (j : Fin 8) (v : Nat) (r : Record) : Grown r { r with values := put r.values j (some v) } := by
  refine ⟨rfl, rfl, rfl, rfl, rfl, rfl, id, by simp, by simp, by simp, fun i h => ?_⟩
  rw [getAt_put]
  split
  · exact Option.some_ne_none v
  · exact h

theorem grown_commit (r : Record) : Grown r { r with stage := .committed } :=
  ⟨rfl, rfl, rfl, rfl, rfl, rfl, fun _ => rfl, by simp, by simp, by simp, fun _ h => h⟩

namespace RespectsPlain

variable {R : State → State → Prop} (E : RespectsPlain R)
include E

theorem foldl {α : Type} {g : State → α → State} (h : ∀ t x, R t (g t x)) : ∀ (xs : List α) (s : State), R s (xs.foldl g s)
  | [], s => E.refl s
  | x :: xs, s => E.trans (h s x) (foldl h xs (g s x))

omit E in
theorem ite {p : Prop} [Decidable p] {s t u : State} (_ : RespectsPlain R) (h : p → R s t) (k : ¬p → R s u) :
    R s (if p then t else u) := by
  split
  · exact h ‹_›
  · exact k ‹_›

theorem countAll (cs : List Counter) (s : State) : R s (countAll cs s) := E.foldl (fun t c => E.count c t) cs s

theorem modifyOrder (tag : Nat) {f : Order → Order} (s : State) (h : ∀ o, asQueued (f o) = asQueued o) :
    R s (modifyOrder tag f s) :=
  E.mapOrders (fun o => if o.tag == tag then f o else o) s (fun o => by split <;> simp [h])

/-! ## The Application Unit -/

theorem idleChannel (k : Fin 12) (s : State) : R s (idleChannel k s) := E.modifyChannel k _ s (by intro _; exact ⟨rfl, rfl⟩)

theorem endApplications (q : U32) (p : Nat → Bool) (s : State) : R s (endApplications q p s) :=
  E.foldl (fun t k => E.ite (fun _ => E.idleChannel k t) (fun _ => E.refl t)) allApps s

theorem defectHandOver (q : U32) (s : State) : R s (defectHandOver q s) := by
  unfold Machine.defectHandOver
  split
  · exact E.refl s
  · exact E.ite (fun _ => E.trans (E.withdraw _ s) (E.endApplications _ _ _)) (fun _ => E.refl s)

theorem addDefect (q : U32) (c : DefectClass) (s : State) : R s (addDefect q c s) := by
  unfold Machine.addDefect
  split
  · exact E.refl s
  · exact E.trans (E.amendRecord q _ s (grown_addDefect c)) (E.defectHandOver q _)

theorem removalApp (q : U32) (s : State) : R s (removalApp q s) :=
  E.trans (E.trans (E.withdraw _ s) (E.endApplications q _ _)) (E.setBlanks _ _)

theorem suppress (q : U32) (k : Fin 12) (s : State) : R s (suppress q k s) := by
  have h := E.amendRecord q _ s (grown_addSuppressed k)
  unfold Machine.suppress
  simp only
  split
  · exact E.trans h (E.addDefect _ _ _)
  · exact h

theorem countGum (q : U32) (s : State) : R s (countGum q s) :=
  E.ite (fun _ => E.refl s) (fun _ => E.trans (E.setBlanks _ s) (E.count _ _))

theorem displace (q : U32) (k : Fin 12) (s : State) : R s (displace q k s) := by
  unfold Machine.displace
  split
  · exact E.ite (fun _ => E.refl s) (fun _ => E.withdraw _ s)
  · exact E.refl s

theorem judgeOff (q : U32) (k : Fin 12) (i dot : Nat) (s : State) : R s (judgeOff q k i dot s) := by
  unfold Machine.judgeOff
  split
  · exact E.ite (fun _ => E.idleChannel k s) (fun _ => E.refl s)
  · exact E.refl s

/-! ## The Inspection Unit -/

theorem removalInsp (q : U32) (s : State) : R s (removalInsp q s) :=
  E.trans (E.withdraw _ s) (E.foldl (fun t j => E.ite (fun _ => E.modifyInsp j _ t (by intro _ h; exact h))
    (fun _ => E.refl t)) allInsps _)

theorem makeResult (j : Fin 8) (x : InspResult) (s : State) : R s (makeResult j x s) :=
  E.modifyInsp j _ s (by intro _ h; exact h)

theorem setValue (q : U32) (j : Fin 8) (v : Nat) (s : State) : R s (setValue q j v s) :=
  E.amendRecord q _ s (grown_setValue j v)

theorem completeMeasurement (j : Fin 8) (r : Record) (v : Nat) (s : State) : R s (completeMeasurement j r v s) := by
  have h := E.setValue r.seq j v s
  unfold Machine.completeMeasurement
  refine E.trans (E.trans ?_ (E.makeResult j _ _)) (E.modifyInsp j _ _ (by intro _ h; exact h))
  exact E.ite (fun _ => h) (fun _ => E.trans h (E.addDefect _ _ _))

theorem openMeasurement (j : Fin 8) (q : U32) (x : Pos) (s : State) : R s (openMeasurement j q x s) := by
  unfold Machine.openMeasurement
  split
  · exact E.refl s
  · exact E.modifyInsp j _ s (by intro _ h; exact h)

theorem endMeasurement (j : Fin 8) (q : U32) (s : State) : R s (endMeasurement j q s) := by
  unfold Machine.endMeasurement
  split
  · exact E.ite (fun _ => E.completeMeasurement _ _ _ s) (fun _ => E.refl s)
  · exact E.refl s

theorem sampleMeasurement (j : Fin 8) (q : U32) (z : Int) (s : State) : R s (sampleMeasurement j q z s) := by
  unfold Machine.sampleMeasurement
  split
  · exact E.refl s
  · exact E.completeMeasurement _ _ _ s

theorem dropWatches (s : State) : R s (dropWatches s) :=
  E.foldl (fun t j => E.modifyInsp j _ t (by intro _ h; exact h)) allInsps s

/-! ## Orders -/

theorem setFeedState (f : FeedState) (s : State) : R s (Machine.setFeed f s) := E.setFeed f s.orders.runningClass s

theorem updateSource (s : State) : R s (updateSource s) := E.ite (fun _ => E.refl s) (fun _ => E.switchTo _ s)

theorem earlyTest (tag : Nat) (s : State) : R s (earlyTest tag s) := by
  unfold Machine.earlyTest
  split
  · exact E.refl s
  · exact E.ite (fun _ => E.trans (E.offer _ s) (E.modifyOrder _ _ (by intro _; rfl))) (fun _ => E.refl s)

theorem activate (o : Order) (s : State) : R s (activate o s) :=
  E.trans (E.trans (E.trans (E.modifyOrder o.tag s (by intro _; rfl)) (E.setFeed .feeding _ _)) (E.updateSource _))
    (E.earlyTest _ _)

theorem select (s : State) : R s (select s) := by
  unfold Machine.select
  split
  · exact E.setFeedState _ s
  · exact E.ite (fun _ => E.activate _ s) (fun _ => E.trans (E.setFeedState _ s) (E.offer _ _))

theorem reexamine (s : State) : R s (reexamine s) := by
  unfold Machine.reexamine
  refine E.ite (fun _ => ?_) (fun _ => E.refl s)
  split
  · exact E.setFeedState _ s
  · exact E.ite (fun _ => E.activate _ s) (fun _ => E.refl s)

theorem afterActive (b : Bool) (s : State) : R s (afterActive b s) :=
  E.trans (E.ite (fun _ => E.trans (E.setFeedState _ s) (E.offer _ _)) (fun _ => E.select s)) (E.updateSource _)

theorem depart (o : Order) (e : EndState) (s : State) : R s (depart o e s) := by
  have h := E.trans (E.trans (E.removeOrder o.tag s) (E.refDown o.slot _))
    (E.offer (.orderEnd o.tag e o.delivered o.boxesClosed (shortfallOf o e)) _)
  exact E.trans (E.trans (E.ite (fun _ => E.trans h (E.afterActive _ _)) (fun _ => h)) (E.updateSource _))
    (E.reexamine _)

theorem completionTest (tag : Nat) (s : State) : R s (completionTest tag s) := by
  unfold Machine.completionTest
  split
  · exact E.refl s
  · refine E.ite (fun _ => E.refl s) (fun _ => ?_)
    split
    · exact E.refl s
    · exact E.depart _ _ s

theorem handOver (a n : Order) (s : State) : R s (handOver a n s) :=
  E.trans (E.trans (E.modifyOrder a.tag s (by intro _; rfl)) (E.activate n _)) (E.completionTest a.tag _)

theorem handOverTest (s : State) : R s (handOverTest s) := by
  unfold Machine.handOverTest
  split
  · exact E.ite (fun _ => E.handOver _ _ s) (fun _ => E.refl s)
  · exact E.refl s

theorem markAborted (tag : Nat) (s : State) : R s (markAborted tag s) :=
  E.foldl (fun t q => E.addDefect q .aborted t) _ s

theorem markAbort (o : Order) (s : State) : R s (markAbort o s) :=
  E.trans (E.modifyOrder o.tag s (by intro _; rfl)) (E.markAborted o.tag _)

theorem abortOrder (o : Order) (s : State) : R s (abortOrder o s) :=
  E.ite (fun _ => E.trans (E.markAbort o s) (E.afterActive _ _)) (fun _ => E.markAbort o s)

theorem finishAbort (o : Order) (s : State) : R s (finishAbort o s).1 := by
  unfold Machine.finishAbort
  split
  · exact E.refl s
  · split
    · exact E.refl s
    · split
      · exact E.refl s
      · exact E.depart _ _ s

theorem orderAbort (a : List Byte) (s : State) : R s (orderAbort a s).1 := by
  unfold Machine.orderAbort
  split
  · exact E.refl s
  · split
    · exact E.refl s
    · split
      · exact E.depart _ _ s
      · split
        · exact E.refl s
        · exact E.trans (E.abortOrder _ s) (E.finishAbort _ _)

theorem resumeNext (o : Order) (s : State) : R s (resumeNext o s).1 := by
  unfold Machine.resumeNext
  split
  · exact E.activate o s
  · split
    · exact E.trans (E.setFeedState _ s) (E.offer _ _)
    · exact E.refl s

theorem orderResume (s : State) : R s (orderResume s).1 := by
  unfold Machine.orderResume
  split
  · exact E.refl s
  · exact E.refl s
  · split
    · exact E.setFeedState _ s
    · exact E.resumeNext _ s
  · split
    · exact E.refl s
    · exact E.resumeNext _ s

/-! ## Removals, boxes, gate and delivery -/

/-- A relation that holds across the loss of a record from the list and Line Control's test of it holds across a removal. -/
theorem respects
    (dropRecord : ∀ (q : U32) (s : State),
      R s { s with track := { s.track with records := s.track.records.eraseP (fun x => x.seq == q) } })
    (drainTest : ∀ s, R s (drainTest s)) : Respects R where
  toRespectsPlain := E
  removeRecord r cs s := by
    unfold Machine.removeRecord
    refine E.trans (E.trans ?_ (E.completionTest r.tag _)) (drainTest _)
    refine E.trans (E.trans (E.trans ?_ (E.removalApp r.seq _)) (E.removalInsp r.seq _)) (E.withdraw _ _)
    exact E.trans (E.trans (dropRecord r.seq s) (E.refDown r.slot _)) (E.countAll cs _)

end RespectsPlain

namespace Respects

variable {R : State → State → Prop} (E : Respects R)
include E

/-- A reject up to the scheduling of its gate's end (08 R138). -/
theorem rejected (r : Record) (c : Counter) (s : State) : R s (Machine.withdraw (fun e => e == .rejectGateEnd)
    { Machine.removeRecord r [.rejected, c] s with
      deliv := { (Machine.removeRecord r [.rejected, c] s).deliv with rejectGate := true } }) := by
  have hremoved := E.removeRecord r [.rejected, c] s
  generalize Machine.removeRecord r [.rejected, c] s = t at hremoved
  exact E.trans (E.trans hremoved (E.setDeliv { t.deliv with rejectGate := true } t rfl)) (E.withdraw _ _)

theorem creditOrder (b : Box) (s : State) : R s (creditOrder b s) :=
  E.mapOrders _ s (by intro o; split <;> rfl)

theorem rebuildProjection (s : State) : R s (rebuildProjection s) := E.setDeliv _ s (by rfl)

theorem gatePass (r : Record) (o : Order) (s : State) : R s (gatePass r o s) := by
  have h := E.trans (E.amendRecord r.seq _ s grown_commit) (E.setDeliv
    { s.deliv with committedCloses := s.deliv.committedCloses + (passClosesOf s o).1,
                   projected := (passClosesOf s o).2 } _ rfl)
  exact E.trans (E.ite (fun _ => h) (fun _ => E.trans h (E.count _ _))) (E.earlyTest _ _)

theorem deliverEntry (o : Order) (s : State) : R s (deliverEntry o s) :=
  E.trans (E.setDeliv _ s (by rfl)) (E.modifyOrder _ _ (by intro _; rfl))

theorem removeHeads : ∀ (n : Nat) (s : State), R s (removeHeads n s)
  | 0, s => E.refl s
  | n + 1, s => by
    unfold Machine.removeHeads
    split
    · exact E.refl s
    · exact E.trans (E.removeRecord _ _ s) (removeHeads n _)

theorem purge (s : State) : R s (purge s) :=
  E.trans (E.trans (E.removeHeads _ s) (E.dropWatches _)) (E.rebuildProjection _)

theorem linePurge (s : State) : R s (linePurge s).1 := by
  unfold Machine.linePurge
  split
  · exact E.purge s
  · exact E.refl s

/-! ## Takes, watches and the taking of events -/

theorem take (s : State) : R s (take s) := E.ite (fun _ => E.setDeliv _ s (by rfl)) (fun _ => E.offer _ s)

theorem takes : ∀ (n : Nat) (s : State), R s (takes n s)
  | 0, s => E.refl s
  | n + 1, s => E.trans (E.take s) (takes n (Machine.take s))

theorem watchOpenAt (j : Fin 8) (p : U32) (s : State) : R s (watchOpenAt j p s) :=
  E.ite (fun _ => E.modifyInsp j _ s (by intro _ h; exact h)) (fun _ => E.refl s)

theorem watchLost (j : Fin 8) (r : Record) (s : State) : R s (watchLost j r s) := by
  have h := E.trans (E.trans (E.modifyInsp j (fun c => { c with losses := min (c.losses + 1) 255 }) s
    (by intro _ _; exact Nat.min_le_right _ _)) (E.makeResult j ⟨some r.seq, r.cutPitch, 0, .lost⟩ _)) (E.removeRecord r [.lost] _)
  exact E.ite (fun _ => E.trans h (E.report _ _)) (fun _ => h)

theorem watchEndAt (j : Fin 8) (p : U32) (s : State) : R s (watchEndAt j p s) := by
  have he : R s (endWatch j s) := E.modifyInsp j _ s (by intro _ h; exact h)
  unfold Machine.watchEndAt
  refine E.ite (fun _ => ?_) (fun _ => E.refl s)
  split
  · exact E.refl s
  · refine E.ite (fun _ => he) (fun _ => E.trans he ?_)
    split
    · exact E.trans (E.trans (E.setValue _ _ _ _) (E.modifyInsp j _ _ (by intro _ _; exact Nat.zero_le _)))
        (E.makeResult j _ _)
    · exact E.watchLost j _ _
    · exact E.trans (E.makeResult j _ _) (E.report _ _)
    · exact E.refl _

/-- A feed event up to its decision: the hand-over made, or not (07 R125, R128). -/
theorem feedDecision (s : State) : R s (Machine.handOverTest (Machine.count .cutTotal s)) :=
  E.trans (E.count _ s) (E.handOverTest _)

theorem divertBlank (s : State) : R s (divertBlank s) := E.trans (E.count _ s) (E.setFeedGate _ _)

/-- Every recurring event but the feed event. -/
theorem fireRecurring {e : Recurring} (h : e ≠ .feed) (x : Pos) (s : State) : R s (fireRecurring e x s) := by
  cases e with
  | feed => exact absurd rfl h
  | captureArm => exact E.armWindow _ s
  | windowClose => exact E.closeWindow s
  | watchOpen j => exact E.watchOpenAt j _ s
  | watchEnd j => exact E.watchEndAt j _ s

/-- A feed event: what stands before its decision, then the blank diverted or accepted. -/
theorem feedAt (p : U32) (s : State) (haccept : ∀ o t, acceptingOrder t = some o → R t (acceptBlank p o t)) :
    R s (feedAt p s) := by
  unfold Machine.feedAt
  refine E.trans (E.feedDecision s) ?_
  simp only
  split
  · next o ho => exact haccept o _ ho
  · exact E.divertBlank _

end Respects

namespace RespectsPulse

variable {R : State → State → Prop} (E : RespectsPulse R)
include E

theorem closeOpenBox (b : Box) (why : CloseReason) (byDelivery : Bool) (s : State) :
    R s (closeOpenBox b why byDelivery s) := by
  have h := E.trans (E.trans (E.trans (E.trans (E.setDeliv { s.deliv with
      waiting := s.deliv.waiting + 1,
      committedCloses := if byDelivery then s.deliv.committedCloses - 1 else s.deliv.committedCloses } s rfl)
    (E.logBox b why _)) (E.count .boxesClosed _)) (E.creditOrder b _)) (E.startSeparator _)
  exact E.trans (E.ite (fun _ => h) (fun _ => E.trans h (E.offer _ _))) (E.setDeliv _ _ (by rfl))

theorem deliverChange (o : Order) (s : State) : R s (deliverChange o s) := by
  unfold Machine.deliverChange
  split
  · exact E.ite (fun _ => E.refl s) (fun _ => E.closeOpenBox _ _ _ s)
  · exact E.refl s

theorem deliverClose (o : Order) (s : State) : R s (deliverClose o s) := by
  unfold Machine.deliverClose
  split
  · exact E.refl s
  · exact E.ite (fun _ => E.closeOpenBox _ _ _ s)
      (fun _ => E.ite (fun _ => E.closeOpenBox _ _ _ s) (fun _ => E.refl s))

theorem deliverAt (q : U32) (s : State) : R s (deliverAt q s) := by
  unfold Machine.deliverAt
  split
  · exact E.refl s
  · split
    · exact E.refl s
    · next o _ =>
      have h := E.trans (E.deliverChange o s) (E.deliverEntry o _)
      refine E.trans ?_ (E.removeRecord _ _ _)
      split
      · exact E.trans h (E.deliverClose _ _)
      · exact h

theorem closeBox (s : State) : R s (closeBox s).1 := by
  unfold Machine.closeBox
  split
  · exact E.refl s
  · split
    · exact E.refl s
    · exact E.trans (E.closeOpenBox _ _ _ s) (E.rebuildProjection _)

end RespectsPulse

namespace RespectsEnds

variable {R : State → State → Prop} (E : RespectsEnds R)
include E

theorem applyPair (r : Record) (k : Fin 12) (i : Nat) (e : CamEntry) (dot : Nat) (s : State) :
    R s (applyPair r k i e dot s) :=
  E.trans (E.trans (E.trans (E.displace r.seq k s) (E.modifyChannel k _ _ (by intro _; exact ⟨rfl, rfl⟩)))
    (E.amendRecord r.seq _ _ (grown_addApplied k))) (E.schedule _ _ rfl)

theorem judgeOn (q : U32) (k : Fin 12) (i dot : Nat) (s : State) : R s (judgeOn q k i dot s) := by
  unfold Machine.judgeOn
  split
  · exact E.refl s
  · split
    · exact E.refl s
    · exact E.ite (fun _ => E.refl s) (fun _ => E.ite (fun _ => E.suppress q k s)
        (fun _ => E.ite (fun _ => E.trans (E.suppress q k s) (E.countGum q _)) (fun _ => E.applyPair _ _ _ _ _ s)))

theorem judgeApp (e : Scheduled) (s : State) : R s (judgeApp e s) := by
  unfold Machine.judgeApp
  split
  · exact E.judgeOn _ _ _ _ s
  · exact E.judgeOff _ _ _ _ s
  · exact E.refl s

theorem fireDueApps : ∀ (n : Nat) (s : State), R s (fireDueApps n s)
  | 0, s => E.refl s
  | n + 1, s => by
    unfold Machine.fireDueApps
    split
    · exact E.refl s
    · exact E.trans (E.trans (E.unschedule _ s) (E.judgeApp _ _)) (fireDueApps n _)

theorem takeFiredApps (s : State) : R s (takeFiredApps s) := E.fireDueApps _ s

theorem toPulse : RespectsPulse R where
  toRespects := E.toRespects
  startSeparator s := E.trans (E.trans (E.setDeliv { s.deliv with separator := true } s rfl) (E.withdraw _ _))
    (E.schedule _ _ rfl)

theorem gateReject (r : Record) (c : Counter) (x : Pos) (s : State) : R s (gateReject r c x s) :=
  E.trans (E.rejected r c s) (E.schedule _ _ rfl)

theorem gateAt (q : U32) (x : Pos) (s : State) : R s (gateAt q x s) := by
  unfold Machine.gateAt
  split
  · exact E.refl s
  · split
    · exact E.refl s
    · split
      · exact E.gateReject _ _ _ s
      · exact E.gatePass _ _ s

theorem firePending (e : Pending) (z : Int) (s : State) : R s (firePending e z s) := by
  unfold Machine.firePending
  split
  · exact E.judgeOn _ _ _ _ s
  · exact E.judgeOff _ _ _ _ s
  · exact E.openMeasurement _ _ _ s
  · exact E.endMeasurement _ _ s
  · exact E.sampleMeasurement _ _ _ s
  · exact E.gateAt _ _ s
  · exact E.toPulse.deliverAt _ s
  · exact E.setDeliv _ s (by rfl)
  · exact E.setDeliv _ s (by rfl)

end RespectsEnds

end Sys2Proof.Changes
end

section
/-! SUPPORT. The taking of fired events. `takeEvent z e` is what any taking of the fired event `e` does, a commanded one or
the part's own; `Taken` is the same as the statements' FiredTaken. Settling takes events until none is left, since each
taking lowers the load: what the fired and scheduled events may still ask for (log entry 3). -/

namespace Sys2Proof.Taking

open Sys2Proof.Machine Sys2Proof.Ledger Sys2Proof.Steps Sys2Proof.Changes

-- One theorem after another, as in the tests: a thread each would ask for more stack than a check may take.
set_option Elab.async false

/-- The fired event `e` is taken, a sample with the reading `z`. -/
def takeEvent (z : Int) (e : DueEvent) (s : State) : State :=
  match e with
  | .recurring f => fireRecurring f.event f.pos { s with pos := { s.pos with due := s.pos.due.erase f } }
  | .scheduled p => firePending p z { s with pos := { s.pos with schedule := s.pos.schedule.erase p } }

/-- `s` with the free-value index at `n`. -/
def freeAt (n : Nat) (s : State) : State := { s with freeIndex := n }

/-- The command that takes a fired event. -/
def commandOf (z : Int) : DueEvent → Instr
  | .recurring f => firedCommand f.event
  | .scheduled p => dueCommand z p.event

/-- The state with a fired event first in its list. -/
def withFirst (s : State) : DueEvent → State
  | .recurring f => { s with pos := { s.pos with due := f :: s.pos.due.erase f } }
  | .scheduled p => { s with pos := { s.pos with schedule := p :: s.pos.schedule.erase p } }

variable {s t u v : State} {c : Instr} {e : DueEvent} {x : Pos} {P : State → Prop}

theorem takesKeep_takeEvent (K : TakesKeep P) (z : Int) (he : e ∈ dueEvents s) (h : P s) : P (takeEvent z e s) := by
  rcases mem_dueEvents.mp he with ⟨f, hf, rfl⟩ | ⟨p, hp, hdue, rfl⟩
  · exact K.recurring f s hf h
  · exact K.scheduled p z s hp hdue h

/-! ## Events that have fired -/

theorem hasFired_iff : HasFired s c x u ↔
    ∃ e z, e ∈ dueEvents s ∧ duePos e = x ∧ c = commandOf z e ∧ u = withFirst s e := by
  constructor
  · rintro (⟨f, hf, rfl, rfl, rfl⟩ | ⟨p, z, hp, hdue, rfl, rfl, rfl⟩)
    · exact ⟨.recurring f, 0, mem_dueEvents.mpr (.inl ⟨f, hf, rfl⟩), rfl, rfl, rfl⟩
    · exact ⟨.scheduled p, z, mem_dueEvents.mpr (.inr ⟨p, hp, by simpa [isDue] using hdue, rfl⟩), rfl, rfl, rfl⟩
  · rintro ⟨e, z, he, rfl, rfl, rfl⟩
    rcases mem_dueEvents.mp he with ⟨f, hf, rfl⟩ | ⟨p, hp, hdue, rfl⟩
    · exact .inl ⟨f, hf, rfl, rfl, rfl⟩
    · exact .inr ⟨p, z, hp, by simpa [isDue] using hdue, rfl, rfl, rfl⟩

theorem no_hasFired_iff : (∀ c x u, ¬ HasFired s c x u) ↔ dueEvents s = [] := by
  simp only [hasFired_iff, List.eq_nil_iff_forall_not_mem]
  exact ⟨fun h e he => h _ _ _ ⟨e, 0, he, rfl, rfl, rfl⟩, fun h c x u ⟨e, z, he, _⟩ => h e he⟩

theorem mem_earliestDue :
    e ∈ earliestDue s ↔ e ∈ dueEvents s ∧ ∀ d ∈ dueEvents s, posDist s.pos.hwm (duePos e) ≤ posDist s.pos.hwm (duePos d) := by
  simp [earliestDue]

theorem firedFirst_iff : FiredFirst s c u ↔ ∃ e z, e ∈ earliestDue s ∧ c = commandOf z e ∧ u = withFirst s e := by
  constructor
  · rintro ⟨x, hfired, hleast⟩
    obtain ⟨e, z, he, rfl, rfl, rfl⟩ := hasFired_iff.mp hfired
    refine ⟨e, z, mem_earliestDue.mpr ⟨he, fun d hd => ?_⟩, rfl, rfl⟩
    exact hleast _ _ _ (hasFired_iff.mpr ⟨d, 0, hd, rfl, rfl, rfl⟩)
  · rintro ⟨e, z, he, rfl, rfl⟩
    obtain ⟨hmem, hleast⟩ := mem_earliestDue.mp he
    refine ⟨duePos e, hasFired_iff.mpr ⟨e, z, hmem, rfl, rfl, rfl⟩, fun d y w hw => ?_⟩
    obtain ⟨g, _, hg, rfl, _⟩ := hasFired_iff.mp hw
    exact hleast g hg

/-- Among the events that have fired one is of the earliest position. -/
theorem earliestDue_ne_nil (h : dueEvents s ≠ []) : earliestDue s ≠ [] := by
  obtain ⟨m, hm⟩ := Option.ne_none_iff_exists'.mp
    (mt List.argmin_eq_none.mp h : List.argmin (fun d => posDist s.pos.hwm (duePos d)) (dueEvents s) ≠ none)
  exact List.ne_nil_of_mem (mem_earliestDue.mpr ⟨List.argmin_mem hm, fun d hd =>
    List.le_of_mem_argmin (f := fun d => posDist s.pos.hwm (duePos d)) hd hm⟩)

theorem chooseDue_eq_none : chooseDue s = none ↔ dueEvents s = [] := by
  constructor
  · intro h
    by_contra hne
    have hn := earliestDue_ne_nil hne
    unfold chooseDue at h
    split at h
    · next he => exact hn he
    · cases h
    · cases h
  · intro h
    have he : earliestDue s = [] := by simp [earliestDue, h]
    unfold chooseDue
    rw [he]

/-! ## One taking -/

/-- The command of a fired event, put first, takes it. -/
theorem exec_commandOf (z : Int) (he : e ∈ dueEvents s) (hfree : s.resetHeld = false) :
    exec (commandOf z e) (withFirst s e) = .next (takeEvent z e s) := by
  rcases mem_dueEvents.mp he with ⟨f, hf, rfl⟩ | ⟨p, hp, hdue, rfl⟩
  · refine (exec_firedCommand f.event _).trans (congrArg _ ((event_free (s := withFirst s (.recurring f)) hfree _).trans ?_))
    simp [takeCommanded, takeFired, withFirst, takeEvent]
  · refine (exec_dueCommand z p.event _).trans (congrArg _ ((event_free (s := withFirst s (.scheduled p)) hfree _).trans ?_))
    simp [takeCommandedDue, takeScheduled, withFirst, takeEvent, hdue]

/-- One fired event of the earliest position is taken, with at most two free values spent. -/
def Taken (s t : State) : Prop :=
  ∃ e z n, e ∈ earliestDue s ∧ s.freeIndex ≤ n ∧ n ≤ s.freeIndex + 2 ∧ t = takeEvent z e (freeAt n s)

theorem firedTaken_iff (hfree : s.resetHeld = false) : FiredTaken s t ↔ Taken s t := by
  have hexec (e : DueEvent) (he : e ∈ earliestDue s) (z : Int) (n : Nat) :
      exec (commandOf z e) { withFirst s e with freeIndex := n } = .next (takeEvent z e (freeAt n s)) := by
    have hw : { withFirst s e with freeIndex := n } = withFirst (freeAt n s) e := by cases e <;> rfl
    rw [hw]
    exact exec_commandOf z (s := freeAt n s) (mem_dueEvents_of_earliest he) hfree
  constructor
  · rintro ⟨c, u, n, hfirst, hlow, hhigh, hnext⟩
    obtain ⟨e, z, he, rfl, rfl⟩ := firedFirst_iff.mp hfirst
    rw [hexec e he z n] at hnext
    cases hnext
    exact ⟨e, z, n, he, hlow, hhigh, rfl⟩
  · rintro ⟨e, z, n, he, hlow, hhigh, rfl⟩
    exact ⟨_, _, n, firedFirst_iff.mpr ⟨e, z, he, rfl, rfl⟩, hlow, hhigh, hexec e he z n⟩

/-- The part's own taking is one of these. -/
theorem taken_takeDue (hc : chooseDue s = some (e, v)) : Taken s (takeDue e v) := by
  obtain ⟨he, hv⟩ := chooseDue_some hc
  obtain ⟨m, hm, hlow, hhigh⟩ : ∃ m, v = freeAt m s ∧ s.freeIndex ≤ m ∧ m ≤ s.freeIndex + 1 := by
    rcases hv with rfl | rfl
    · exact ⟨v.freeIndex, rfl, Nat.le_refl _, Nat.le_succ _⟩
    · exact ⟨s.freeIndex + 1, rfl, Nat.le_succ _, Nat.le_refl _⟩
  subst hm
  cases e with
  | recurring f => exact ⟨_, 0, m, he, hlow, by omega, rfl⟩
  | scheduled p =>
    unfold takeDue
    simp only
    split
    · exact ⟨_, _, m + 1, he, by omega, by omega, rfl⟩
    · exact ⟨_, 0, m, he, hlow, by omega, rfl⟩

theorem taken_resetHeld (h : Taken s t) : t.resetHeld = s.resetHeld := by
  obtain ⟨e, z, n, _, _, _, rfl⟩ := h
  cases e with
  | recurring f => exact (fireRecurring_touches _ _ _).resetHeld
  | scheduled p => exact (firePending_touches _ _ _).resetHeld

/-- What one taking keeps, settling keeps. -/
theorem drainDue_induction {Q : State → Prop} (hstep : ∀ s t, Taken s t → Q s → Q t) :
    ∀ (n : Nat) (s : State), Q s → Q (drainDue n s)
  | 0, _, h => h
  | n + 1, s, h => by
    unfold drainDue
    split
    · exact h
    · next hc => exact drainDue_induction hstep n _ (hstep _ _ (taken_takeDue hc) h)

theorem drainDue_takes (n : Nat) (s : State) : Relation.ReflTransGen Taken s (drainDue n s) :=
  drainDue_induction (fun _ _ h k => k.tail h) n s .refl

theorem firedTaken_of_taken (hfree : s.resetHeld = false) (h : Relation.ReflTransGen Taken s t) :
    Relation.ReflTransGen FiredTaken s t ∧ t.resetHeld = false := by
  induction h with
  | refl => exact ⟨.refl, hfree⟩
  | tail _ hbc ih => exact ⟨ih.1.tail ((firedTaken_iff ih.2).mpr hbc), (taken_resetHeld hbc).trans ih.2⟩

theorem taken_of_firedTaken (hfree : s.resetHeld = false) (h : Relation.ReflTransGen FiredTaken s t) :
    Relation.ReflTransGen Taken s t ∧ t.resetHeld = false := by
  induction h with
  | refl => exact ⟨.refl, hfree⟩
  | tail _ hbc ih =>
    have hbc' := (firedTaken_iff ih.2).mp hbc
    exact ⟨ih.1.tail hbc', (taken_resetHeld hbc').trans ih.2⟩

theorem settle_of_nil (h : dueEvents s = []) : settle s = s := by
  unfold settle
  cases drainBound s with
  | zero => rfl
  | succ n => unfold drainDue; rw [chooseDue_eq_none.mpr h]

/-! ## The load -/

/-- What a scheduled event may ask for, itself among it: an end asks for nothing, another event for one end at most. -/
def weight (e : Scheduled) : Nat := if isEnd e then 1 else 2

/-- The weight of a schedule. -/
def weigh (es : List Pending) : Nat := (es.map (fun e => weight e.event)).sum

/-- What the fired and scheduled events of a state may still ask for. -/
def load (s : State) : Nat := (1 + 2 * blankEvents s) * s.pos.due.length + weigh s.pos.schedule

theorem weight_pos (e : Scheduled) : 1 ≤ weight e := by unfold weight; split <;> omega

theorem weight_le (e : Scheduled) : weight e ≤ 2 := by unfold weight; split <;> omega

@[simp] theorem weigh_cons (e : Pending) (es : List Pending) : weigh (e :: es) = weight e.event + weigh es := rfl

theorem weigh_append (xs ys : List Pending) : weigh (xs ++ ys) = weigh xs + weigh ys := by simp [weigh]

theorem weigh_le_of_sublist {xs ys : List Pending} (h : xs.Sublist ys) : weigh xs ≤ weigh ys :=
  (h.map _).sum_le_sum (fun _ _ => Nat.zero_le _)

theorem weigh_erase {p : Pending} {es : List Pending} (h : p ∈ es) :
    weigh (es.erase p) + weight p.event = weigh es := by
  have hp := ((List.perm_cons_erase h).map (fun e : Pending => weight e.event)).sum_eq
  simp only [List.map_cons, List.sum_cons] at hp
  unfold weigh
  omega

theorem weigh_le (es : List Pending) : weigh es ≤ 2 * es.length := by
  induction es with
  | nil => exact Nat.le_refl _
  | cons e es ih =>
    have := weight_le e.event
    simp only [weigh, List.map_cons, List.sum_cons, List.length_cons] at *
    omega

theorem load_le_drainBound (s : State) : load s ≤ drainBound s := by
  have := weigh_le s.pos.schedule
  unfold load drainBound
  omega

/-- From `s` to `t` no event is asked for but the weight `k` of ends, and recipes stay. -/
structure Lightens (k : Nat) (s t : State) : Prop where
  due : t.pos.due.length ≤ s.pos.due.length
  weigh : weigh t.pos.schedule ≤ weigh s.pos.schedule + k
  blanks : blankEvents t = blankEvents s

theorem Lightens.trans {k l : Nat} (h : Lightens k s t) (g : Lightens l t u) : Lightens (k + l) s u :=
  ⟨g.due.trans h.due, by have := h.weigh; have := g.weigh; omega, g.blanks.trans h.blanks⟩

theorem lightens_of_eq (hpos : t.pos = s.pos) (hstore : t.store = s.store) : Lightens 0 s t :=
  ⟨by rw [hpos], by rw [hpos]; exact Nat.le_refl _, by unfold blankEvents; rw [hstore]⟩

theorem lightens_of_touches {fs : List StateField} (h : Touches fs s t) (kp : .pos ∉ fs := by decide)
    (ks : .store ∉ fs := by decide) : Lightens 0 s t := lightens_of_eq (h.pos kp) (h.store ks)

theorem lightens_of_sublist {es : List Pending} (h : es.Sublist s.pos.schedule) :
    Lightens 0 s { s with pos := { s.pos with schedule := es } } :=
  ⟨Nat.le_refl _, weigh_le_of_sublist h, rfl⟩

theorem toList_put {α : Type} {n : Nat} (w : Vector α n) (i : Fin n) (a : α) :
    (put w i a).toList = w.toList.set i.val a := by
  simp [put, Vector.toList_set]

/-- The recipes alone say what a blank may ask for. -/
theorem blankEvents_modifySlot (k : Fin 8) (f : Slot → Slot) (s : State) (h : ∀ x, (f x).recipe = x.recipe) :
    blankEvents (modifySlot k f s) = blankEvents s := by
  have hmap : (modifySlot k f s).store.slots.toList.map Slot.recipe = s.store.slots.toList.map Slot.recipe := by
    rw [modifySlot_store, toList_put, List.map_set, h]
    apply List.ext_getElem (by simp)
    intro i _ _
    rw [List.getElem_set]
    split
    · next hi => subst hi; simp [getAt, Vector.get_eq_getElem]
    · rfl
  have hof (w : State) : blankEvents w
      = 18 + ((w.store.slots.toList.map Slot.recipe).map
          (fun r => (r.cams.map (fun e => (dotNumbers e).length)).sum)).sum := by
    unfold blankEvents; rw [List.map_map]; rfl
  rw [hof, hof, hmap]

theorem respectsPlain_lightens : RespectsPlain (Lightens 0) where
  refl s := lightens_of_eq rfl rfl
  trans h g := h.trans g
  offer n s := lightens_of_touches (offer_touches n s)
  count c s := lightens_of_touches (count_touches c s)
  withdraw p s := lightens_of_sublist List.filter_sublist
  unschedule e s := lightens_of_sublist List.erase_sublist
  switchTo src s := by
    unfold switchTo
    simp only
    split
    · exact lightens_of_eq rfl rfl
    · exact ⟨List.length_filter_le _ _, Nat.le_refl _, rfl⟩
  armWindow p s := lightens_of_touches (armWindow_touches p s)
  closeWindow s := lightens_of_touches (closeWindow_touches s)
  amendRecord q f s _ := lightens_of_touches (amendRecord_touches q f s)
  modifyChannel k f s _ := lightens_of_touches (modifyChannel_touches k f s)
  setBlanks b s := lightens_of_eq rfl rfl
  modifyInsp j f s _ := lightens_of_touches (modifyInsp_touches j f s)
  mapOrders f s _ := lightens_of_eq rfl rfl
  setFeed f c s := lightens_of_eq rfl rfl
  setFeedGate b s := lightens_of_eq rfl rfl
  removeOrder t s := lightens_of_eq rfl rfl
  refDown k s := ⟨Nat.le_refl _, Nat.le_refl _, blankEvents_modifySlot k _ s (fun _ => rfl)⟩
  setDeliv d s _ := lightens_of_eq rfl rfl
  logBox b why s := lightens_of_eq rfl rfl
  report f s := lightens_of_touches (report_touches f s)

theorem respects_lightens : Respects (Lightens 0) :=
  respectsPlain_lightens.respects (fun q s => lightens_of_eq rfl rfl)
    (fun s => lightens_of_touches (drainTest_touches s))

theorem lightens_schedule (e : Pending) (s : State) (h : isEnd e.event = true) : Lightens 1 s (schedule e s) :=
  ⟨Nat.le_refl _, by simp [schedule, weigh, weight, h], rfl⟩

/-! ## The separator's pulse -/

theorem isEnd_of_separatorEnd {e : Scheduled} (h : e = .separatorEnd) : isEnd e = true := by subst h; rfl

/-- The events of a schedule but the separator pulse ends. -/
def unpulsed (es : List Pending) : List Pending := es.filter (fun e => e.event != .separatorEnd)

theorem weigh_eq_unpulsed (es : List Pending) :
    weigh es = weigh (unpulsed es) + es.countP (fun e => e.event == .separatorEnd) := by
  induction es with
  | nil => rfl
  | cons e es ih =>
    by_cases h : e.event = .separatorEnd
    · have hw : weight e.event = 1 := by rw [h]; rfl
      have hu : unpulsed (e :: es) = unpulsed es := by simp [unpulsed, h]
      rw [weigh_cons, hu, List.countP_cons_of_pos (by simp [h]), hw]
      omega
    · have hu : unpulsed (e :: es) = e :: unpulsed es := by simp [unpulsed, h]
      rw [weigh_cons, hu, List.countP_cons_of_neg (by simp [h]), weigh_cons]
      omega

/-- From `s` to `t` no event is asked for but the end of the separator's pulse, which stands once then; recipes stay. -/
structure Pulses (s t : State) : Prop where
  due : t.pos.due.length ≤ s.pos.due.length
  others : weigh (unpulsed t.pos.schedule) ≤ weigh (unpulsed s.pos.schedule)
  pulses : t.pos.schedule.countP (fun e => e.event == .separatorEnd)
    ≤ max 1 (s.pos.schedule.countP (fun e => e.event == .separatorEnd))
  blanks : blankEvents t = blankEvents s

theorem Pulses.lightens (h : Pulses s t) : Lightens 1 s t := by
  refine ⟨h.due, ?_, h.blanks⟩
  have := weigh_eq_unpulsed s.pos.schedule
  have := weigh_eq_unpulsed t.pos.schedule
  have := h.others
  have := h.pulses
  omega

theorem Pulses.trans (h : Pulses s t) (g : Pulses t u) : Pulses s u :=
  ⟨g.due.trans h.due, g.others.trans h.others, by have := h.pulses; have := g.pulses; omega, g.blanks.trans h.blanks⟩

theorem pulses_of_sublist (hd : t.pos.due.length ≤ s.pos.due.length) (he : t.pos.schedule.Sublist s.pos.schedule)
    (hb : blankEvents t = blankEvents s) : Pulses s t :=
  ⟨hd, weigh_le_of_sublist (he.filter _), by have := he.countP_le (p := fun e => e.event == .separatorEnd); omega, hb⟩

theorem pulses_of_eq (hpos : t.pos = s.pos) (hstore : t.store = s.store) : Pulses s t :=
  pulses_of_sublist (by rw [hpos]) (by rw [hpos]) (by unfold blankEvents; rw [hstore])

theorem pulses_of_touches {fs : List StateField} (h : Touches fs s t) (kp : .pos ∉ fs := by decide)
    (ks : .store ∉ fs := by decide) : Pulses s t := pulses_of_eq (h.pos kp) (h.store ks)

theorem respectsPlain_pulses : RespectsPlain Pulses where
  refl s := pulses_of_eq rfl rfl
  trans h g := h.trans g
  offer n s := pulses_of_touches (offer_touches n s)
  count c s := pulses_of_touches (count_touches c s)
  withdraw p s := pulses_of_sublist (Nat.le_refl _) List.filter_sublist rfl
  unschedule e s := pulses_of_sublist (Nat.le_refl _) List.erase_sublist rfl
  switchTo src s := by
    unfold switchTo
    simp only
    split
    · exact pulses_of_eq rfl rfl
    · exact pulses_of_sublist (List.length_filter_le _ _) (List.Sublist.refl _) rfl
  armWindow p s := pulses_of_touches (armWindow_touches p s)
  closeWindow s := pulses_of_touches (closeWindow_touches s)
  amendRecord q f s _ := pulses_of_touches (amendRecord_touches q f s)
  modifyChannel k f s _ := pulses_of_touches (modifyChannel_touches k f s)
  setBlanks b s := pulses_of_eq rfl rfl
  modifyInsp j f s _ := pulses_of_touches (modifyInsp_touches j f s)
  mapOrders f s _ := pulses_of_eq rfl rfl
  setFeed f c s := pulses_of_eq rfl rfl
  setFeedGate b s := pulses_of_eq rfl rfl
  removeOrder t s := pulses_of_eq rfl rfl
  refDown k s := pulses_of_sublist (Nat.le_refl _) (List.Sublist.refl _) (blankEvents_modifySlot k _ s (fun _ => rfl))
  setDeliv d s _ := pulses_of_eq rfl rfl
  logBox b why s := pulses_of_eq rfl rfl
  report f s := pulses_of_touches (report_touches f s)

theorem respectsPulse_pulses : RespectsPulse Pulses where
  toRespects := respectsPlain_pulses.respects (fun q s => pulses_of_eq rfl rfl)
    (fun s => pulses_of_touches (drainTest_touches s))
  startSeparator s := by
    refine ⟨Nat.le_refl _, ?_, ?_, rfl⟩
    · have hcut : unpulsed (startSeparator s).pos.schedule = unpulsed s.pos.schedule := by
        simp [startSeparator, schedule, withdraw, unpulsed, plainEvent, List.filter_filter, bne]
      rw [hcut]
    · simp [startSeparator, schedule, withdraw, plainEvent, List.countP_filter]

/-! ## What a taking adds to the load -/

/-- An on event asks for one off event at most (05 R81). -/
theorem judgeOn_lightens (q : U32) (k : Fin 12) (i dot : Nat) (s : State) : Lightens 1 s (judgeOn q k i dot s) := by
  have E := respects_lightens
  have hkeep {v : State} (h : Lightens 0 s v) : Lightens 1 s v := ⟨h.due, by have := h.weigh; omega, h.blanks⟩
  unfold judgeOn
  split
  · exact hkeep (E.refl s)
  · split
    · exact hkeep (E.refl s)
    · split
      · exact hkeep (E.refl s)
      · split
        · exact hkeep (E.suppress q k s)
        · split
          · exact hkeep (E.trans (E.suppress q k s) (E.countGum q _))
          · exact (E.trans (E.trans (E.displace _ k s) (E.modifyChannel k _ _ (by intro _; exact ⟨rfl, rfl⟩)))
              (E.amendRecord _ _ _ (grown_addApplied k))).trans (lightens_schedule _ _ rfl)

/-- A gate event asks for the end of the reject gate at most (08 R138). -/
theorem gateAt_lightens (q : U32) (x : Pos) (s : State) : Lightens 1 s (gateAt q x s) := by
  have E := respects_lightens
  have hkeep {v : State} (h : Lightens 0 s v) : Lightens 1 s v := ⟨h.due, by have := h.weigh; omega, h.blanks⟩
  unfold gateAt
  split
  · exact hkeep (E.refl s)
  · split
    · exact hkeep (E.refl s)
    · split
      · exact (E.rejected _ _ s).trans (lightens_schedule _ _ rfl)
      · exact hkeep (E.gatePass _ _ s)

/-- A scheduled event asks for less than it weighs. -/
theorem firePending_lightens (p : Pending) (z : Int) (s : State) :
    Lightens (weight p.event - 1) s (firePending p z s) := by
  have E := respects_lightens
  have hkeep {v : State} (h : Lightens 0 s v) : Lightens (weight p.event - 1) s v :=
    ⟨h.due, by have := h.weigh; omega, h.blanks⟩
  unfold firePending
  split
  · next he => rw [he]; exact judgeOn_lightens _ _ _ _ s
  · exact hkeep (E.judgeOff _ _ _ _ s)
  · exact hkeep (E.openMeasurement _ _ _ s)
  · exact hkeep (E.endMeasurement _ _ s)
  · exact hkeep (E.sampleMeasurement _ _ _ s)
  · next he => rw [he]; exact gateAt_lightens _ _ s
  · next he => rw [he]; exact (respectsPulse_pulses.deliverAt _ s).lightens
  · exact hkeep (E.setDeliv _ s (by rfl))
  · exact hkeep (E.setDeliv _ s (by rfl))

/-! ## What a feed event adds -/

theorem length_onEvents (s : State) (r : Record) :
    (onEvents s r).length = ((recipeOf s r.slot).cams.map (fun e => (dotNumbers e).length)).sum := by
  have h (cams : List CamEntry) : ∀ i, ((indexed i cams).map (fun ie => (dotNumbers ie.2).length)).sum
      = (cams.map (fun e => (dotNumbers e).length)).sum := by
    induction cams with
    | nil => intro _; rfl
    | cons e es ih => intro i; simp [indexed, ih]
  simp [onEvents, List.length_flatMap, h]

theorem length_inspEvents (s : State) (r : Record) (j : Fin 8) : (inspEvents s r j).length ≤ 2 := by
  unfold inspEvents
  simp only
  split
  · split <;> simp
  · simp

theorem length_allInspEvents (s : State) (r : Record) : (allInsps.flatMap (inspEvents s r)).length ≤ 16 := by
  rw [List.length_flatMap]
  have h := List.sum_le_card_nsmul (allInsps.map (fun j => (inspEvents s r j).length)) 2 (by
    intro n hn
    obtain ⟨j, _, rfl⟩ := List.mem_map.mp hn
    exact length_inspEvents s r j)
  simpa [allInsps] using h

/-- The events that an announced blank asks for. -/
theorem length_announced (s : State) (r : Record) :
    (onEvents s r).length + (allInsps.flatMap (inspEvents s r)).length + 2 ≤ blankEvents s := by
  have hon : (onEvents s r).length ≤ (s.store.slots.toList.map
      (fun x => (x.recipe.cams.map (fun e => (dotNumbers e).length)).sum)).sum := by
    rw [length_onEvents]
    refine List.single_le_sum (fun _ _ => Nat.zero_le _) _ (List.mem_map.mpr ⟨slotOf s r.slot, ?_, rfl⟩)
    simp [slotOf, getAt, Vector.get_eq_getElem]
  have := length_allInspEvents s r
  unfold blankEvents
  omega

/-- An accepted blank adds at most twice what a blank may ask for. -/
theorem acceptBlank_lightens (p : U32) (o : Order) (s : State) :
    Lightens (2 * blankEvents s) s (acceptBlank p o s) := by
  obtain ⟨r, hr⟩ : ∃ r, r = newRecord s p o := ⟨_, rfl⟩
  obtain ⟨v, hv⟩ : ∃ v, v = createRecord r s := ⟨_, rfl⟩
  have hb : blankEvents v = blankEvents s := by
    rw [hv]
    exact blankEvents_modifySlot r.slot (fun x => { x with refs := x.refs + 1 }) _ (fun _ => rfl)
  have hpos : v.pos = s.pos := by rw [hv]; rfl
  have hsched : (acceptBlank p o s).pos.schedule = v.pos.schedule ++ (onEvents v r ++
      (allInsps.flatMap (inspEvents v r) ++ [plainEvent (gatePos v r.cutPitch) (.gate r.seq),
        plainEvent (deliveryPos v r.cutPitch) (.delivery r.seq)])) := by
    rw [hv, hr, ← List.append_assoc, ← List.append_assoc]
    rfl
  refine ⟨?_, ?_, ?_⟩
  · rw [← hpos, hv, hr]
    exact Nat.le_refl _
  · rw [hsched, hpos, weigh_append]
    have := weigh_le (onEvents v r ++ (allInsps.flatMap (inspEvents v r) ++
      [plainEvent (gatePos v r.cutPitch) (.gate r.seq), plainEvent (deliveryPos v r.cutPitch) (.delivery r.seq)]))
    have := length_announced v r
    simp only [List.length_append, List.length_cons, List.length_nil] at *
    omega
  · rw [← hb, hv, hr]
    rfl

theorem feedAt_lightens (p : U32) (s : State) : Lightens (2 * blankEvents s) s (feedAt p s) := by
  have h := respects_lightens.feedDecision s
  unfold feedAt
  simp only
  split
  · next o _ =>
    have k := h.trans (acceptBlank_lightens p o _)
    rw [h.blanks, Nat.zero_add] at k
    exact k
  · have k := h.trans (respects_lightens.divertBlank _)
    exact ⟨k.due, by have := k.weigh; omega, k.blanks⟩

theorem fireRecurring_lightens (e : Recurring) (x : Pos) (s : State) :
    Lightens (2 * blankEvents s) s (fireRecurring e x s) := by
  by_cases h : e = .feed
  · subst h
    exact feedAt_lightens _ s
  · have k := respects_lightens.fireRecurring h x s
    exact ⟨k.due, by have := k.weigh; omega, k.blanks⟩

/-- Each taking lowers the load. -/
theorem load_takeEvent (z : Int) (he : e ∈ dueEvents s) : load (takeEvent z e s) < load s := by
  rcases mem_dueEvents.mp he with ⟨f, hf, rfl⟩ | ⟨p, hp, _, rfl⟩
  · have h := fireRecurring_lightens f.event f.pos { s with pos := { s.pos with due := s.pos.due.erase f } }
    have hlen : (s.pos.due.erase f).length + 1 = s.pos.due.length := by
      have := List.length_pos_of_mem hf
      rw [List.length_erase_of_mem hf]
      omega
    have hdue : (takeEvent z (.recurring f) s).pos.due.length ≤ (s.pos.due.erase f).length := h.due
    have hw : weigh (takeEvent z (.recurring f) s).pos.schedule ≤ weigh s.pos.schedule + 2 * blankEvents s := h.weigh
    have hb : blankEvents (takeEvent z (.recurring f) s) = blankEvents s := h.blanks
    have hmul := Nat.mul_le_mul_left (1 + 2 * blankEvents s) hdue
    have hsplit : (1 + 2 * blankEvents s) * s.pos.due.length
        = (1 + 2 * blankEvents s) * (s.pos.due.erase f).length + (1 + 2 * blankEvents s) := by
      rw [← hlen, Nat.mul_succ]
    unfold load
    rw [hb]
    omega
  · have h := firePending_lightens p z { s with pos := { s.pos with schedule := s.pos.schedule.erase p } }
    have hdue : (takeEvent z (.scheduled p) s).pos.due.length ≤ s.pos.due.length := h.due
    have hw : weigh (takeEvent z (.scheduled p) s).pos.schedule
      ≤ weigh (s.pos.schedule.erase p) + (weight p.event - 1) := h.weigh
    have hb : blankEvents (takeEvent z (.scheduled p) s) = blankEvents s := h.blanks
    have := weigh_erase hp
    have := weight_pos p.event
    have hmul := Nat.mul_le_mul_left (1 + 2 * blankEvents s) hdue
    unfold load
    rw [hb]
    omega

theorem load_taken (h : Taken s t) : load t < load s := by
  obtain ⟨e, z, n, he, _, _, rfl⟩ := h
  exact load_takeEvent z (s := freeAt n s) (mem_dueEvents_of_earliest he)

theorem drainDue_empties : ∀ (n : Nat) (s : State), load s ≤ n → dueEvents (drainDue n s) = []
  | 0, s, h => by
    unfold drainDue
    by_contra hne
    obtain ⟨e, he⟩ := List.exists_mem_of_ne_nil _ hne
    have := load_takeEvent 0 he
    omega
  | n + 1, s, h => by
    unfold drainDue
    split
    · next hc => exact chooseDue_eq_none.mp hc
    · next hc =>
      have := load_taken (taken_takeDue hc)
      exact drainDue_empties n _ (by omega)

/-- Settling leaves no event that has fired. -/
theorem dueEvents_settle (s : State) : dueEvents (settle s) = [] := drainDue_empties _ s (load_le_drainBound s)

theorem settle_takes (s : State) : Relation.ReflTransGen Taken s (settle s) := drainDue_takes _ s

end Sys2Proof.Taking
end

section
/-! SUPPORT. Events that have fired are taken until none is left: before a command that settles first, and at a hand-over of
V the application events alone, in the order of 05 R82. -/

namespace Sys2Proof.FiredEvents

open Sys2Proof.Machine Sys2Proof.Ledger Sys2Proof.Steps Sys2Proof.Changes Sys2Proof.Taking

-- One theorem after another, as in the tests: a thread each would ask for more stack than a check may take.
set_option Elab.async false

variable {s t : State} {hwm : Pos} {x y b m p : Pending}

/-! ## The order of R82 -/

/-- What R82 orders application events by: firing position, nominal position, channel number. -/
def rank (hwm : Pos) (e : Pending) : Int ×ₗ Int ×ₗ Nat :=
  toLex (posDist hwm e.pos, toLex (posDist hwm e.nominal, eventChannel e.event))

theorem firesBefore_iff : firesBefore hwm x y = true ↔ rank hwm x < rank hwm y := by
  simp [firesBefore, rank, Prod.Lex.toLex_lt_toLex]

/-- An application event not beyond the high-water mark. -/
def isDueApp (s : State) (e : Pending) : Bool := isAppEvent e.event && isDue s.pos.hwm e

/-- The event to take next so far, and one more. -/
def earlier (hwm : Pos) (acc : Option Pending) (e : Pending) : Option Pending :=
  match acc with
  | none => some e
  | some b => if firesBefore hwm e b then some e else some b

theorem foldl_earlier (hwm : Pos) : ∀ (l : List Pending) (b : Pending),
    ∃ m, l.foldl (earlier hwm) (some b) = some m ∧ m ∈ b :: l ∧ ∀ y ∈ b :: l, rank hwm m ≤ rank hwm y
  | [], b => ⟨b, rfl, List.mem_singleton_self b, by simp⟩
  | e :: l, b => by
    by_cases h : firesBefore hwm e b = true
    · obtain ⟨m, hm, hmem, hleast⟩ := foldl_earlier hwm l e
      refine ⟨m, by rw [← hm, List.foldl_cons]; simp only [earlier, h, if_true], List.mem_cons_of_mem b hmem, ?_⟩
      have hlt := firesBefore_iff.mp h
      intro y hy
      rcases List.mem_cons.mp hy with rfl | hy
      · exact (hleast e List.mem_cons_self).trans hlt.le
      · exact hleast y hy
    · obtain ⟨m, hm, hmem, hleast⟩ := foldl_earlier hwm l b
      have hle : rank hwm b ≤ rank hwm e := not_lt.mp (fun k => h (firesBefore_iff.mpr k))
      refine ⟨m, by rw [← hm, List.foldl_cons]; simp [earlier, h], ?_, ?_⟩
      · rcases List.mem_cons.mp hmem with rfl | hmem
        · exact List.mem_cons_self
        · exact List.mem_cons_of_mem b (List.mem_cons_of_mem e hmem)
      · intro y hy
        rcases List.mem_cons.mp hy with rfl | hy
        · exact hleast y List.mem_cons_self
        · rcases List.mem_cons.mp hy with rfl | hy
          · exact (hleast b List.mem_cons_self).trans hle
          · exact hleast y (List.mem_cons_of_mem b hy)

theorem nextDueApp_eq (s : State) :
    nextDueApp s = (s.pos.schedule.filter (isDueApp s)).foldl (earlier s.pos.hwm) none := rfl

theorem nextDueApp_none : nextDueApp s = none ↔ ∀ e ∈ s.pos.schedule, isDueApp s e = false := by
  rw [nextDueApp_eq]
  cases hl : s.pos.schedule.filter (isDueApp s) with
  | nil => simpa using List.filter_eq_nil_iff.mp hl
  | cons b l =>
    obtain ⟨m, hm, _⟩ := foldl_earlier s.pos.hwm l b
    have hb : b ∈ s.pos.schedule ∧ isDueApp s b = true := List.mem_filter.mp (by rw [hl]; exact List.mem_cons_self)
    refine ⟨fun h => ?_, fun h => ?_⟩
    · rw [List.foldl_cons] at h
      exact absurd (hm.symm.trans h) (Option.some_ne_none m)
    · rw [h b hb.1] at hb
      exact absurd hb.2 Bool.false_ne_true

/-- The event taken next is the first of those due. -/
theorem nextDueApp_some (h : nextDueApp s = some p) : p ∈ s.pos.schedule ∧ isDueApp s p = true ∧
    ∀ y ∈ s.pos.schedule, isDueApp s y = true → rank s.pos.hwm p ≤ rank s.pos.hwm y := by
  rw [nextDueApp_eq] at h
  cases hl : s.pos.schedule.filter (isDueApp s) with
  | nil => rw [hl] at h; cases h
  | cons b l =>
    obtain ⟨m, hm, hmem, hleast⟩ := foldl_earlier s.pos.hwm l b
    rw [hl, List.foldl_cons] at h
    cases hm.symm.trans h
    rw [← hl] at hmem hleast
    obtain ⟨hmem, hdue⟩ := List.mem_filter.mp hmem
    exact ⟨hmem, hdue, fun y hy hd => hleast y (List.mem_filter.mpr ⟨hy, hd⟩)⟩

/-! ## The taking of application events -/

theorem judgeApp_eq (h : isAppEvent p.event = true) (s : State) : judgeApp p.event s = firePending p 0 s := by
  unfold judgeApp firePending
  cases he : p.event <;> first | rfl | (rw [he] at h; cases h)

theorem isDueApp_iff : isDueApp s p = true ↔ isAppEvent p.event = true ∧ posDist s.pos.hwm p.pos ≤ 0 := by
  simp [isDueApp, isDue]

theorem takeEvent_resetHeld (z : Int) (e : DueEvent) (s : State) : (takeEvent z e s).resetHeld = s.resetHeld := by
  cases e with
  | recurring f => exact (fireRecurring_touches _ _ _).resetHeld
  | scheduled p => exact (firePending_touches _ _ _).resetHeld

/-- The part's taking of the next application event is one of the order of R82. -/
theorem appTaken_takeEvent (h : nextDueApp s = some p) (hfree : s.resetHeld = false) :
    AppTaken s (takeEvent 0 (.scheduled p) s) := by
  obtain ⟨hmem, hdue, hleast⟩ := nextDueApp_some h
  obtain ⟨happ, hpos⟩ := isDueApp_iff.mp hdue
  refine ⟨p, hmem, happ, hpos, fun y hy ha hp => ?_, exec_commandOf 0 (e := .scheduled p) ?_ hfree⟩
  · have hle := hleast y hy (isDueApp_iff.mpr ⟨ha, hp⟩)
    simpa [rank, Prod.Lex.toLex_le_toLex] using hle
  · exact mem_dueEvents.mpr (.inr ⟨p, hmem, by simpa [isDue] using hpos, rfl⟩)

theorem fireDueApps_succ (n : Nat) (h : nextDueApp s = some p) :
    fireDueApps (n + 1) s = fireDueApps n (takeEvent 0 (.scheduled p) s) := by
  have happ := (isDueApp_iff.mp (nextDueApp_some h).2.1).1
  rw [fireDueApps, h]
  simp only [judgeApp_eq happ]
  rfl

theorem fireDueApps_takes : ∀ (n : Nat) (s : State), s.resetHeld = false →
    Relation.ReflTransGen AppTaken s (fireDueApps n s)
  | 0, _, _ => .refl
  | n + 1, s, hfree => by
    cases h : nextDueApp s with
    | none => rw [fireDueApps, h]
    | some p =>
      rw [fireDueApps_succ n h]
      exact .head (appTaken_takeEvent h hfree) (fireDueApps_takes n _ ((takeEvent_resetHeld _ _ s).trans hfree))

/-- What scheduled application events may still ask for falls with each taking. -/
theorem weigh_takeEvent (h : nextDueApp s = some p) :
    weigh (takeEvent 0 (.scheduled p) s).pos.schedule < weigh s.pos.schedule := by
  have hl := (firePending_lightens p 0 { s with pos := { s.pos with schedule := s.pos.schedule.erase p } }).weigh
  have he := weigh_erase (nextDueApp_some h).1
  have := weight_pos p.event
  have hw : weigh (takeEvent 0 (.scheduled p) s).pos.schedule
    ≤ weigh (s.pos.schedule.erase p) + (weight p.event - 1) := hl
  omega

theorem fireDueApps_empties : ∀ (n : Nat) (s : State), weigh s.pos.schedule ≤ n → nextDueApp (fireDueApps n s) = none
  | 0, s, hn => by
    cases h : nextDueApp s with
    | none => exact h
    | some p => have := weigh_takeEvent h; omega
  | n + 1, s, hn => by
    cases h : nextDueApp s with
    | none => simp only [fireDueApps, h]
    | some p =>
      rw [fireDueApps_succ n h]
      have := weigh_takeEvent h
      exact fireDueApps_empties n _ (by omega)

theorem nextDueApp_takeFiredApps (s : State) : nextDueApp (takeFiredApps s) = none :=
  fireDueApps_empties _ s (weigh_le _)

theorem takeFiredApps_of_none (h : nextDueApp s = none) : takeFiredApps s = s := by
  unfold takeFiredApps
  cases 2 * s.pos.schedule.length with
  | zero => rfl
  | succ n => rw [fireDueApps, h]

/-- The high-water mark stays. -/
def SameMark (s t : State) : Prop := t.pos.hwm = s.pos.hwm

theorem sameMark_of_touches {fs : List StateField} (h : Touches fs s t) (k : .pos ∉ fs := by decide) : SameMark s t := by
  unfold SameMark; rw [h.pos k]

theorem respectsPlain_sameMark : RespectsPlain SameMark where
  refl _ := rfl
  trans h g := g.trans h
  offer n s := sameMark_of_touches (offer_touches n s)
  count c s := sameMark_of_touches (count_touches c s)
  withdraw _ _ := rfl
  unschedule _ _ := rfl
  switchTo src s := by unfold switchTo; simp only; split <;> rfl
  armWindow p s := sameMark_of_touches (armWindow_touches p s)
  closeWindow s := sameMark_of_touches (closeWindow_touches s)
  amendRecord q f s _ := sameMark_of_touches (amendRecord_touches q f s)
  modifyChannel k f s _ := sameMark_of_touches (modifyChannel_touches k f s)
  setBlanks _ _ := rfl
  modifyInsp j f s _ := sameMark_of_touches (modifyInsp_touches j f s)
  mapOrders _ _ _ := rfl
  setFeed _ _ _ := rfl
  setFeedGate _ _ := rfl
  removeOrder _ _ := rfl
  refDown k s := sameMark_of_touches (refDown_touches k s)
  setDeliv _ _ _ := rfl
  logBox _ _ _ := rfl
  report f s := sameMark_of_touches (report_touches f s)

theorem respectsEnds_sameMark : RespectsEnds SameMark where
  toRespects := respectsPlain_sameMark.respects (fun _ _ => rfl)
    (fun s => sameMark_of_touches (drainTest_touches s))
  schedule _ _ _ := rfl

theorem beyond_iff : isAppEvent p.event = true → (isDueApp s p = false ↔ 0 < posDist s.pos.hwm p.pos) := by
  intro h
  simp [isDueApp, isDue, h]

/-- Settles O52: each taking is the model's own taking of one fired event, and the load that bounds the takings falls with
each. -/
theorem firedEventsTaken : Obligations.FiredEventsTaken := by
  refine ⟨fun s hfree => ⟨?_, ?_, ?_⟩, fun s hfree => ⟨fireDueApps_takes _ s hfree, ?_, fun h => ?_⟩, fun q k i d => ⟨rfl, rfl⟩⟩
  · exact (firedTaken_of_taken hfree (settle_takes s)).1
  · exact no_hasFired_iff.mpr (dueEvents_settle s)
  · exact fun h => settle_of_nil (no_hasFired_iff.mp h)
  · intro e he happ
    have hnone := nextDueApp_none.mp (nextDueApp_takeFiredApps s) e he
    have hmark : (takeFiredApps s).pos.hwm = s.pos.hwm := respectsEnds_sameMark.takeFiredApps s
    rw [← hmark]
    exact (beyond_iff happ).mp hnone
  · refine takeFiredApps_of_none (nextDueApp_none.mpr fun e he => ?_)
    by_cases happ : isAppEvent e.event = true
    · exact (beyond_iff happ).mpr (h e he happ)
    · simp [isDueApp, happ]

end Sys2Proof.FiredEvents
end

section
/-! SUPPORT. A flood of fired feed events. The premise that keeps sequence numbers apart bounds the age of each record that
stands, and says nothing where the list is empty; then more feed events may wait than there are sequence numbers. Such a
state is a `plant`: one ACTIVE order, RUNNING, and feed events that wait while a phase pair equal to the reference arrives,
before which the part takes them all. What a plant keeps while its feed events are taken is said here once. -/

namespace Sys2Proof.Flood

open Sys2Proof.Machine Sys2Proof.Ledger Sys2Proof.Steps Sys2Proof.Changes Sys2Proof.Taking

-- One theorem after another, as in the tests: a thread each would ask for more stack than a check may take.
set_option Elab.async false

variable {b s t : State} {o : Order} {e : DueEvent}

/-- A RUNNING line in FEEDING whose orders `os` name slot 0, with a recipe without events, the recurring events `fs` fired up
to the mark `x`, and a phase pair equal to the reference about to arrive. -/
def plant (tab : MachineTable) (os : List Order) (x : Pos) (fs : List Fired) : State :=
  { State.reset with
    pos := { State.reset.pos with hwm := x, due := fs }
    store := { State.reset.store with inForce := tab, slots := put State.reset.store.slots 0 ⟨.usable, os.length, Recipe.initial⟩ }
    orders := { State.reset.orders with list := os, feedState := .feeding, nextId := 9 }
    line := ⟨.running, 0#6, .none⟩
    pending := [.encoderStep State.reset.pos.phases] }

/-- The plant while the part takes what has fired: its queue is the rest behind the encoder step. -/
def taken (b : State) : State := { b with pending := [] }

/-- The reference counts of a plant are right. -/
theorem refsHold_plant {tab : MachineTable} {os : List Order} {x : Pos} {fs : List Fired} (h : ∀ o ∈ os, o.slot = 0) :
    RefsHold (plant tab os x fs) := by
  have hslot (k : Fin 8) : slotOf (plant tab os x fs) k
      = if k = 0 then ⟨.usable, os.length, Recipe.initial⟩ else ⟨.empty, 0, Recipe.initial⟩ := by
    refine (getAt_put _ _ _ _).trans (if_congr Iff.rfl rfl ?_)
    exact getAt_replicate _ k
  refine ⟨fun k => ?_, fun k => ?_, fun _ h => nomatch h⟩
  · show _ = os.countP _ + 0
    rw [hslot]
    split
    · next hk => rw [List.countP_eq_length.mpr (fun o ho => by simp [h o ho, hk])]; rfl
    · next hk => rw [List.countP_eq_zero.mpr (fun o ho => by simp [h o ho, Ne.symm hk])]
  · rw [hslot]
    split
    · exact fun _ => rfl
    · exact fun hpos => absurd hpos (Nat.lt_irrefl 0)

/-- What the takings of a plant leave as it was. -/
structure Kin (b s : State) : Prop where
  list : s.orders.list = b.orders.list
  feedState : s.orders.feedState = b.orders.feedState
  forced : s.orders.forcedHold = b.orders.forcedHold
  countdown : s.orders.countdown = b.orders.countdown
  line : s.line = b.line
  reg : s.reg = b.reg
  table : s.store.inForce = b.store.inForce
  recipes : ∀ k, recipeOf s k = recipeOf b k
  waiting : s.deliv.waiting = b.deliv.waiting

/-- A plant whose ACTIVE order takes every blank while its need lasts. -/
structure Feeds (b : State) (o : Order) : Prop where
  active : activeOrder b = some o
  feeding : b.orders.feedState = .feeding
  running : b.line.run = .running
  holds : holdReasons b = 0#5
  bare : recipeOf b o.slot = Recipe.initial
  off : b.reg.state = .off
  countdown : b.orders.countdown = 0

theorem Kin.refl (s : State) : Kin s s := ⟨rfl, rfl, rfl, rfl, rfl, rfl, rfl, fun _ => rfl, rfl⟩

theorem Kin.trans {u : State} (h : Kin b s) (g : Kin s u) : Kin b u :=
  ⟨g.list.trans h.list, g.feedState.trans h.feedState, g.forced.trans h.forced, g.countdown.trans h.countdown,
    g.line.trans h.line, g.reg.trans h.reg, g.table.trans h.table, fun k => (g.recipes k).trans (h.recipes k),
    g.waiting.trans h.waiting⟩

theorem Kin.activeOrder (h : Kin b s) : activeOrder s = activeOrder b := by unfold Machine.activeOrder; rw [h.list]

theorem Kin.nextOrder (h : Kin b s) : nextOrder s = nextOrder b := by unfold Machine.nextOrder; rw [h.list]

theorem Kin.findOrder (h : Kin b s) (tag : Nat) : findOrder s tag = findOrder b tag := by
  unfold Machine.findOrder; rw [h.list]

theorem Kin.targetOf (h : Kin b s) (o : Order) : targetOf s o = targetOf b o := by
  unfold Machine.targetOf isStartable formatClassOf
  simp only [h.activeOrder, h.nextOrder, h.recipes]

theorem Kin.holdReasons (h : Kin b s) : holdReasons s = holdReasons b := by
  have hgum : holdsGum s = holdsGum b := by
    unfold holdsGum hasFault needsGum
    simp only [h.activeOrder, h.recipes, h.table, h.line]
  have hout : holdsOutfeed s = holdsOutfeed b := by unfold holdsOutfeed; rw [h.table, h.waiting]
  unfold Machine.holdReasons
  rw [hgum, hout, h.forced, h.reg, h.line]

/-- No record is both committed and hopeful, so that the records in transit bound what an order has in hand. -/
theorem committedOf_add_hopefulOf_le (s : State) (tag : Nat) :
    committedOf s tag + hopefulOf s tag ≤ s.track.records.length := by
  unfold committedOf hopefulOf
  induction s.track.records with
  | nil => exact Nat.le_refl _
  | cons r rs ih =>
    simp only [List.countP_cons, List.length_cons]
    have hone : (if (r.tag == tag && r.stage == .committed) = true then 1 else 0)
      + (if (r.tag == tag && isHopeful s r) = true then 1 else 0) ≤ 1 := by
      cases hs : r.stage <;> simp [isHopeful, hs] <;> split <;> omega
    omega

theorem needOf_pos (h : o.delivered + s.track.records.length < targetOf s o) : 0 < needOf s o := by
  have := committedOf_add_hopefulOf_le s o.tag
  unfold needOf passedOf
  omega

theorem Feeds.congr (h : Kin b s) (F : Feeds b o) : Feeds s o :=
  ⟨h.activeOrder.trans F.active, h.feedState.trans F.feeding, (congrArg LineControl.run h.line).trans F.running,
    h.holdReasons.trans F.holds, (h.recipes _).trans F.bare, (congrArg RegisterUnit.state h.reg).trans F.off,
    h.countdown.trans F.countdown⟩

/-! ## A blank accepted -/

/-- The record of the next blank, cut at pitch `p`. -/
def blank (s : State) (p : U32) (o : Order) : Record :=
  ⟨s.track.nextSeq, p, o.tag, o.slot, .opened, none, none, 0#7, 0#12, 0#12, Vector.replicate 8 none⟩

/-- What the acceptance of a blank cut at pitch `p` makes of a plant. -/
structure Fed (p : U32) (o : Order) (s t : State) : Prop where
  kin : Kin s t
  track : t.track = ⟨s.track.records ++ [blank s p o], s.track.nextSeq + 1#32⟩
  pos : t.pos = { s.pos with schedule := s.pos.schedule
    ++ [gateEventAt s s.track.nextSeq p, deliveryEventAt s s.track.nextSeq p] }
  deliv : t.deliv = s.deliv
  insp : t.insp = s.insp

theorem newRecord_eq (F : Feeds b o) (h : Kin b s) (p : U32) : newRecord s p o = blank s p o := by
  have hoff : s.reg.state = .off := by rw [h.reg]; exact F.off
  have hcount : s.orders.countdown = 0 := h.countdown.trans F.countdown
  simp [newRecord, blank, verdictOf, errorOf, hoff, hcount]

theorem recipeOf_createRecord (r : Record) (s : State) (k : Fin 8) :
    recipeOf (createRecord r s) k = recipeOf s k := by
  unfold recipeOf
  simp only [createRecord, refUp, count_store, getAt_modifySlot]
  split <;> rfl

/-- A bare recipe asks for no on event and no measurement. -/
theorem announced_bare {v : State} {r : Record} (h : recipeOf v r.slot = Recipe.initial) :
    onEvents v r = [] ∧ allInsps.flatMap (inspEvents v r) = [] := by
  refine ⟨by rw [onEvents, h]; rfl, List.flatMap_eq_nil_iff.mpr fun j _ => ?_⟩
  have hset : (settingOf v r j).enabled = false := by
    rw [settingOf, h, Recipe.initial, getAt_replicate]
  simp [inspEvents, hset]

theorem fed_acceptBlank (F : Feeds b o) (h : Kin b s) (p : U32) : Fed p o s (acceptBlank p o s) := by
  obtain ⟨r, hr⟩ : ∃ r, r = newRecord s p o := ⟨_, rfl⟩
  have hbare : recipeOf (createRecord r s) r.slot = Recipe.initial := by
    rw [recipeOf_createRecord, hr]
    exact (h.recipes o.slot).trans F.bare
  obtain ⟨hon, _⟩ := announced_bare hbare
  have hinsp : allInsps.flatMap (inspEvents (announceApp r (createRecord r s)) r) = [] := (announced_bare hbare).2
  have hacc : acceptBlank p o s = setFeedGate false (countdownStep (announce r (createRecord r s))) := by rw [hr]; rfl
  rw [hacc]
  refine ⟨⟨rfl, rfl, rfl, ?_, rfl, rfl, rfl, recipeOf_createRecord r s, rfl⟩, ?_, ?_, rfl, rfl⟩
  · show s.orders.countdown - 1 = s.orders.countdown
    rw [h.countdown, F.countdown]
  · rw [← newRecord_eq F h p, ← hr]
    rfl
  · show ({ s.pos with schedule := ((s.pos.schedule ++ onEvents (createRecord r s) r)
      ++ allInsps.flatMap (inspEvents (announceApp r (createRecord r s)) r)) ++ _ } : PositionUnit) = _
    rw [hon, hinsp, List.append_nil, List.append_nil, hr]
    rfl

/-- A feed event of a plant whose need lasts makes its record. -/
theorem fed_feedAt (F : Feeds b o) (h : Kin b s) (p : U32)
    (hneed : o.delivered + s.track.records.length < targetOf b o) : Fed p o s (feedAt p s) := by
  obtain ⟨v, hv⟩ : ∃ v, v = count .cutTotal s := ⟨_, rfl⟩
  have hkin : Kin b v := by rw [hv]; exact ⟨h.list, h.feedState, h.forced, h.countdown, h.line, h.reg, h.table, h.recipes, h.waiting⟩
  have htrack : v.track = s.track := by rw [hv]; rfl
  have hpos : 0 < needOf v o := needOf_pos (by rw [htrack, hkin.targetOf]; exact hneed)
  have hstay : handOverTest v = v := by
    unfold handOverTest
    rw [hkin.activeOrder, F.active]
    cases Machine.nextOrder v with
    | none => rfl
    | some n => exact if_neg (fun hc => by have := hc.2.2; omega)
  have hacc : acceptingOrder v = some o := by
    unfold acceptingOrder
    rw [hkin.activeOrder, F.active]
    refine if_pos ⟨?_, ?_, ?_, hpos⟩
    · rw [hkin.line]; exact F.running
    · rw [hkin.feedState]; exact F.feeding
    · rw [hkin.holdReasons]; exact F.holds
  have hfed := fed_acceptBlank F hkin p
  have heq : feedAt p s = acceptBlank p o v := by
    unfold feedAt
    simp only [← hv, hstay, hacc]
  rw [heq]
  subst hv
  have hk := hfed.kin
  exact ⟨⟨hk.list, hk.feedState, hk.forced, hk.countdown, hk.line, hk.reg, hk.table, hk.recipes, hk.waiting⟩, hfed.track, hfed.pos, hfed.deliv, hfed.insp⟩

/-! ## A blank passed -/

/-- `s` with the records of the number of `r` COMMITTED and K and the projected box those after a blank of order `o`. -/
def committedBy (r : Record) (o : Order) (s : State) : State :=
  { amendRecord r.seq (fun x => { x with stage := .committed }) s with
    deliv := { s.deliv with committedCloses := s.deliv.committedCloses + (passClosesOf s o).1,
                            projected := (passClosesOf s o).2 } }

/-- The gate of a blank without a defect, of an order without an early notice, that is below Q and has room (08 R139). -/
theorem gateAt_clean {q : U32} {r : Record} (x : Pos) (hr : findRecord s q = some r) (ho : findOrder s r.tag = some o)
    (htag : r.tag = o.tag) (hd : r.defects = 0#7) (hearly : o.early = 0) (hbelow : passedOf s o ≠ o.quantity)
    (hroom : hasRoom s o = true) : gateAt q x s = committedBy r o s := by
  have hcause : gateCause s r o = none := by
    have hnone : primaryCause (rejectClasses s r) = none := by
      rw [rejectClasses, hd, BitVec.zero_and]
      decide
    unfold gateCause
    rw [hnone]
    simp only [if_neg hbelow, hroom, if_true]
  have htest (v : State) (hv : v.orders = s.orders) : earlyTest o.tag v = v := by
    have hfind : findOrder v o.tag = some o := by
      rw [← htag, ← ho]
      unfold findOrder
      rw [hv]
    unfold earlyTest
    rw [hfind]
    exact if_neg (fun h => by have := h.1; omega)
  unfold gateAt
  simp only [hr, ho, hcause]
  unfold gatePass
  simp only [if_pos hd]
  exact htest _ rfl

/-! ## The earliest event -/

/-- An event earlier than every other that has fired is the one that is taken. -/
theorem earliestDue_unique {d : DueEvent} (hd : d ∈ dueEvents s)
    (hfirst : ∀ x ∈ dueEvents s, x = d ∨ posDist s.pos.hwm (duePos d) < posDist s.pos.hwm (duePos x))
    (he : e ∈ earliestDue s) : e = d := by
  obtain ⟨hmem, hleast⟩ := mem_earliestDue.mp he
  rcases hfirst e hmem with h | h
  · exact h
  · exact absurd (hleast d hd) (by omega)

/-- The taking of a feed event that is earlier than every other that has fired. -/
theorem fed_taken {x : Pos} (F : Feeds b o) (h : Kin b s)
    (hfirst : ∀ e ∈ earliestDue s, e = .recurring ⟨.feed, x⟩)
    (hneed : o.delivered + s.track.records.length < targetOf b o) (ht : Taken s t) :
    Fed (posPitch x) o { s with pos := { s.pos with due := s.pos.due.erase ⟨.feed, x⟩ } } t := by
  obtain ⟨e, z, n, he, _, _, rfl⟩ := ht
  rw [hfirst e he]
  have hkin : Kin b { freeAt n s with pos := { s.pos with due := s.pos.due.erase ⟨.feed, x⟩ } } :=
    h.trans ⟨rfl, rfl, rfl, rfl, rfl, rfl, rfl, fun _ => rfl, rfl⟩
  have hfed := fed_feedAt F hkin (posPitch x) hneed
  have hk := hfed.kin
  exact ⟨⟨hk.list, hk.feedState, hk.forced, hk.countdown, hk.line, hk.reg, hk.table, hk.recipes, hk.waiting⟩, hfed.track, hfed.pos, hfed.deliv, hfed.insp⟩

/-! ## The step -/

/-- With the encoder standing at the reference the step is the taking of what has fired. -/
theorem step_of_standing (hp : s.pending = [.encoderStep s.pos.phases]) (hfree : s.resetHeld = false)
    (hphases : (settle (taken s)).pos.phases = s.pos.phases) : step s = .next (settle (taken s)) := by
  unfold step
  rw [hp]
  show exec (.encoderStep s.pos.phases) (taken s) = _
  refine congrArg Host.Outcome.next ((event_free (s := taken s) hfree _).trans ?_)
  exact if_pos hphases.symm

/-- What holds at the start and over each taking holds of every state on the way, and of the one with none left to take. -/
theorem settle_induction {I : State → Prop} (hstep : ∀ v w, Taken v w → I v → I w) (h : I s) : I (settle s) :=
  drainDue_induction hstep _ s h

theorem taken_induction {I : State → Prop} (hstep : ∀ v w, Taken v w → I v → I w) (h : I s)
    (ht : Relation.ReflTransGen Taken s t) : I t := by
  induction ht with
  | refl => exact h
  | tail _ hbc ih => exact hstep _ _ hbc ih

end Sys2Proof.Flood
end

section
/-! SUPPORT. Sequence numbers come round. 2^32 + 1 feed events of one position wait on an empty list; the part takes them all
before an encoder step, and then two of the records carry one number. So neither the order of the sequence numbers nor the
law of pending events is kept, though every premise on the state before holds. -/

namespace Sys2Proof.NumbersComeRound

open Sys2Proof.Machine Sys2Proof.Ledger Sys2Proof.Steps Sys2Proof.Changes Sys2Proof.Taking Sys2Proof.Flood

-- One theorem after another, as in the tests: a thread each would ask for more stack than a check may take.
set_option Elab.async false

/-- A table that passes the apply check: G 2, D 4, both at angle 0. -/
def table : MachineTable :=
  { MachineTable.initial with general := ⟨1, 2, 0, 4, 0, 1, 4, .ring, 20⟩ }

/-- An ACTIVE order of 2^34 blanks. -/
def order : Order := ⟨0, 1, .normal, 0, 17179869184, 1, 0, 0, false, false, .active, 0, 0, false, false⟩

/-- `n` feed events have fired at position 0 and wait. -/
def start (n : Nat) : State := plant table [order] 0 (List.replicate n ⟨.feed, 0⟩)

theorem feeds_start (n : Nat) : Feeds (taken (start n)) order :=
  Feeds.congr (b := taken (start 0)) ⟨rfl, rfl, rfl, rfl, rfl, rfl, rfl, fun _ => rfl, rfl⟩
    ⟨rfl, rfl, rfl, by decide, rfl, rfl, rfl⟩

/-- `n` of `total` feed events are still to be taken; each blank made so far has its gate and delivery event pending. -/
structure Flooded (total n : Nat) (s : State) : Prop where
  kin : Kin (taken (start total)) s
  due : s.pos.due = List.replicate n ⟨.feed, 0⟩
  hwm : s.pos.hwm = 0
  phases : s.pos.phases = State.reset.pos.phases
  ahead : ∀ p ∈ s.pos.schedule, isDue 0 p = false ∧ isDeliveryEvent p.event = true
  length : s.pos.schedule.length = 2 * s.track.records.length
  records : s.track.records.length + n = total

variable {total n : Nat} {s t : State}

/-- The gates of the blanks cut at pitch 0 lie beyond the mark. -/
theorem beyond_gate : decide (posDist 0 (posAt 2 0) ≤ 0) = false := by decide

theorem beyond_delivery : decide (posDist 0 (posAt 4 0) ≤ 0) = false := by decide

theorem flooded_start (total : Nat) : Flooded total total (taken (start total)) :=
  ⟨Kin.refl _, rfl, rfl, rfl, fun _ h => absurd h List.not_mem_nil, rfl, Nat.zero_add _⟩

theorem Flooded.dueEvents (h : Flooded total n s) : dueEvents s = List.replicate n (.recurring ⟨.feed, 0⟩) := by
  have hnone : s.pos.schedule.filter (isDue s.pos.hwm) = [] := by
    rw [h.hwm]
    exact List.filter_eq_nil_iff.mpr fun p hp => by rw [(h.ahead p hp).1]; exact Bool.false_ne_true
  unfold Machine.dueEvents
  rw [hnone, h.due, List.map_replicate, List.map_nil, List.append_nil]

theorem Flooded.step (htotal : total < 17179869184) (h : Flooded total (n + 1) s) (ht : Taken s t) :
    Flooded total n t := by
  have hfirst (e : DueEvent) (he : e ∈ earliestDue s) : e = .recurring ⟨.feed, 0⟩ := by
    have hmem := mem_dueEvents_of_earliest he
    rw [h.dueEvents] at hmem
    exact List.eq_of_mem_replicate hmem
  have hneed : order.delivered + s.track.records.length < targetOf (taken (start total)) order := by
    have hr := h.records
    show 0 + _ < 17179869184
    omega
  obtain ⟨kin, track, pos, _, _⟩ := fed_taken (feeds_start total) h.kin hfirst hneed ht
  have htab : s.store.inForce = table := h.kin.table
  have hlen : t.track.records.length = s.track.records.length + 1 := by rw [track]; simp
  have hsched : t.pos.schedule = s.pos.schedule
      ++ [plainEvent (posAt 2 0) (.gate s.track.nextSeq), plainEvent (posAt 4 0) (.delivery s.track.nextSeq)] := by
    rw [pos]
    simp only [gateEventAt, deliveryEventAt, htab]
    rfl
  refine ⟨h.kin.trans ⟨kin.list, kin.feedState, kin.forced, kin.countdown, kin.line, kin.reg, kin.table, kin.recipes,
    kin.waiting⟩, ?_, ?_, ?_, ?_, ?_, ?_⟩
  · rw [pos, h.due, List.replicate_succ]
    simp
  · rw [pos]
    exact h.hwm
  · rw [pos]
    exact h.phases
  · intro p hp
    rw [hsched] at hp
    simp only [List.mem_append, List.mem_cons, List.not_mem_nil, or_false] at hp
    rcases hp with hp | rfl | rfl
    · exact h.ahead p hp
    · exact ⟨beyond_gate, rfl⟩
    · exact ⟨beyond_delivery, rfl⟩
  · rw [hsched, hlen, List.length_append, h.length]
    rfl
  · rw [hlen, ← h.records]
    omega

theorem Flooded.next (htotal : total < 17179869184) (h : ∃ n, Flooded total n s) (ht : Taken s t) :
    ∃ n, Flooded total n t := by
  obtain ⟨n, hn⟩ := h
  cases n with
  | zero =>
    obtain ⟨e, _, _, he, _⟩ := ht
    have hmem := mem_dueEvents_of_earliest he
    rw [hn.dueEvents] at hmem
    exact absurd hmem List.not_mem_nil
  | succ n => exact ⟨n, hn.step htotal ht⟩

/-- Once the part has taken them all, every blank stands. -/
theorem flooded_settle (htotal : total < 17179869184) : Flooded total 0 (settle (taken (start total))) := by
  obtain ⟨n, hn⟩ := settle_induction (I := fun s => ∃ n, Flooded total n s) (fun _ _ ht h => Flooded.next htotal h ht)
    ⟨total, flooded_start total⟩
  have hnil := dueEvents_settle (taken (start total))
  rw [hn.dueEvents, List.replicate_eq_nil_iff] at hnil
  exact hnil ▸ hn

theorem step_start (htotal : total < 17179869184) : step (start total) = .next (settle (taken (start total))) :=
  step_of_standing rfl rfl (flooded_settle htotal).phases

/-! ## What the numbers allow -/

/-- Ages that fall and are not 0 are fewer than the sequence numbers. -/
theorem length_lt_of_seqsFit (h : SeqsFit s) : s.track.records.length < 4294967296 := by
  obtain ⟨hfall, hpos⟩ := h
  have hnodup : (s.track.records.map (ageOf s)).Nodup := hfall.imp (fun hba => (Nat.ne_of_gt hba))
  have hsub : s.track.records.map (ageOf s) ⊆ (List.range 4294967295).map (· + 1) := by
    intro a ha
    obtain ⟨r, hr, rfl⟩ := List.mem_map.mp ha
    have hlow := hpos r hr
    have hhigh : ageOf s r < 4294967296 := (s.track.nextSeq - r.seq).isLt
    exact List.mem_map.mpr ⟨ageOf s r - 1, List.mem_range.mpr (by omega), by omega⟩
  have hlen := (hnodup.subperm hsub).length_le
  rw [List.length_map, List.length_map, List.length_range] at hlen
  omega

/-- Gate and delivery events without a double are at most two for each sequence number. -/
theorem length_le_of_nodup {es : List Pending} (hall : ∀ p ∈ es, isDeliveryEvent p.event = true)
    (h : ((es.map Pending.event).filter isDeliveryEvent).Nodup) : es.length ≤ 8589934592 := by
  have hkeep : (es.map Pending.event).filter isDeliveryEvent = es.map Pending.event :=
    List.filter_eq_self.mpr fun e he => by
      obtain ⟨p, hp, rfl⟩ := List.mem_map.mp he
      exact hall p hp
  rw [hkeep] at h
  have hsub : es.map Pending.event
      ⊆ (List.range 4294967296).flatMap (fun i => [.gate (BitVec.ofNat 32 i), .delivery (BitVec.ofNat 32 i)]) := by
    intro e he
    obtain ⟨p, hp, rfl⟩ := List.mem_map.mp he
    have hev := hall p hp
    cases hq : p.event with
    | gate q => exact List.mem_flatMap.mpr ⟨q.toNat, List.mem_range.mpr q.isLt, by simp⟩
    | delivery q => exact List.mem_flatMap.mpr ⟨q.toNat, List.mem_range.mpr q.isLt, by simp⟩
    | _ => rw [hq] at hev; exact absurd hev Bool.false_ne_true
  have hlen := (h.subperm hsub).length_le
  have htwo (i : Nat) : [Scheduled.gate (BitVec.ofNat 32 i), .delivery (BitVec.ofNat 32 i)].length = 2 := rfl
  simp only [List.length_map, List.length_flatMap, htwo, List.map_const', List.sum_replicate, List.length_range] at hlen
  exact hlen

/-! ## The premises -/

theorem oneActive_start (n : Nat) : OneActive (start n) := ⟨List.nodup_singleton _, rfl⟩

/-- Refutes O56: 2^32 + 1 feed events wait on an empty list, and the records made of them are more than the sequence
numbers that are not the next. -/
theorem not_stepRefs : ¬ Obligations.StepRefs := by
  intro h
  obtain ⟨n, hn⟩ : ∃ n, n = 4294967297 := ⟨_, rfl⟩
  have hfit := (h (start n) _ (refsHold_plant (by simp [order])) ⟨List.Pairwise.nil, fun _ hr => absurd hr List.not_mem_nil⟩
    (fun _ hr => absurd hr List.not_mem_nil) (step_start (by omega))).2
  have hlen := length_lt_of_seqsFit hfit
  have hall := (flooded_settle (total := n) (by omega)).records
  omega

/-- Refutes O60: 2^32 + 1 feed events wait on an empty list, and the records made of them have more gate and delivery
events pending than there are of these, so that some stand twice. -/
theorem not_eventsKeepTheirTurn : ¬ Obligations.EventsKeepTheirTurn := by
  rintro ⟨_, h, _⟩
  obtain ⟨n, hn⟩ : ∃ n, n = 4294967297 := ⟨_, rfl⟩
  have htable : TableFits (start n) := by
    refine ⟨fun _ => by show checkTable table = none; decide, ?_⟩
    rintro t (rfl | rfl) <;> exact ⟨Nat.zero_le _, Nat.zero_le _⟩
  have hevents : EventsStand (start n) := by
    refine ⟨fun f hf => ?_, fun _ hr => absurd hr List.not_mem_nil, fun _ _ he => absurd he List.not_mem_nil,
      fun _ _ he => absurd he List.not_mem_nil, List.nodup_nil⟩
    rw [List.eq_of_mem_replicate hf]
    exact ⟨rfl, rfl⟩
  have hstand := (h (start n) _ htable hevents ⟨fun e => (nomatch e), fun e => (nomatch e)⟩
    ⟨List.Pairwise.nil, fun _ hr => absurd hr List.not_mem_nil⟩ (fun _ hr => absurd hr List.not_mem_nil)
    (oneActive_start n) (fun _ hr => absurd hr List.not_mem_nil) (step_start (by omega))).2
  have hfull := flooded_settle (total := n) (by omega)
  have hlen := length_le_of_nodup (fun p hp => (hfull.ahead p hp).2) hstand.2.2.2.2
  have := hfull.length
  have := hfull.records
  omega

end Sys2Proof.NumbersComeRound
end

section
/-! SUPPORT. One gate event passes two blanks. The first blank of a flood of 2^32 + 1 carries the number of the last; the
gate event of that number, due when all stand, makes both COMMITTED, and the order of one blank has two. -/

namespace Sys2Proof.PassedTwice

open Sys2Proof.Machine Sys2Proof.Ledger Sys2Proof.Steps Sys2Proof.Changes Sys2Proof.Taking Sys2Proof.Flood

-- One theorem after another, as in the tests: a thread each would ask for more stack than a check may take.
set_option Elab.async false

/-- The gate lies 8 pitches on, the delivery 20. -/
def table : MachineTable :=
  { MachineTable.initial with general := ⟨1, 8, 0, 20, 0, 1, 4, .ring, 20⟩ }

/-- An ACTIVE order of one blank and 2^34 spare ones. -/
def order : Order := ⟨0, 1, .normal, 0, 1, 1, 17179869184, 0, false, false, .active, 0, 0, false, false⟩

/-- The next order, startable behind it, so that its spare blanks are called for. -/
def nextOne : Order := ⟨1, 2, .normal, 0, 1, 1, 0, 0, false, false, .queued, 0, 0, false, false⟩

/-- The machine stands at pitch 10. -/
def mark : Pos := 36000

/-- The feed event of pitch 5. -/
def feed : Fired := ⟨.feed, 18000⟩

/-- A feed event has fired at pitch 0 and `n` at pitch 5, and wait. -/
def start (n : Nat) : State := plant table [order, nextOne] mark (⟨.feed, 0⟩ :: List.replicate n feed)

/-- The gate event of the blank of pitch 0, the only one of those made that is due. -/
def gateEvent : Pending := plainEvent (posAt 8 0) (.gate 1)

theorem feeds_start (n : Nat) : Feeds (taken (start n)) order :=
  Feeds.congr (b := taken (start 0)) ⟨rfl, rfl, rfl, rfl, rfl, rfl, rfl, fun _ => rfl, rfl⟩
    ⟨rfl, rfl, rfl, by decide, rfl, rfl, rfl⟩

variable {total n : Nat} {s t : State}

theorem needed (h : s.track.records.length ≤ 17179869184) (total : Nat) :
    order.delivered + s.track.records.length < targetOf (taken (start total)) order := by
  have htarget : targetOf (taken (start total)) order = 17179869185 :=
    (Kin.targetOf (b := taken (start 0)) ⟨rfl, rfl, rfl, rfl, rfl, rfl, rfl, fun _ => rfl, rfl⟩ order).trans (by decide)
  rw [htarget]
  show 0 + _ < _
  omega

/-- What stands from the start on: where the machine is, the setting, and the order's blanks OPEN in a list of clean
records. -/
structure Standing (total : Nat) (s : State) : Prop where
  kin : Kin (taken (start total)) s
  hwm : s.pos.hwm = mark
  phases : s.pos.phases = State.reset.pos.phases
  deliv : s.deliv = State.reset.deliv
  opened : ∀ r ∈ s.track.records, r.stage = .opened ∧ r.tag = 1 ∧ r.defects = 0#7
  next : s.track.nextSeq = BitVec.ofNat 32 (s.track.records.length + 1)

/-- `n` feed events are still to be taken, the first blank standing at the head with its gate due; with none left the last
blank carries its number. -/
structure Flooded (total n : Nat) (s : State) : Prop extends Standing total s where
  due : s.pos.due = List.replicate n feed
  length : s.track.records.length + n = total + 1
  head : ∃ r rs, s.track.records = r :: rs ∧ r.seq = 1#32
  last : n = 0 → total = 4294967296 → ∃ rs r, s.track.records = rs ++ [r] ∧ r.seq = 1#32
  gate : ∃ es, s.pos.schedule = gateEvent :: es ∧ ∀ p ∈ es, isDue mark p = false

/-- The gate event is taken too. -/
structure Passed (total : Nat) (s : State) : Prop where
  list : s.orders.list = [order, nextOne]
  phases : s.pos.phases = State.reset.pos.phases
  none : dueEvents s = []
  twice : total = 4294967296 → 2 ≤ committedOf s 1

/-- The states on the way. -/
def Underway (total : Nat) (s : State) : Prop :=
  s = taken (start total) ∨ (∃ n, Flooded total n s) ∨ Passed total s

/-- What one more blank makes of the standing records. -/
theorem Standing.fed {x : Pos} {v : State} (h : Standing total s) (f : Fed (posPitch x) order v t) (hpos : v.pos.hwm = s.pos.hwm)
    (hphases : v.pos.phases = s.pos.phases) (hkin : Kin s v) (htrack : v.track = s.track) (hdeliv : v.deliv = s.deliv) : Standing total t where
  kin := (h.kin.trans hkin).trans f.kin
  hwm := by rw [f.pos]; exact hpos.trans h.hwm
  phases := by rw [f.pos]; exact hphases.trans h.phases
  deliv := f.deliv.trans (hdeliv.trans h.deliv)
  opened r hr := by
    rw [f.track, htrack, List.mem_append, List.mem_singleton] at hr
    rcases hr with hr | rfl
    · exact h.opened r hr
    · exact ⟨rfl, rfl, rfl⟩
  next := by
    rw [f.track, htrack]
    simp only [h.next, List.length_append, List.length_singleton]
    exact (BitVec.ofNat_add _ 1).symm

/-! ## The takings -/

theorem standing_start (total : Nat) : Standing total (taken (start total)) :=
  ⟨Kin.refl _, rfl, rfl, rfl, fun _ h => absurd h List.not_mem_nil, rfl⟩

theorem dueEvents_start (total : Nat) : dueEvents (taken (start total))
    = .recurring ⟨.feed, 0⟩ :: List.replicate total (.recurring feed) := by
  show (List.map _ (_ :: List.replicate total feed) ++ []) = _
  rw [List.append_nil, List.map_cons, List.map_replicate]

/-- Distances from the mark of the events that are due. -/
theorem order_of_events : posDist mark 0 < posDist mark feed.pos ∧ posDist mark feed.pos < posDist mark gateEvent.pos := by
  decide

theorem earliest_start {e : DueEvent} (he : e ∈ earliestDue (taken (start total))) : e = .recurring ⟨.feed, 0⟩ := by
  refine earliestDue_unique (by rw [dueEvents_start]; exact List.mem_cons_self) (fun x hx => ?_) he
  rw [dueEvents_start, List.mem_cons] at hx
  rcases hx with hx | hx
  · exact .inl hx
  · rw [List.eq_of_mem_replicate hx]
    exact .inr order_of_events.1

/-- The gate of the first blank is due, those of the others and every delivery lie beyond the mark. -/
theorem beyond_mark : isDue mark gateEvent = true ∧ decide (posDist mark (posAt 20 0) ≤ 0) = false ∧
    decide (posDist mark (posAt 13 0) ≤ 0) = false ∧ decide (posDist mark (posAt 25 0) ≤ 0) = false := by decide

/-- The events of the blank cut at pitch `p`. -/
theorem events_eq {v : State} (h : v.store.inForce = table) (q p : U32) :
    gateEventAt v q p = plainEvent (posAt (p + 8#32) 0) (.gate q) ∧
    deliveryEventAt v q p = plainEvent (posAt (p + 20#32) 0) (.delivery q) := by
  simp only [gateEventAt, deliveryEventAt, h]
  exact ⟨rfl, rfl⟩

theorem flooded_first (htotal : 0 < total) (ht : Taken (taken (start total)) t) : Flooded total total t := by
  have h := standing_start total
  have f := fed_taken (feeds_start total) h.kin (fun e he => earliest_start he) (needed (Nat.zero_le _) total) ht
  obtain ⟨hgate, hdelivery⟩ := events_eq (v := { taken (start total) with pos := { (taken (start total)).pos with
    due := (taken (start total)).pos.due.erase ⟨.feed, 0⟩ } }) rfl 1 (posPitch 0)
  refine ⟨h.fed f rfl rfl ⟨rfl, rfl, rfl, rfl, rfl, rfl, rfl, fun _ => rfl, rfl⟩ rfl rfl, ?_, ?_, ?_, ?_, ?_⟩
  · rw [f.pos]
    rfl
  · rw [f.track]
    exact Nat.add_comm 1 total
  · rw [f.track]
    exact ⟨_, [], rfl, rfl⟩
  · exact fun h0 => absurd h0 (by omega)
  · rw [f.pos]
    refine ⟨[deliveryEventAt _ 1 (posPitch 0)], congrArg (· :: _) hgate, ?_⟩
    intro p hp
    rw [List.mem_singleton.mp hp, hdelivery]
    exact beyond_mark.2.1

/-- While the blanks are made, the events that have fired are feed events and the first blank's gate. -/
theorem Flooded.dueEvents (h : Flooded total n s) :
    dueEvents s = List.replicate n (.recurring feed) ++ [.scheduled gateEvent] := by
  obtain ⟨es, hes, hahead⟩ := h.gate
  have hnone : es.filter (isDue mark) = [] :=
    List.filter_eq_nil_iff.mpr fun p hp => by rw [hahead p hp]; exact Bool.false_ne_true
  unfold Machine.dueEvents
  rw [h.due, h.hwm, hes, List.filter_cons_of_pos beyond_mark.1, hnone, List.map_replicate]
  rfl

theorem Flooded.earliest_feed (h : Flooded total (n + 1) s) {e : DueEvent} (he : e ∈ earliestDue s) :
    e = .recurring feed := by
  refine earliestDue_unique (by rw [h.dueEvents]; simp) (fun x hx => ?_) he
  rw [h.dueEvents, List.mem_append] at hx
  rcases hx with hx | hx
  · exact .inl (List.eq_of_mem_replicate hx)
  · rw [List.mem_singleton.mp hx, h.hwm]
    exact .inr order_of_events.2

theorem Flooded.earliest_gate (h : Flooded total 0 s) {e : DueEvent} (he : e ∈ earliestDue s) :
    e = .scheduled gateEvent := by
  have hmem := mem_dueEvents_of_earliest he
  rw [h.dueEvents] at hmem
  exact List.mem_singleton.mp hmem

theorem Flooded.step (htotal : total < 17179869184) (h : Flooded total (n + 1) s) (ht : Taken s t) :
    Flooded total n t := by
  have hlen := h.length
  have f := fed_taken (feeds_start total) h.kin (fun e he => h.earliest_feed he) (needed (by omega) total) ht
  have hrecords : t.track.records = s.track.records ++ [blank s (posPitch feed.pos) order] := by rw [f.track]; rfl
  refine ⟨h.toStanding.fed f rfl rfl ⟨rfl, rfl, rfl, rfl, rfl, rfl, rfl, fun _ => rfl, rfl⟩ rfl rfl, ?_, ?_, ?_, ?_, ?_⟩
  · rw [f.pos, h.due, List.replicate_succ]
    exact List.erase_cons_head feed _
  · rw [hrecords, List.length_append, List.length_singleton]
    omega
  · obtain ⟨r, rs, hr, hq⟩ := h.head
    exact ⟨r, rs ++ [blank s (posPitch feed.pos) order], by rw [hrecords, hr]; rfl, hq⟩
  · intro h0 htotal
    refine ⟨_, _, hrecords, h.next.trans ?_⟩
    have hall : s.track.records.length = 4294967296 := by omega
    rw [hall]
    decide
  · obtain ⟨es, hes, hahead⟩ := h.gate
    obtain ⟨hgate, hdelivery⟩ := events_eq (v := { s with pos := { s.pos with due := s.pos.due.erase feed } })
      h.kin.table s.track.nextSeq (posPitch feed.pos)
    refine ⟨es ++ [_, _], by rw [f.pos]; exact congrArg (· ++ _) hes, ?_⟩
    intro p hp
    rw [List.mem_append, List.mem_pair] at hp
    rcases hp with hp | rfl | rfl
    · exact hahead p hp
    · refine (congrArg (isDue mark) hgate).trans beyond_mark.2.2.1
    · refine (congrArg (isDue mark) hdelivery).trans beyond_mark.2.2.2

/-! ## The gate event -/

theorem Standing.gate {r : Record} {rs : List Record} (h : Standing total s) (hr : s.track.records = r :: rs)
    (hq : r.seq = 1#32) : gateAt 1#32 gateEvent.pos s = committedBy r order s := by
  obtain ⟨_, htag, hclean⟩ := h.opened r (by rw [hr]; exact List.mem_cons_self)
  have hfind : findOrder s r.tag = some order := by rw [h.kin.findOrder, htag]; rfl
  have hpassed : passedOf s order = 0 := by
    have hnone : committedOf s order.tag = 0 := List.countP_eq_zero.mpr fun x hx => by simp [(h.opened x hx).1]
    rw [passedOf, hnone]
    rfl
  refine gateAt_clean _ ?_ hfind htag hclean rfl ?_ ?_
  · rw [findRecord, hr]
    simp [hq]
  · rw [hpassed]
    decide
  · rw [hasRoom, passClosesOf, hpassed, h.deliv]
    decide

theorem Flooded.passed (h : Flooded total 0 s) (ht : Taken s t) : Passed total t := by
  obtain ⟨e, z, m, he, _, _, rfl⟩ := ht
  rw [h.earliest_gate he]
  obtain ⟨r, rs, hr, hq⟩ := h.head
  obtain ⟨es, hes, hahead⟩ := h.gate
  obtain ⟨v, hv⟩ : ∃ v : State, v = { freeAt m s with pos := { s.pos with schedule := s.pos.schedule.erase gateEvent } } :=
    ⟨_, rfl⟩
  have hstand : Standing total v := by
    rw [hv]
    exact ⟨h.kin.trans ⟨rfl, rfl, rfl, rfl, rfl, rfl, rfl, fun _ => rfl, rfl⟩, h.hwm, h.phases, h.deliv, h.opened, h.next⟩
  have hvr : v.track.records = r :: rs := by rw [hv]; exact hr
  have htake : takeEvent z (.scheduled gateEvent) (freeAt m s) = committedBy r order v := by
    rw [← hstand.gate hvr hq, hv]
    rfl
  have hsched : v.pos.schedule = es := by
    rw [hv]
    show s.pos.schedule.erase gateEvent = es
    rw [hes, List.erase_cons_head]
  rw [htake]
  refine ⟨hstand.kin.list, hstand.phases, ?_, fun htotal => ?_⟩
  · have hdue : v.pos.due = [] := by rw [hv]; exact h.due
    unfold Machine.dueEvents
    show v.pos.due.map _ ++ (v.pos.schedule.filter (isDue v.pos.hwm)).map _ = []
    rw [hdue, hsched, hstand.hwm, List.filter_eq_nil_iff.mpr fun p hp => by rw [hahead p hp]; exact Bool.false_ne_true]
    rfl
  · obtain ⟨xs, y, hxs, hy⟩ := h.last rfl htotal
    have hvy : v.track.records = xs ++ [y] := by rw [hv]; exact hxs
    have hx : xs ≠ [] := by
      intro hnil
      have := h.length
      rw [hxs, hnil] at this
      simp at this
      omega
    obtain ⟨x, xs', rfl⟩ := List.exists_cons_of_ne_nil hx
    have hxr : x = r := by
      rw [hvr] at hvy
      exact (List.cons.inj hvy).1.symm
    subst hxr
    have hrec : (committedBy x order v).track.records
        = v.track.records.map (fun a => if a.seq == x.seq then { a with stage := .committed } else a) := rfl
    have htag (a : Record) (ha : a ∈ v.track.records) : a.tag = 1 := (hstand.opened a ha).2.1
    unfold committedOf
    rw [hrec, hvy]
    have h1 := htag x (by rw [hvy]; simp)
    have h2 := htag y (by rw [hvy]; simp)
    simp [List.countP_append, hy, hq, h1, h2]

/-! ## The way -/

theorem Underway.step (htotal : 0 < total) (hlt : total < 17179869184) (h : Underway total s) (ht : Taken s t) :
    Underway total t := by
  rcases h with rfl | ⟨n, hn⟩ | hp
  · exact .inr (.inl ⟨_, flooded_first htotal ht⟩)
  · cases n with
    | zero => exact .inr (.inr (hn.passed ht))
    | succ n => exact .inr (.inl ⟨n, hn.step hlt ht⟩)
  · obtain ⟨e, _, _, he, _⟩ := ht
    have hmem := mem_dueEvents_of_earliest he
    rw [hp.none] at hmem
    exact absurd hmem List.not_mem_nil

/-- No delivery event is taken on the way. -/
theorem Underway.no_delivery (h : Underway total s) {q : U32} {e : DueEvent} {z : Int} (he : e ∈ earliestDue s) :
    Instr.deliveryEvent q ≠ commandOf z e := by
  rcases h with rfl | ⟨n, hn⟩ | hp
  · rw [earliest_start he]
    exact fun hc => nomatch hc
  · cases n with
    | zero => rw [hn.earliest_gate he]; exact fun hc => nomatch hc
    | succ n => rw [hn.earliest_feed he]; exact fun hc => nomatch hc
  · have hmem := mem_dueEvents_of_earliest he
    rw [hp.none] at hmem
    exact absurd hmem List.not_mem_nil

theorem passed_settle (htotal : 0 < total) (hlt : total < 17179869184) : Passed total (settle (taken (start total))) := by
  have hnone := dueEvents_settle (taken (start total))
  rcases settle_induction (I := Underway total) (fun _ _ ht h => h.step htotal hlt ht) (.inl rfl) with h | ⟨n, hn⟩ | hp
  · rw [h, dueEvents_start] at hnone
    exact absurd hnone (List.cons_ne_nil _ _)
  · rw [hn.dueEvents] at hnone
    simp at hnone
  · exact hp

/-- Refutes O57: behind one feed event of pitch 0 wait 2^32 of pitch 5 on an empty list. The part takes them all and then the
gate event of the first blank, which passes the last one too: it carries the same number. The order of one blank then has
two COMMITTED. -/
theorem not_stepOneActive : ¬ Obligations.StepOneActive := by
  rintro ⟨_, _, h, _⟩
  obtain ⟨n, hn⟩ : ∃ n, n = 4294967296 := ⟨_, rfl⟩
  have hpassed := passed_settle (total := n) (by omega) (by omega)
  have hstep : step (start n) = .next (settle (taken (start n))) := step_of_standing rfl rfl hpassed.phases
  have hfit := h (start n) _ ⟨by show ([1, 2] : List Nat).Nodup; decide, rfl⟩ (fun _ hr => absurd hr List.not_mem_nil)
    (refsHold_plant (by simp [order, nextOne])) ⟨List.Pairwise.nil, fun _ hr => absurd hr List.not_mem_nil⟩
    (fun _ hr => absurd hr List.not_mem_nil) ?_ ?_ hstep
  · have hmem : order ∈ (settle (taken (start n))).orders.list := by rw [hpassed.list]; exact List.mem_cons_self
    have hsum := (hfit order hmem).1
    have htwo := hpassed.twice hn
    have hq : order.delivered + committedOf (settle (taken (start n))) order.tag ≤ 1 := hsum
    have : committedOf (settle (taken (start n))) order.tag = committedOf (settle (taken (start n))) 1 := rfl
    omega
  · intro o ho
    have hmem : o ∈ [order, nextOne] := ho
    rw [List.mem_pair] at hmem
    rcases hmem with rfl | rfl <;> exact ⟨Nat.zero_le _, Nat.zero_le _⟩
  · rintro d v r (⟨q, hq, _⟩ | ⟨hq, _⟩ | ⟨c, q, w, hq, _, hway, hfirst⟩)
    · cases hq
    · cases hq
    · cases hq
      obtain ⟨htaken, _⟩ := taken_of_firedTaken (s := taken (start n)) rfl hway
      have hunder : Underway n w :=
        taken_induction (fun _ _ ht hu => hu.step (by omega) (by omega) ht) (.inl rfl) htaken
      obtain ⟨e, z, he, hc, _⟩ := firedFirst_iff.mp hfirst
      exact absurd hc (hunder.no_delivery he)

end Sys2Proof.PassedTwice
end

section
/-! SUPPORT. A LOST judgement removes another blank than the one it judged. The first blank of a flood of 2^32 + 1 is passed at
its gate; the last one carries its number and is judged LOST. The record of that number nearest the head, the COMMITTED one, is
removed in its place, and the projected box still counts it. -/

namespace Sys2Proof.WrongOneLost

open Sys2Proof.Machine Sys2Proof.Ledger Sys2Proof.Steps Sys2Proof.Changes Sys2Proof.Taking Sys2Proof.Flood

-- One theorem after another, as in the tests: a thread each would ask for more stack than a check may take.
set_option Elab.async false

/-- The gate lies one pitch on, the delivery 20; channel 0 looks for blanks at the cut. -/
def table : MachineTable :=
  { MachineTable.initial with
    general := ⟨1, 1, 200, 20, 0, 1, 4, .ring, 20⟩
    insps := put MachineTable.initial.insps 0 ⟨true, .presence, 0, 0⟩ }

/-- An ACTIVE order of 2^34 blanks, two to a box. -/
def order : Order := ⟨0, 1, .normal, 0, 17179869184, 2, 0, 0, false, false, .active, 0, 0, false, false⟩

/-- The machine stands at angle 100 of pitch 6. -/
def mark : Pos := 21700

/-- The feed event of pitch 5. -/
def feed : Fired := ⟨.feed, 18000⟩

/-- The feed event of pitch 6. -/
def lastFeed : Fired := ⟨.feed, 21600⟩

/-- The end of the watch of pitch 6. -/
def watchEnd : Fired := ⟨.watchEnd 0, 21650⟩

/-- The inspection channels: a watch of pitch 6 stands open on channel 0 and has seen nothing. -/
def channels : Vector InspChannel 8 :=
  put State.reset.insp 0 { InspChannel.initial with watch := some ⟨6, false⟩ }

/-- A feed event has fired at pitch 0, `n` at pitch 5 and one at pitch 6, the watch of pitch 6 has ended, and all wait. -/
def start (n : Nat) : State :=
  { plant table [order] mark (⟨.feed, 0⟩ :: (List.replicate n feed ++ [lastFeed, watchEnd])) with insp := channels }

/-- The gate event of the blank of pitch 0. -/
def gateEvent : Pending := plainEvent (posAt 1 200) (.gate 1)

/-- The first blank. -/
def firstBlank : Record := ⟨1, 0, 1, 0, .opened, none, none, 0#7, 0#12, 0#12, Vector.replicate 8 none⟩

/-- The projected box after the first blank. -/
def boxAfter : ProjectedBox := ⟨0, 1, 1⟩

theorem feeds_start (n : Nat) : Feeds (taken (start n)) order :=
  Feeds.congr (b := taken (start 0)) ⟨rfl, rfl, rfl, rfl, rfl, rfl, rfl, fun _ => rfl, rfl⟩
    ⟨rfl, rfl, rfl, by decide, rfl, rfl, rfl⟩

variable {total n : Nat} {s t : State} {e : DueEvent}

theorem needed (h : s.track.records.length < 17179869184) (total : Nat) :
    order.delivered + s.track.records.length < targetOf (taken (start total)) order := by
  have htarget : targetOf (taken (start total)) order = 17179869184 :=
    (Kin.targetOf (b := taken (start 0)) ⟨rfl, rfl, rfl, rfl, rfl, rfl, rfl, fun _ => rfl, rfl⟩ order).trans (by decide)
  rw [htarget]
  show 0 + _ < _
  omega

/-! ## Events and positions -/

/-- Positions of the events, the earliest first. -/
theorem order_of_events : posDist mark 0 < posDist mark 18000 ∧ posDist mark 0 < posDist mark 21600 ∧
    posDist mark 0 < posDist mark 21650 ∧ posDist mark (posAt 1 200) < posDist mark 18000 ∧
    posDist mark (posAt 1 200) < posDist mark 21600 ∧ posDist mark (posAt 1 200) < posDist mark 21650 ∧
    posDist mark 18000 < posDist mark 21600 ∧ posDist mark 18000 < posDist mark 21650 ∧
    posDist mark 21600 < posDist mark 21650 := by decide

/-- Beyond the mark lie the gates of the blanks of pitches 5 and 6, and the deliveries of all. -/
theorem beyond_mark : decide (posDist mark (posAt 20 0) ≤ 0) = false ∧ decide (posDist mark (posAt 6 200) ≤ 0) = false ∧
    decide (posDist mark (posAt 25 0) ≤ 0) = false ∧ decide (posDist mark (posAt 7 200) ≤ 0) = false ∧
    decide (posDist mark (posAt 26 0) ≤ 0) = false ∧ isDue mark gateEvent = true := by decide

/-- The events of the blank cut at pitch `p`. -/
theorem events_eq {v : State} (h : v.store.inForce = table) (q p : U32) :
    gateEventAt v q p = plainEvent (posAt (p + 1#32) 200) (.gate q) ∧
    deliveryEventAt v q p = plainEvent (posAt (p + 20#32) 0) (.delivery q) := by
  simp only [gateEventAt, deliveryEventAt, h]
  exact ⟨rfl, rfl⟩

theorem pitch_last : posPitch 21600 = 6#32 := by decide

theorem pitch_feed : posPitch 18000 ≠ 6#32 := by decide

/-- Where the scheduled events lie beyond the mark, the events that have fired are the recurring ones. -/
theorem dueEvents_of_ahead (h : ∀ p ∈ s.pos.schedule, isDue s.pos.hwm p = false) :
    dueEvents s = s.pos.due.map .recurring := by
  unfold dueEvents
  rw [List.filter_eq_nil_iff.mpr fun p hp => by rw [h p hp]; exact Bool.false_ne_true]
  exact List.append_nil _

/-! ## The states on the way -/

/-- What stands over every taking but the last. -/
structure Standing (total : Nat) (s : State) : Prop where
  kin : Kin (taken (start total)) s
  hwm : s.pos.hwm = mark
  phases : s.pos.phases = State.reset.pos.phases
  insp : s.insp = channels
  next : s.track.nextSeq = BitVec.ofNat 32 (s.track.records.length + 1)

/-- The first blank alone stands. -/
structure FirstStands (total : Nat) (s : State) : Prop extends Standing total s where
  deliv : s.deliv = State.reset.deliv
  records : s.track.records = [firstBlank]

/-- The first blank's gate is due. -/
structure FirstMade (total : Nat) (s : State) : Prop extends FirstStands total s where
  due : s.pos.due = List.replicate total feed ++ [lastFeed, watchEnd]
  schedule : s.pos.schedule = [gateEvent, plainEvent (posAt 20 0) (.delivery 1)]

/-- The first blank is COMMITTED at the head, OPEN ones stand behind it, and the scheduled events lie beyond the mark. -/
structure Committed (total : Nat) (s : State) : Prop extends Standing total s where
  projected : s.deliv.projected = some boxAfter
  openBox : s.deliv.openBox = none
  head : ∃ r rs, s.track.records = r :: rs ∧ r.seq = 1#32 ∧ r.cutPitch = 0#32 ∧ ∀ x ∈ rs, x.stage = .opened
  ahead : ∀ p ∈ s.pos.schedule, isDue mark p = false

/-- `n` feed events of pitch 5 are still to be taken. -/
structure Flooded (total n : Nat) (s : State) : Prop extends Committed total s where
  due : s.pos.due = List.replicate n feed ++ [lastFeed, watchEnd]
  length : s.track.records.length + n = total + 1
  pitches : ∀ r ∈ s.track.records, r.cutPitch ≠ 6#32

/-- Every blank is made; the last one is that of pitch 6, and the watch's end waits. -/
structure AllMade (total : Nat) (s : State) : Prop extends Committed total s where
  due : s.pos.due = [watchEnd]
  last : ∃ rs r, s.track.records = rs ++ [r] ∧ (∀ x ∈ rs, x.cutPitch ≠ 6#32) ∧
    r.cutPitch = 6#32 ∧ (total = 4294967295 → r.seq = 1#32)

/-- The watch has ended. -/
structure Judged (total : Nat) (s : State) : Prop where
  phases : s.pos.phases = State.reset.pos.phases
  none : dueEvents s = []
  fails : total = 4294967295 → ¬ ProjectionHolds s

/-- The states on the way. -/
def Underway (total : Nat) (s : State) : Prop :=
  s = taken (start total) ∨ FirstMade total s ∨ (∃ n, Flooded total n s) ∨ AllMade total s ∨ Judged total s

/-- What one more blank makes of what stands. -/
theorem Standing.fed {x : Pos} {v : State} (h : Standing total s) (f : Fed (posPitch x) order v t)
    (hpos : v.pos.hwm = s.pos.hwm) (hphases : v.pos.phases = s.pos.phases) (hkin : Kin s v) (htrack : v.track = s.track)
    (hinsp : v.insp = s.insp) : Standing total t where
  kin := (h.kin.trans hkin).trans f.kin
  hwm := by rw [f.pos]; exact hpos.trans h.hwm
  phases := by rw [f.pos]; exact hphases.trans h.phases
  insp := f.insp.trans (hinsp.trans h.insp)
  next := by
    rw [f.track, htrack]
    simp only [h.next, List.length_append, List.length_singleton]
    exact (BitVec.ofNat_add _ 1).symm

theorem standing_start (total : Nat) : Standing total (taken (start total)) := ⟨Kin.refl _, rfl, rfl, rfl, rfl⟩

/-! ## The first blank -/

theorem dueEvents_start (total : Nat) : dueEvents (taken (start total)) = .recurring ⟨.feed, 0⟩
    :: (List.replicate total (.recurring feed) ++ [.recurring lastFeed, .recurring watchEnd]) := by
  refine (dueEvents_of_ahead (fun _ h => absurd h List.not_mem_nil)).trans ?_
  show (_ :: (List.replicate total feed ++ _)).map _ = _
  simp

theorem earliest_start (he : e ∈ earliestDue (taken (start total))) : e = .recurring ⟨.feed, 0⟩ := by
  obtain ⟨h1, h2, h3, _⟩ := order_of_events
  refine earliestDue_unique (by rw [dueEvents_start]; exact List.mem_cons_self) (fun x hx => ?_) he
  rw [dueEvents_start, List.mem_cons, List.mem_append, List.mem_pair] at hx
  rcases hx with hx | hx | rfl | rfl
  · exact .inl hx
  · rw [List.eq_of_mem_replicate hx]
    exact .inr h1
  · exact .inr h2
  · exact .inr h3

theorem firstMade (ht : Taken (taken (start total)) t) : FirstMade total t := by
  have h := standing_start total
  have f := fed_taken (feeds_start total) h.kin (fun e he => earliest_start he) (needed (s := taken (start total)) (by decide : 0 < 17179869184) total) ht
  obtain ⟨hgate, hdelivery⟩ := events_eq (v := { taken (start total) with pos := { (taken (start total)).pos with
    due := (taken (start total)).pos.due.erase ⟨.feed, 0⟩ } }) rfl 1 (posPitch 0)
  refine ⟨⟨h.fed f rfl rfl ⟨rfl, rfl, rfl, rfl, rfl, rfl, rfl, fun _ => rfl, rfl⟩ rfl rfl, f.deliv, ?_⟩, ?_, ?_⟩
  · rw [f.track]
    rfl
  · rw [f.pos]
    rfl
  · rw [f.pos]
    exact congrArg₂ (fun a b => [a, b]) hgate hdelivery

/-! ## The gate of the first blank -/

theorem FirstMade.dueEvents (h : FirstMade total s) : dueEvents s = List.replicate total (.recurring feed)
    ++ [.recurring lastFeed, .recurring watchEnd] ++ [.scheduled gateEvent] := by
  have hdelivery : isDue mark (plainEvent (posAt 20 0) (.delivery 1)) = false := beyond_mark.1
  unfold Machine.dueEvents
  rw [h.due, h.hwm, h.schedule, List.filter_cons_of_pos beyond_mark.2.2.2.2.2,
    List.filter_cons_of_neg (by rw [hdelivery]; exact Bool.false_ne_true)]
  simp

theorem FirstMade.earliest (h : FirstMade total s) (he : e ∈ earliestDue s) : e = .scheduled gateEvent := by
  obtain ⟨_, _, _, h1, h2, h3, _⟩ := order_of_events
  refine earliestDue_unique (by rw [h.dueEvents]; simp) (fun x hx => ?_) he
  rw [h.dueEvents, List.mem_append, List.mem_append, List.mem_pair, List.mem_singleton] at hx
  rw [h.hwm]
  rcases hx with (hx | rfl | rfl) | hx
  · rw [List.eq_of_mem_replicate hx]
    exact .inr h1
  · exact .inr h2
  · exact .inr h3
  · exact .inl hx

theorem FirstStands.gate (h : FirstStands total s) : gateAt 1#32 gateEvent.pos s = committedBy firstBlank order s ∧
    (passClosesOf s order).2 = some boxAfter := by
  have hfind : findOrder s firstBlank.tag = some order := by rw [h.kin.findOrder]; rfl
  have hpassed : passedOf s order = 0 := by
    rw [passedOf, committedOf, h.records]
    rfl
  have hcloses : passClosesOf s order = (0, some boxAfter) := by
    rw [passClosesOf, hpassed, h.deliv]
    decide
  refine ⟨gateAt_clean _ ?_ hfind rfl rfl rfl ?_ ?_, by rw [hcloses]⟩
  · rw [findRecord, h.records]
    rfl
  · rw [hpassed]
    decide
  · rw [hasRoom, hcloses, h.deliv]
    decide

theorem FirstMade.passed (h : FirstMade total s) (ht : Taken s t) : Flooded total total t := by
  obtain ⟨e, z, m, he, _, _, rfl⟩ := ht
  rw [h.earliest he]
  obtain ⟨v, hv⟩ : ∃ v : State, v = { freeAt m s with pos := { s.pos with schedule := s.pos.schedule.erase gateEvent } } :=
    ⟨_, rfl⟩
  have hstands : FirstStands total v := by
    rw [hv]
    exact ⟨⟨h.kin.trans ⟨rfl, rfl, rfl, rfl, rfl, rfl, rfl, fun _ => rfl, rfl⟩, h.hwm, h.phases, h.insp, h.next⟩, h.deliv,
      h.records⟩
  obtain ⟨hgate, hbox⟩ := hstands.gate
  have htake : takeEvent z (.scheduled gateEvent) (freeAt m s) = committedBy firstBlank order v := by
    rw [← hgate, hv]
    rfl
  have hsched : v.pos.schedule = [plainEvent (posAt 20 0) (.delivery 1)] := by
    rw [hv]
    show s.pos.schedule.erase gateEvent = _
    rw [h.schedule, List.erase_cons_head]
  have hrecords : (committedBy firstBlank order v).track.records = [{ firstBlank with stage := .committed }] := by
    show v.track.records.map _ = _
    rw [hstands.records]
    rfl
  rw [htake]
  refine ⟨⟨⟨hstands.kin.trans ⟨rfl, rfl, rfl, rfl, rfl, rfl, rfl, fun _ => rfl, rfl⟩, hstands.hwm, hstands.phases,
    hstands.insp, ?_⟩, hbox, by show v.deliv.openBox = none; rw [hstands.deliv]; rfl, ⟨_, [], hrecords, rfl, rfl, fun _ hx => absurd hx List.not_mem_nil⟩, ?_⟩, ?_, ?_, ?_⟩
  · refine hstands.next.trans ?_
    rw [hrecords, hstands.records]
    rfl
  · intro p hp
    have hp' : p ∈ v.pos.schedule := hp
    rw [hsched, List.mem_singleton] at hp'
    rw [hp']
    exact beyond_mark.1
  · show v.pos.due = _
    rw [hv]
    exact h.due
  · rw [hrecords]
    exact Nat.add_comm 1 total
  · intro r hr
    rw [hrecords, List.mem_singleton] at hr
    rw [hr]
    exact (by decide : (0#32 : U32) ≠ 6#32)

/-! ## The flood -/

theorem Committed.fed {x : Pos} (h : Committed total s) (hx : isDue mark (plainEvent (posAt (posPitch x + 1#32) 200)
      (.gate s.track.nextSeq)) = false ∧ isDue mark (plainEvent (posAt (posPitch x + 20#32) 0)
      (.delivery s.track.nextSeq)) = false)
    (f : Fed (posPitch x) order { s with pos := { s.pos with due := s.pos.due.erase ⟨.feed, x⟩ } } t) :
    Committed total t := by
  refine ⟨h.toStanding.fed f rfl rfl ⟨rfl, rfl, rfl, rfl, rfl, rfl, rfl, fun _ => rfl, rfl⟩ rfl rfl, ?_, ?_, ?_, ?_⟩
  · rw [f.deliv]
    exact h.projected
  · rw [f.deliv]
    exact h.openBox
  · obtain ⟨r, rs, hr, hq, hcut, hopen⟩ := h.head
    refine ⟨r, rs ++ [blank s (posPitch x) order], ?_, hq, hcut, ?_⟩
    · rw [f.track]
      exact congrArg (· ++ _) hr
    · intro y hy
      rcases List.mem_append.mp hy with hy | hy
      · exact hopen y hy
      · rw [List.mem_singleton.mp hy]
        rfl
  · obtain ⟨hgate, hdelivery⟩ := events_eq (v := { s with pos := { s.pos with due := s.pos.due.erase ⟨.feed, x⟩ } })
      h.kin.table s.track.nextSeq (posPitch x)
    intro p hp
    rw [f.pos] at hp
    rcases List.mem_append.mp hp with hp | hp
    · exact h.ahead p hp
    · rcases List.mem_pair.mp hp with rfl | rfl
      · exact (congrArg (isDue mark) hgate).trans hx.1
      · exact (congrArg (isDue mark) hdelivery).trans hx.2

theorem Committed.dueEvents (h : Committed total s) : dueEvents s = s.pos.due.map .recurring :=
  dueEvents_of_ahead (by rw [h.hwm]; exact h.ahead)

theorem Flooded.earliest_feed (h : Flooded total (n + 1) s) (he : e ∈ earliestDue s) : e = .recurring feed := by
  obtain ⟨_, _, _, _, _, _, h1, h2, _⟩ := order_of_events
  refine earliestDue_unique (by rw [h.dueEvents, h.due]; simp) (fun x hx => ?_) he
  rw [h.dueEvents, h.due, List.map_append, List.map_replicate, List.mem_append] at hx
  rw [h.hwm]
  rcases hx with hx | hx
  · exact .inl (List.eq_of_mem_replicate hx)
  · rcases List.mem_pair.mp hx with rfl | rfl
    · exact .inr h1
    · exact .inr h2

theorem Flooded.step (htotal : total < 17179869183) (h : Flooded total (n + 1) s) (ht : Taken s t) :
    Flooded total n t := by
  have hlen := h.length
  have f := fed_taken (feeds_start total) h.kin (fun e he => h.earliest_feed he) (needed (by omega) total) ht
  obtain ⟨_, hgate, hdelivery, _⟩ := beyond_mark
  have hrecords : t.track.records = s.track.records ++ [blank s (posPitch feed.pos) order] := by rw [f.track]; rfl
  refine ⟨h.toCommitted.fed (x := 18000) ⟨hgate, hdelivery⟩ f, ?_, ?_, fun r hr => ?_⟩
  · rw [f.pos, h.due, List.replicate_succ]
    exact List.erase_cons_head feed _
  · rw [hrecords, List.length_append, List.length_singleton]
    omega
  · rw [hrecords, List.mem_append, List.mem_singleton] at hr
    rcases hr with hr | rfl
    · exact h.pitches r hr
    · exact pitch_feed

theorem Flooded.earliest_last (h : Flooded total 0 s) (he : e ∈ earliestDue s) : e = .recurring lastFeed := by
  obtain ⟨_, _, _, _, _, _, _, _, h1⟩ := order_of_events
  refine earliestDue_unique (by rw [h.dueEvents, h.due]; simp) (fun x hx => ?_) he
  rw [h.dueEvents, h.due, h.hwm] at *
  rcases List.mem_pair.mp hx with rfl | rfl
  · exact .inl rfl
  · exact .inr h1

theorem Flooded.allMade (htotal : total < 17179869183) (h : Flooded total 0 s) (ht : Taken s t) : AllMade total t := by
  have hlen := h.length
  have f := fed_taken (feeds_start total) h.kin (fun e he => h.earliest_last he) (needed (by omega) total) ht
  obtain ⟨_, _, _, hgate, hdelivery, _⟩ := beyond_mark
  have hpitch : (blank s (posPitch 21600) order).cutPitch = 6#32 := pitch_last
  refine ⟨h.toCommitted.fed (x := 21600) ⟨hgate, hdelivery⟩ f, ?_, s.track.records, blank s (posPitch 21600) order, ?_,
    h.pitches, hpitch, fun hall => ?_⟩
  · rw [f.pos, h.due]
    exact List.erase_cons_head lastFeed _
  · rw [f.track]
    rfl
  · refine h.next.trans ?_
    have hcount : s.track.records.length = 4294967296 := by omega
    rw [hcount]
    decide

/-! ## The judgement -/

theorem AllMade.earliest (h : AllMade total s) (he : e ∈ earliestDue s) : e = .recurring watchEnd := by
  have hmem := mem_dueEvents_of_earliest he
  rw [h.dueEvents, h.due] at hmem
  exact List.mem_singleton.mp hmem

/-- The records of pitch 6 are OPEN. -/
theorem Committed.opened (h : Committed total s) {r : Record} (hr : r ∈ s.track.records) (hcut : r.cutPitch = 6#32) :
    r.stage = .opened := by
  obtain ⟨x, xs, hx, _, hzero, hopen⟩ := h.head
  rw [hx, List.mem_cons] at hr
  rcases hr with rfl | hr
  · rw [hzero] at hcut
    exact absurd hcut (by decide)
  · exact hopen r hr

/-- Schedule and fired events only lose events. -/
structure Trims (s t : State) : Prop where
  schedule : t.pos.schedule.Sublist s.pos.schedule
  due : t.pos.due.Sublist s.pos.due
  hwm : t.pos.hwm = s.pos.hwm
  phases : t.pos.phases = s.pos.phases

theorem trims_of_eq (h : t.pos = s.pos) : Trims s t := by
  constructor <;> rw [h]

theorem trims_of_touches {fs : List StateField} (h : Touches fs s t) (k : .pos ∉ fs := by decide) : Trims s t :=
  trims_of_eq (h.pos k)

theorem respectsPlain_trims : RespectsPlain Trims where
  refl s := trims_of_eq rfl
  trans h g := ⟨g.schedule.trans h.schedule, g.due.trans h.due, g.hwm.trans h.hwm, g.phases.trans h.phases⟩
  offer n s := trims_of_touches (offer_touches n s)
  count c s := trims_of_touches (count_touches c s)
  withdraw p s := ⟨List.filter_sublist, List.Sublist.refl _, rfl, rfl⟩
  unschedule e s := ⟨List.erase_sublist, List.Sublist.refl _, rfl, rfl⟩
  switchTo src s := by
    unfold switchTo
    simp only
    split
    · exact trims_of_eq rfl
    · exact ⟨List.Sublist.refl _, List.filter_sublist, rfl, rfl⟩
  armWindow p s := trims_of_touches (armWindow_touches p s)
  closeWindow s := trims_of_touches (closeWindow_touches s)
  amendRecord q f s _ := trims_of_touches (amendRecord_touches q f s)
  modifyChannel k f s _ := trims_of_touches (modifyChannel_touches k f s)
  setBlanks b s := trims_of_eq rfl
  modifyInsp j f s _ := trims_of_touches (modifyInsp_touches j f s)
  mapOrders f s _ := trims_of_eq rfl
  setFeed f c s := trims_of_eq rfl
  setFeedGate b s := trims_of_eq rfl
  removeOrder t s := trims_of_eq rfl
  refDown k s := trims_of_touches (refDown_touches k s)
  setDeliv d s _ := trims_of_eq rfl
  logBox b why s := trims_of_eq rfl
  report f s := trims_of_touches (report_touches f s)

theorem respects_trims : Respects Trims :=
  respectsPlain_trims.respects (fun q s => trims_of_eq rfl)
    (fun s => trims_of_touches (drainTest_touches s))

theorem watchLost_track (j : Fin 8) (r : Record) (s : State) : (watchLost j r s).track
    = { s.track with records := s.track.records.eraseP (fun x => x.seq == r.seq) } := by
  have h := removeRecord_track r [.lost] (makeResult j ⟨some r.seq, r.cutPitch, 0, .lost⟩
    (modifyInsp j (fun c => { c with losses := min (c.losses + 1) 255 }) s))
  unfold watchLost
  simp only
  split
  · rw [(report_touches _ _).track]
    exact h
  · exact h

theorem watchLost_deliv (j : Fin 8) (r : Record) (s : State) : (watchLost j r s).deliv = s.deliv := by
  have h := (removeRecord_touches r [.lost] (makeResult j ⟨some r.seq, r.cutPitch, 0, .lost⟩
    (modifyInsp j (fun c => { c with losses := min (c.losses + 1) 255 }) s))).deliv
  unfold watchLost
  simp only
  split
  · rw [(report_touches _ _).deliv]
    exact h
  · exact h

/-- With no record COMMITTED the replay leaves what the open box stands for. -/
theorem replay_of_opened (h : ∀ r ∈ s.track.records, r.stage = .opened) :
    replay s = (0, s.deliv.openBox.map projectedOf) := by
  have hnone : s.track.records.filter (fun r => r.stage == .committed) = [] :=
    List.filter_eq_nil_iff.mpr fun r hr => by rw [h r hr]; decide
  unfold replay
  rw [hnone]
  rfl

/-- The watch of pitch 6 looks for the blank of pitch 6 and judges it LOST. -/
theorem watchEndAt_eq {v : State} {rs : List Record} {r : Record} (hkin : Kin (taken (start total)) v)
    (hinsp : v.insp = channels) (hv : v.track.records = rs ++ [r]) (hrs : ∀ x ∈ rs, x.cutPitch ≠ 6#32)
    (hr : r.cutPitch = 6#32) : watchEndAt 0 (posPitch 21650) v = watchLost 0 r (endWatch 0 v) := by
  have hchannel : inspOf v 0 = ⟨true, .presence, 0, 0⟩ := by
    unfold inspOf
    rw [hkin.table]
    rfl
  have hpresence : isPresence v 0 = true := by
    unfold isPresence
    rw [hchannel]
    rfl
  have hwatch : (inspChannel v 0).watch = some ⟨6, false⟩ := by
    unfold inspChannel
    rw [hinsp]
    rfl
  have hsought : soughtPitch v 0 (posPitch 21650) = 6#32 := by
    unfold soughtPitch
    rw [hchannel]
    decide
  have hfind : v.track.records.find? (fun x => x.cutPitch == soughtPitch v 0 (posPitch 21650)) = some r := by
    rw [hv, hsought, List.find?_append, List.find?_eq_none.mpr (fun x hx => by simpa using hrs x hx), Option.none_or]
    simp [hr]
  have hrun : ¬ (v.line.run = .idle ∨ (6 : U32) ≠ posPitch 21650) := by
    have hrunning : v.line.run = .running := by rw [hkin.line]; rfl
    rw [hrunning]
    decide
  unfold watchEndAt
  simp only [hpresence, if_true, hwatch, if_neg hrun, hfind]

theorem AllMade.judged (h : AllMade total s) (ht : Taken s t) : Judged total t := by
  obtain ⟨e, z, m, he, _, _, rfl⟩ := ht
  rw [h.earliest he]
  obtain ⟨rs, r, hr, hrs, hcut, hseq⟩ := h.last
  obtain ⟨v, hv⟩ : ∃ v : State, v = { freeAt m s with pos := { s.pos with due := [] } } := ⟨_, rfl⟩
  have hdue : s.pos.due.erase watchEnd = [] := by rw [h.due, List.erase_cons_head]
  have htake : takeEvent z (.recurring watchEnd) (freeAt m s) = watchEndAt 0 (posPitch 21650) v := by
    rw [hv, ← hdue]
    rfl
  have hvr : v.track.records = rs ++ [r] := by rw [hv]; exact hr
  have hkin : Kin (taken (start total)) v := by
    rw [hv]
    exact h.kin.trans ⟨rfl, rfl, rfl, rfl, rfl, rfl, rfl, fun _ => rfl, rfl⟩
  have hlost := watchEndAt_eq hkin (by rw [hv]; exact h.insp) hvr hrs hcut
  have htrims : Trims v (watchEndAt 0 (posPitch 21650) v) := respects_trims.watchEndAt _ _ _
  rw [htake]
  refine ⟨?_, ?_, fun hall => ?_⟩
  · rw [htrims.phases, hv]
    exact h.phases
  · have hnone : (watchEndAt 0 (posPitch 21650) v).pos.due = [] :=
      List.sublist_nil.mp (htrims.due.trans (by rw [hv]))
    refine (dueEvents_of_ahead fun p hp => ?_).trans (by rw [hnone]; rfl)
    have hmem := htrims.schedule.mem hp
    rw [htrims.hwm]
    rw [hv] at hmem ⊢
    rw [show ({ freeAt m s with pos := { s.pos with due := [] } } : State).pos.hwm = mark from h.hwm]
    exact h.ahead p hmem
  · obtain ⟨x, xs, hx, hone, _, hopen⟩ := h.head
    have hrecords : (watchEndAt 0 (posPitch 21650) v).track.records = xs := by
      rw [hlost, watchLost_track]
      show v.track.records.eraseP _ = xs
      have hvx : v.track.records = x :: xs := by rw [hv]; exact hx
      rw [hvx, List.eraseP_cons_of_pos (by simp [hone, hseq hall])]
    have hdeliv : (watchEndAt 0 (posPitch 21650) v).deliv = s.deliv := by
      rw [hlost, watchLost_deliv]
      show v.deliv = _
      rw [hv]
      rfl
    intro hholds
    have hreplay := replay_of_opened (s := watchEndAt 0 (posPitch 21650) v) (by rw [hrecords]; exact hopen)
    unfold ProjectionHolds at hholds
    rw [hreplay, hdeliv, h.openBox, h.projected] at hholds
    exact absurd (congrArg Prod.snd hholds) (Option.some_ne_none boxAfter)

/-! ## The way -/

theorem Underway.step (hlt : total < 17179869183) (h : Underway total s) (ht : Taken s t) :
    Underway total t := by
  rcases h with rfl | hf | ⟨n, hn⟩ | ha | hj
  · exact .inr (.inl (firstMade ht))
  · exact .inr (.inr (.inl ⟨_, hf.passed ht⟩))
  · cases n with
    | zero => exact .inr (.inr (.inr (.inl (hn.allMade hlt ht))))
    | succ n => exact .inr (.inr (.inl ⟨n, hn.step hlt ht⟩))
  · exact .inr (.inr (.inr (.inr (ha.judged ht))))
  · obtain ⟨e, _, _, he, _⟩ := ht
    have hmem := mem_dueEvents_of_earliest he
    rw [hj.none] at hmem
    exact absurd hmem List.not_mem_nil

/-- A command that is neither a gate event, a delivery event nor the end of a watch comes in turn. -/
theorem inTurn_of_feed (v : State) : InTurn v .feedEvent :=
  ⟨fun _ _ _ _ h => (nomatch h), fun _ _ h => (nomatch h), fun _ _ _ _ _ h => (nomatch h)⟩

/-- Every event taken on the way comes in turn. -/
theorem Underway.inTurn (h : Underway total s) {z : Int} (he : e ∈ earliestDue s) :
    InTurn (withFirst s e) (commandOf z e) := by
  rcases h with rfl | hf | ⟨n, hn⟩ | ha | hj
  · rw [earliest_start he]
    exact inTurn_of_feed _
  · rw [hf.earliest he]
    refine ⟨fun q before r behind _ _ hr _ => ?_, fun _ _ h => (nomatch h), fun _ _ _ _ _ h => (nomatch h)⟩
    have hone : [firstBlank] = before ++ r :: behind := hf.records.symm.trans hr
    cases before with
    | nil =>
      cases hone
      exact ⟨rfl, fun _ hy => absurd hy List.not_mem_nil⟩
    | cons y ys =>
      have hlen := congrArg List.length hone
      simp at hlen
  · cases n with
    | zero => rw [hn.earliest_last he]; exact inTurn_of_feed _
    | succ n => rw [hn.earliest_feed he]; exact inTurn_of_feed _
  · rw [ha.earliest he]
    refine ⟨fun _ _ _ _ h => (nomatch h), fun _ _ h => (nomatch h), fun j x u w r hj _ _ hw hpitch _ hr => ?_⟩
    have hj0 : j = 0 := by cases hj; rfl
    subst hj0
    have hwatch : (inspChannel s 0).watch = some ⟨6, false⟩ := by
      unfold inspChannel
      rw [ha.insp]
      rfl
    have hw' : w = ⟨6, false⟩ := Option.some.inj (hw.symm.trans hwatch)
    have hstation : (inspOf (withFirst s (.recurring watchEnd)) 0).station = 0 := by
      unfold inspOf
      show (getAt s.store.inForce.insps 0).station = 0
      rw [ha.kin.table]
      rfl
    have hcut := List.find?_some hr
    rw [hstation, hw'] at hcut
    exact ha.opened (List.mem_of_find?_eq_some hr) (by simpa using hcut)
  · have hmem := mem_dueEvents_of_earliest he
    rw [hj.none] at hmem
    exact absurd hmem List.not_mem_nil

theorem judged_settle (hlt : total < 17179869183) : Judged total (settle (taken (start total))) := by
  have hnone := dueEvents_settle (taken (start total))
  rcases settle_induction (I := Underway total) (fun _ _ ht h => h.step hlt ht) (.inl rfl) with h | hf | ⟨n, hn⟩ |
    ha | hj
  · rw [h, dueEvents_start] at hnone
    exact absurd hnone (List.cons_ne_nil _ _)
  · rw [hf.dueEvents] at hnone
    simp at hnone
  · rw [hn.dueEvents, hn.due] at hnone
    simp at hnone
  · rw [ha.dueEvents, ha.due] at hnone
    exact absurd hnone (List.cons_ne_nil _ _)
  · exact hj

/-- Refutes O59: 2^32 + 1 feed events wait on an empty list, the first far ahead, and the end of a watch behind the last. The
part takes the first blank's gate event before the others; the LOST judgement of the last blank, which carries the number of
the first, removes the first, and the projected box is no longer that of the replay. -/
theorem not_replayKept : ¬ Obligations.ReplayKept := by
  rintro ⟨_, h⟩
  obtain ⟨n, hn⟩ : ∃ n, n = 4294967295 := ⟨_, rfl⟩
  have hjudged := judged_settle (total := n) (by omega)
  have hstep : step (start n) = .next (settle (taken (start n))) := step_of_standing rfl rfl hjudged.phases
  have hids : IdsFit (start n) :=
    ⟨List.nodup_singleton _, fun o ho => by rw [List.mem_singleton.mp ho]; exact (by decide : 0 < 9), fun _ hb => (nomatch hb)⟩
  have hcarries : ∀ c v, Carries (start n) c v → InTurn v c := by
    rintro c v (⟨q, hq, _⟩ | ⟨hq, _⟩ | ⟨d, q, w, hq, _, hway, hfirst⟩)
    · cases hq
      exact ⟨fun _ _ _ _ h => (nomatch h), fun _ _ h => (nomatch h), fun _ _ _ _ _ h => (nomatch h)⟩
    · cases hq
    · cases hq
      obtain ⟨htaken, _⟩ := taken_of_firedTaken (s := taken (start n)) rfl hway
      have hunder : Underway n w :=
        taken_induction (fun _ _ ht hu => hu.step (by omega) ht) (.inl rfl) htaken
      obtain ⟨e, z, he, rfl, rfl⟩ := firedFirst_iff.mp hfirst
      exact hunder.inTurn he
  exact hjudged.fails hn (h (start n) _ rfl List.Pairwise.nil hids
    ⟨List.Pairwise.nil, fun _ hr => absurd hr List.not_mem_nil⟩ (fun _ hr => absurd hr List.not_mem_nil)
    ⟨List.nodup_singleton _, rfl⟩ (fun _ hr => absurd hr List.not_mem_nil) hcarries hstep).1

end Sys2Proof.WrongOneLost
end

section
/-! SUPPORT. Laws that the takings keep. A law that every plain change keeps, and the acceptance of a blank too, is kept by
each taking of a fired event. What replies, reports and the long operations do to the parts that laws speak of is said here
once. -/

namespace Sys2Proof.Keeping

open Sys2Proof.Machine Sys2Proof.Ledger Sys2Proof.Steps Sys2Proof.Changes Sys2Proof.Taking

-- One theorem after another, as in the tests: a thread each would ask for more stack than a check may take.
set_option Elab.async false

/-- From `s` to `t` the law `P` is kept. -/
def Keeps (P : State → Prop) (s t : State) : Prop := P s → P t

variable {P : State → Prop} {s t : State}

theorem setFree_touches (n : Nat) (s : State) : Touches [.freeIndex] s { s with freeIndex := n } := by
  intro f hf; cases f <;> first | rfl | exact absurd (List.mem_singleton_self _) hf

theorem setQueue_touches (q : List Instr) (s : State) : Touches [.pending] s { s with pending := q } := by
  intro f hf; cases f <;> first | rfl | exact absurd (List.mem_singleton_self _) hf

/-! ## Reports and replies -/

/-- A report leaves the run state, or halts a line that runs or drains (09 R157). -/
theorem report_run (f : FaultKind) (s : State) : (report f s).line.run = s.line.run ∨
    (canHalt s.line.run = true ∧ (report f s).line.run = .halted) := by
  unfold report
  split
  · exact .inl rfl
  · simp only
    split
    · next h =>
      simp only [Bool.and_eq_true] at h
      exact .inr ⟨h.2, rfl⟩
    · rw [(offer_touches _ _).line]
      exact .inl rfl

theorem giveReply_run (place : Option (List Byte × Nat)) (r : Reply) (s : State) :
    (giveReply place r s).line.run = s.line.run ∧ (giveReply place r s).line.faults = s.line.faults := by
  unfold giveReply
  simp only
  split
  · exact ⟨rfl, rfl⟩
  · unfold passFrame
    split <;> exact ⟨rfl, rfl⟩

/-! ## Takings and ends of speed windows -/

/-- The acceptance of a blank, as the record made and what stays. -/
theorem acceptBlank_touches (p : U32) (o : Order) (s : State) :
    Touches [.track, .store, .counters, .pos, .app, .orders] s (acceptBlank p o s) := by
  have hmade := (createRecord_touches (newRecord s p o) s).andThen (announce_touches (newRecord s p o) _)
    (hs := [.track, .store, .counters, .pos, .app, .orders]) (by decide) (by decide)
  exact (hmade.trans ((countdownStep_touches _).mono (by decide))).trans ((setFeedGate_touches _ _).mono (by decide))

theorem acceptBlank_track (p : U32) (o : Order) (s : State) :
    (acceptBlank p o s).track = ⟨s.track.records ++ [newRecord s p o], s.track.nextSeq + 1#32⟩ := rfl

/-- A blank is accepted in RUNNING and FEEDING alone, for the ACTIVE order (07 R125). -/
theorem acceptingOrder_some {o : Order} (h : acceptingOrder s = some o) : activeOrder s = some o ∧
    s.line.run = .running ∧ s.orders.feedState = .feeding ∧ holdReasons s = 0#5 ∧ 0 < needOf s o := by
  unfold acceptingOrder at h
  split at h
  · next x hx =>
    split at h
    · next hc =>
      cases h
      exact ⟨hx, hc⟩
    · cases h
  · cases h

/-- What every plain change and the scheduling of ends keep, with the acceptance of a blank and the loss of a fired event,
each taking keeps. -/
theorem takesKeep (E : RespectsEnds (Keeps P)) (free : ∀ (n : Nat) (s : State), P s → P { s with freeIndex := n })
    (dropDue : ∀ (f : Fired) (s : State), P s → P { s with pos := { s.pos with due := s.pos.due.erase f } })
    (accept : ∀ (p : U32) (o : Order) (s : State), acceptingOrder s = some o → P s → P (acceptBlank p o s)) :
    TakesKeep P where
  free := free
  recurring f s _ h := by
    have hdrop := dropDue f s h
    cases he : f.event with
    | feed => exact E.feedAt _ _ (fun o t ho => accept _ o t ho) hdrop
    | captureArm => exact E.armWindow _ _ hdrop
    | windowClose => exact E.closeWindow _ hdrop
    | watchOpen j => exact E.watchOpenAt j _ _ hdrop
    | watchEnd j => exact E.watchEndAt j _ _ hdrop
  scheduled p z s _ _ h := E.firePending p z _ (E.unschedule p s h)

/-- A speed window that has ended: the new V and the next window's start and count (01 R18). -/
def windowEnded (s : State) : State :=
  { timeAtLeast s.pos.windowStart 10000 s with
    pos := { (timeAtLeast s.pos.windowStart 10000 s).pos with
      windowStart := s.pos.windowStart + 10000#32, windowCount := 0, speed := min s.pos.windowCount 4095 } }

/-- The end of a speed window, as the changes that make it (01 R18, 05 R82). -/
theorem respects_endWindow {R : State → State → Prop} (E : RespectsEnds R) (s : State) (clock : R s (windowEnded s))
    (leads : ∀ p v, R v (computeLeads p v)) (move : ∀ v, R v (moveEvents v)) : R s (endWindow s) := by
  unfold endWindow
  simp only
  split
  · exact clock
  · exact E.trans clock (E.trans (E.trans (E.trans (E.takeFiredApps _) (leads _ _)) (move _)) (E.takeFiredApps _))

theorem windowEnded_touches (s : State) : Touches [.pos] s (windowEnded s) :=
  (timeAtLeast_touches s.pos.windowStart 10000 s).trans (setPos_touches _ _)

/-! ## IDLE -/

/-- The line is IDLE. -/
def Idle (s : State) : Prop := s.line.run = .idle

theorem idle_of_touches {fs : List StateField} (ht : Touches fs s t) (kl : .line ∉ fs := by decide) (h : Idle s) :
    Idle t := by
  unfold Idle
  rw [ht.line kl]
  exact h

theorem idle_report (f : FaultKind) (s : State) (h : Idle s) : Idle (report f s) := by
  rcases report_run f s with hr | ⟨hr, _⟩
  · exact hr.trans h
  · rw [show s.line.run = .idle from h] at hr
    cases hr

theorem respectsPlain_idle : RespectsPlain (Keeps Idle) where
  refl _ h := h
  trans h g k := g (h k)
  offer n s := idle_of_touches (offer_touches n s)
  count c s := idle_of_touches (count_touches c s)
  withdraw p s := idle_of_touches (withdraw_touches p s)
  unschedule e s := idle_of_touches (setSchedule_touches _ s)
  switchTo src s := idle_of_touches (switchTo_touches src s)
  armWindow p s := idle_of_touches (armWindow_touches p s)
  closeWindow s := idle_of_touches (closeWindow_touches s)
  amendRecord q f s _ := idle_of_touches (amendRecord_touches q f s)
  modifyChannel k f s _ := idle_of_touches (modifyChannel_touches k f s)
  setBlanks b s := idle_of_touches (setBlanks_touches b s)
  modifyInsp j f s _ := idle_of_touches (modifyInsp_touches j f s)
  mapOrders f s _ := idle_of_touches (setOrders_touches _ s)
  setFeed f c s := idle_of_touches (setOrders_touches _ s)
  setFeedGate b s := idle_of_touches (setFeedGate_touches b s)
  removeOrder t s := idle_of_touches (setOrders_touches _ s)
  refDown k s := idle_of_touches (refDown_touches k s)
  setDeliv d s _ := idle_of_touches (setDeliv_touches d s)
  logBox b why s := idle_of_touches (setDeliv_touches _ s)
  report := idle_report

theorem respectsEnds_idle : RespectsEnds (Keeps Idle) where
  toRespects := respectsPlain_idle.respects (fun _ s => idle_of_touches (setTrack_touches _ s)) (fun s h => by
    unfold drainTest
    split
    · rfl
    · exact h)
  schedule e s _ := idle_of_touches (schedule_touches e s)

/-- In IDLE the takings leave the line IDLE. -/
theorem takesKeep_idle : TakesKeep Idle :=
  takesKeep respectsEnds_idle (fun n s => idle_of_touches (setFree_touches n s))
    (fun _ s => idle_of_touches (setDue_touches _ s)) (fun p o s _ => idle_of_touches (acceptBlank_touches p o s))

/-! ## Frames -/

theorem passFrame_run (f : List Byte) (s : State) : (passFrame f s).line.run = s.line.run := by
  unfold passFrame
  split <;> rfl

/-! ## Effects as the changes that make them -/

/-- An order that is queued (07 R117): it joins the list under its reference count, and then plain changes follow. -/
theorem respects_enqueue {R : State → State → Prop} (E : RespectsPlain R) (o : Order) (s : State)
    (join : R s (refUp o.slot (joinList o s))) : R s (enqueue o s) := by
  have h := E.trans join (E.updateSource _)
  unfold enqueue
  simp only
  split
  · exact E.trans h (E.select _)
  · exact E.ite (fun _ => E.trans h (E.reexamine _)) (fun _ => h)
  · exact h
  · exact h

/-- A frame that arrives (11 R173 to R183). -/
theorem keeps_frameArrival (ring : ∀ (x : RingPort) (s : State), P s → P { s with ring := x })
    (reset : ∀ pins s, P (takeReset pins s)) (report : ∀ f s, P s → P (report f s)) (takes : ∀ n s, P s → P (takes n s))
    (pass : ∀ f s, P s → P (passFrame f s)) (f : List Byte) (h : P s) : P (frameArrival f s) := by
  have hreceive (v : State) (hv : P v) : P (receiveFrame f v) := by
    have hnote : P (noteFrame f v) := ring _ v hv
    have hstop : P (reportStop f (noteFrame f v)) := by
      unfold reportStop
      split
      · exact report _ _ hnote
      · exact hnote
    have htakes : P (readTakes f (reportStop f (noteFrame f v))) := by
      unfold readTakes
      split
      · exact hstop
      · simp only
        split
        · exact ring _ _ hstop
        · split
          · exact takes _ _ (ring _ _ hstop)
          · exact ring _ _ hstop
    unfold receiveFrame
    split
    · exact ring _ v hv
    · split
      · exact ring _ v hv
      · exact pass _ _ htakes
  unfold frameArrival
  split
  · exact ring _ s h
  · split
    · exact h
    · refine hreceive _ ?_
      unfold resetBeforeFrame fullReset
      split
      · exact reset _ s
      · exact h

/-- A phase pair (01 R10 to R12), for a law that says nothing of the Position Unit. -/
theorem keeps_encoderMove (pos : ∀ (x : PositionUnit) (s : State), P s → P { s with pos := x })
    (report : ∀ f s, P s → P (report f s)) (pair : PhasePair) (h : P s) : P (encoderMove pair s) := by
  unfold encoderMove
  split
  · exact h
  · have ht := pos { s.pos with phases := pair } s h
    simp only
    split
    · unfold forwardStep
      split
      · exact pos _ _ ht
      · exact pos _ _ ht
    · split
      · unfold reverseStep
        split
        · exact report _ _ ht
        · simp only
          split
          · exact report _ _ (pos _ s h)
          · exact pos _ s h
      · exact report _ _ ht

/-- A watchdog that expires (11 R177), for a law that says nothing of the Position Unit. -/
theorem keeps_watchdogExpiry (pos : ∀ (x : PositionUnit) (s : State), P s → P { s with pos := x })
    (ring : ∀ (x : RingPort) (s : State), P s → P { s with ring := x }) (report : ∀ f s, P s → P (report f s)) (h : P s) :
    P (watchdogExpiry s) := by
  unfold watchdogExpiry
  split
  · refine report _ _ (ring _ _ ?_)
    unfold timeAtLeast
    split
    · exact pos _ s h
    · exact h
  · exact h

theorem keeps_gumPressure (report : ∀ f s, P s → P (report f s)) (z : Int) (h : P s) : P (gumPressure z s) := by
  unfold gumPressure
  split
  · exact h
  · split
    · exact report _ _ h
    · exact h

/-- POSITION_SET, for a law that says nothing of the Position Unit and of the two outputs. -/
theorem keeps_positionSet (K : TakesKeep P) (pos : ∀ (x : PositionUnit) (s : State), P s → P { s with pos := x })
    (ends : ∀ s, P s → P (fireEnds s)) (a : List Byte) (h : P s) : P (positionSet a s).1 := by
  unfold positionSet
  simp only
  split
  · exact h
  · split
    · exact h
    · exact ends _ (pos _ _ (K.settle h))

/-- MACHINE_TABLE_APPLY: refused, failed or taken (02 R23). -/
theorem keeps_machineTableApply (K : TakesKeep P)
    (invalid : P { s with store := { s.store with validity := .invalid } })
    (apply : ∀ levels s, s.line.run = .idle → P s → P (applyTable levels s)) (lock : Bool) (levels : BitVec 16) (h : P s) :
    P (machineTableApply lock levels s).1 := by
  unfold machineTableApply
  split
  · exact h
  · next hg =>
    split
    · exact invalid
    · have hidle : s.line.run = .idle := by
        unfold tableGuards at hg
        split at hg
        · cases hg
        · split at hg
          · cases hg
          · next hr => simpa using hr
      exact apply levels _ (takesKeep_idle.settle hidle) (K.settle h)

theorem keeps_fullReset (reset : ∀ pins s, P (takeReset pins s)) (pins : ResetPins) (h : P s) : P (fullReset pins s) := by
  unfold fullReset
  split
  · exact reset pins s
  · exact h

end Sys2Proof.Keeping
end

section
/-! SUPPORT. The run state and the Transit List: IDLE has an empty list, DRAINING one that is not (09 R153, R154). -/

namespace Sys2Proof.RunLaw

open Sys2Proof.Machine Sys2Proof.Ledger Sys2Proof.Steps Sys2Proof.Changes Sys2Proof.Taking Sys2Proof.Keeping

-- One theorem after another, as in the tests: a thread each would ask for more stack than a check may take.
set_option Elab.async false

variable {s t : State}

theorem runFits_of_eq (hrun : t.line.run = s.line.run) (hlist : t.track.records = [] ↔ s.track.records = [])
    (h : RunFits s) : RunFits t :=
  ⟨fun k => hlist.mpr (h.1 (hrun ▸ k)), fun k e => h.2 (hrun ▸ k) (hlist.mp e)⟩

theorem runFits_of_touches {fs : List StateField} (ht : Touches fs s t) (kl : .line ∉ fs := by decide)
    (kt : .track ∉ fs := by decide) (h : RunFits s) : RunFits t :=
  runFits_of_eq (by rw [ht.line kl]) (by rw [ht.track kt]) h

/-- Outside IDLE and DRAINING the law asks for nothing. -/
theorem runFits_of_run (hi : t.line.run ≠ .idle) (hd : t.line.run ≠ .draining) : RunFits t :=
  ⟨fun k => absurd k hi, fun k => absurd k hd⟩

theorem runFits_of_nil (hi : t.line.run = .idle) (hn : t.track.records = []) : RunFits t :=
  ⟨fun _ => hn, fun k => by rw [hi] at k; cases k⟩

theorem runFits_report (f : FaultKind) (s : State) (h : RunFits s) : RunFits (report f s) := by
  rcases report_run f s with hr | ⟨_, hr⟩
  · exact runFits_of_eq hr (by rw [(report_touches f s).track]) h
  · exact runFits_of_run (by rw [hr]; decide) (by rw [hr]; decide)

/-- A removal that empties the list in DRAINING makes the run state IDLE (09 R154). -/
theorem runFits_drainTest (s : State) (h : s.line.run = .idle → s.track.records = []) : RunFits (drainTest s) := by
  unfold drainTest
  split
  · next hc => exact runFits_of_nil rfl hc.1
  · next hc => exact ⟨h, fun hd he => hc ⟨he, hd⟩⟩

theorem removeRecord_eq_drainTest (r : Record) (cs : List Counter) (s : State) : ∃ v, removeRecord r cs s = drainTest v ∧
    v.line = s.line ∧ v.track.records = s.track.records.eraseP (fun x => x.seq == r.seq) := by
  refine ⟨_, rfl, ?_, ?_⟩
  · rw [(completionTest_touches _ _).line, withdraw_line, (removalInsp_touches _ _).line, (removalApp_touches _ _).line,
      (countAll_touches _ _).line, refDown_line]
  · rw [(completionTest_touches _ _).track, withdraw_track, (removalInsp_touches _ _).track, (removalApp_touches _ _).track,
      (countAll_touches _ _).track, refDown_track]

theorem runFits_removeRecord (r : Record) (cs : List Counter) (s : State) (h : RunFits s) :
    RunFits (removeRecord r cs s) := by
  obtain ⟨v, hv, hline, hrecords⟩ := removeRecord_eq_drainTest r cs s
  rw [hv]
  refine runFits_drainTest v (fun hi => ?_)
  rw [hrecords, h.1 (hline ▸ hi)]
  rfl

theorem respectsPlain_runFits : RespectsPlain (Keeps RunFits) where
  refl _ h := h
  trans h g k := g (h k)
  offer n s := runFits_of_touches (offer_touches n s)
  count c s := runFits_of_touches (count_touches c s)
  withdraw p s := runFits_of_touches (withdraw_touches p s)
  unschedule e s := runFits_of_touches (setSchedule_touches _ s)
  switchTo src s := runFits_of_touches (switchTo_touches src s)
  armWindow p s := runFits_of_touches (armWindow_touches p s)
  closeWindow s := runFits_of_touches (closeWindow_touches s)
  amendRecord q f s _ := runFits_of_eq rfl (by simp)
  modifyChannel k f s _ := runFits_of_touches (modifyChannel_touches k f s)
  setBlanks b s := runFits_of_touches (setBlanks_touches b s)
  modifyInsp j f s _ := runFits_of_touches (modifyInsp_touches j f s)
  mapOrders f s _ := runFits_of_touches (setOrders_touches _ s)
  setFeed f c s := runFits_of_touches (setOrders_touches _ s)
  setFeedGate b s := runFits_of_touches (setFeedGate_touches b s)
  removeOrder t s := runFits_of_touches (setOrders_touches _ s)
  refDown k s := runFits_of_touches (refDown_touches k s)
  setDeliv d s _ := runFits_of_touches (setDeliv_touches d s)
  logBox b why s := runFits_of_touches (setDeliv_touches _ s)
  report f s := runFits_report f s

theorem respectsEnds_runFits : RespectsEnds (Keeps RunFits) where
  toRespectsPlain := respectsPlain_runFits
  removeRecord := runFits_removeRecord
  schedule e s _ := runFits_of_touches (schedule_touches e s)

theorem takesKeep_runFits : TakesKeep RunFits :=
  takesKeep respectsEnds_runFits (fun n s => runFits_of_touches (setFree_touches n s))
    (fun _ s => runFits_of_touches (setDue_touches _ s))
    (fun p o s ho _ => by
      have hrun : (acceptBlank p o s).line.run = .running := by
        rw [(acceptBlank_touches p o s).line]
        exact (acceptingOrder_some ho).2.1
      exact runFits_of_run (by rw [hrun]; decide) (by rw [hrun]; decide))

theorem runFits_leave (s : State) (h : State → State) (hrun : (h s).line.run = drainTarget s)
    (htrack : (h s).track = s.track) : RunFits (h s) := by
  by_cases hn : s.track.records = []
  · exact runFits_of_nil (by rw [hrun, drainTarget, if_pos hn]) (by rw [htrack]; exact hn)
  · refine ⟨fun k => ?_, fun _ => by rw [htrack]; exact hn⟩
    rw [hrun, drainTarget, if_neg hn] at k
    cases k

theorem runFits_lineDrain (s : State) (h : RunFits s) : RunFits (lineDrain s).1 := by
  unfold lineDrain
  split
  · exact h
  · exact h
  · exact runFits_leave s (setRun (drainTarget s)) rfl rfl
  · split
    · exact h
    · exact runFits_leave s (leaveHalted (drainTarget s)) (by rw [leaveHalted_line]) (leaveHalted_track s _)

theorem clearFault_run (z : Int) (s : State) (f : FaultKind) : (clearFault z s f).line.run = s.line.run := by
  unfold clearFault
  split
  · cases f with
    | tracking => exact (congrArg LineControl.run (clearLosses_touches (unlatch .tracking s)).line).trans rfl
    | _ => rfl
  · rfl

theorem clearStatus_run (z : Int) (s : State) : (clearStatus z s).1.line.run = s.line.run := by
  have h : ∀ (fs : List FaultKind) (t : State), (fs.foldl (clearFault z) t).line.run = t.line.run := by
    intro fs
    induction fs with
    | nil => exact fun _ => rfl
    | cons f fs ih => exact fun t => (ih _).trans (clearFault_run z t f)
  exact h allFaults s

theorem runFits_reset (pins : ResetPins) (s : State) : RunFits (takeReset pins s) := runFits_of_nil rfl rfl

theorem runFits_setPos (x : PositionUnit) (s : State) : RunFits s → RunFits { s with pos := x } :=
  runFits_of_touches (setPos_touches x s)

theorem runFits_setRing (x : RingPort) (s : State) : RunFits s → RunFits { s with ring := x } :=
  runFits_of_touches (setRing_touches x s)

theorem runFits_effect (c : Instr) (s : State) (hc : isStation c = false) (h : RunFits s) : RunFits (effect c s) := by
  have K := takesKeep_runFits
  have E := respectsEnds_runFits
  cases c <;> try cases hc
  case positionSet a =>
    exact keeps_positionSet K runFits_setPos (fun v => runFits_of_touches (fireEnds_touches v)) a h
  case machineTableApply a lock levels =>
    exact keeps_machineTableApply K (runFits_of_touches (setStore_touches _ s) (h := h))
      (fun levels v _ => runFits_of_touches (applyTable_touches levels v)) lock levels h
  case orderAbort a => exact E.orderAbort a s h
  case lineStart a =>
    show RunFits (lineStart s).1
    unfold lineStart
    split
    · exact h
    · split
      · exact h
      · split
        · exact h
        · exact runFits_of_run (t := setRun .running s) nofun nofun
  case lineDrain a => exact runFits_lineDrain s h
  case lineResume a =>
    show RunFits (lineResume s).1
    unfold lineResume
    split
    · exact runFits_of_run (t := leaveHalted .running s) nofun nofun
    · exact h
  case linePurge a => exact E.linePurge s h
  case clearStatus a z =>
    exact runFits_of_eq (clearStatus_run z s) (by rw [show effect (.clearStatus a z) s = (clearStatus z s).1 from rfl,
      (clearStatus_touches z s).track]) h
  case resetFull a => exact runFits_of_eq rfl Iff.rfl h
  case fullReset pins => exact keeps_fullReset runFits_reset pins h
  case powerOnReset pins => exact runFits_reset pins s
  case frameArrival f =>
    exact keeps_frameArrival runFits_setRing runFits_reset runFits_report (fun n v => runFits_of_touches (takes_touches n v))
      (fun g v => runFits_of_eq (passFrame_run g v) (by rw [(passFrame_touches g v).track])) f h
  case watchdogExpiry => exact keeps_watchdogExpiry runFits_setPos runFits_setRing runFits_report h
  case encoderStep pair => exact keeps_encoderMove runFits_setPos runFits_report pair (K.settle h)
  case speedWindowEnd =>
    exact respects_endWindow E s (runFits_of_touches (windowEnded_touches s))
      (fun p v => runFits_of_touches (computeLeads_touches p v)) (fun v => runFits_of_touches (moveEvents_touches v)) h
  case gumPressureLow z => exact keeps_gumPressure runFits_report z h
  all_goals exact runFits_of_touches (effect_touches _ s) (by simp [effectFields]) (by simp [effectFields]) h

/-- Every step keeps the Transit List empty in IDLE and not empty in DRAINING. -/
theorem step_runFits (h : RunFits s) (hstep : step s = .next t) : RunFits t :=
  StepKeeps.step (P := RunFits)
    { takes := takesKeep_runFits
      weaken := fun _ h => h
      queue := fun q s => runFits_of_touches (setQueue_touches q s)
      reply := fun place r s => runFits_of_eq (giveReply_run place r s).1 (by rw [(giveReply_touches place r s).track])
      effect := fun c s hc _ => runFits_effect c s hc
      microsecond := fun s => runFits_of_touches (setPos_touches _ s)
      completions := fun s h => runFits_of_touches (clearCompletion_touches _)
        (h := runFits_of_touches (checkCompletion_touches s) (h := h)) } h hstep

end Sys2Proof.RunLaw
end

section
/-! SUPPORT. The trim and the trim limits: both lie within 1800 (04 R66, 02 R29). -/

namespace Sys2Proof.TrimLaw

open Sys2Proof.Machine Sys2Proof.Ledger Sys2Proof.Steps Sys2Proof.Changes Sys2Proof.Taking Sys2Proof.Keeping

-- One theorem after another, as in the tests: a thread each would ask for more stack than a check may take.
set_option Elab.async false

variable {s t : State}

theorem trimFits_of_eq (htrim : t.reg.trim = s.reg.trim) (hrecipes : ∀ k, recipeOf t k = recipeOf s k) (h : TrimFits s) :
    TrimFits t :=
  ⟨htrim ▸ h.1, fun k => by rw [hrecipes]; exact h.2 k⟩

theorem trimFits_of_touches {fs : List StateField} (ht : Touches fs s t) (kr : .reg ∉ fs := by decide)
    (ks : .store ∉ fs := by decide) (h : TrimFits s) : TrimFits t :=
  trimFits_of_eq (by rw [ht.reg kr]) (fun k => by unfold recipeOf; rw [ht.store ks]) h

theorem recipeOf_modifySlot (k i : Fin 8) (f : Slot → Slot) (s : State) : recipeOf (modifySlot k f s) i
    = if i = k then (f (getAt s.store.slots i)).recipe else recipeOf s i := by
  unfold recipeOf
  rw [getAt_modifySlot]
  split <;> rfl

/-- A slot changed in a way that leaves its recipe, or gives it one whose trim limit lies in range. -/
theorem trimFits_modifySlot (k : Fin 8) (f : Slot → Slot) (s : State)
    (hf : ∀ x, x.recipe.register.tlim ≤ 1800 → (f x).recipe.register.tlim ≤ 1800) (h : TrimFits s) :
    TrimFits (modifySlot k f s) := by
  refine ⟨h.1, fun i => ?_⟩
  rw [recipeOf_modifySlot]
  split
  · exact hf _ (h.2 i)
  · exact h.2 i

theorem switchedUnit_trim (a b : Option RegisterSettings) (u : RegisterUnit) : (switchedUnit a b u).trim = u.trim := by
  unfold switchedUnit
  split
  · rfl
  · rfl
  · rfl
  · split <;> rfl

theorem movedUnit_trim (g : RegisterSettings) (c : Option Bool) (u : RegisterUnit) : (movedUnit g c u).trim = u.trim := by
  unfold movedUnit
  simp only
  split <;> first | rfl | (split <;> rfl)

/-- What is clamped to a limit lies within it. -/
theorem natAbs_clampTo_le (n : Nat) (x : Int) : (clampTo n x).natAbs ≤ n := by
  unfold clampTo
  omega

theorem trimFits_switchTo (src : Option (Fin 8)) (s : State) (h : TrimFits s) : TrimFits (switchTo src s) := by
  refine trimFits_of_eq ?_ (fun _ => by unfold recipeOf; rw [(switchTo_touches src s).store]) h
  unfold switchTo
  simp only
  split
  · exact switchedUnit_trim _ _ _
  · exact switchedUnit_trim _ _ _

theorem trimFits_closeWindow (s : State) (h : TrimFits s) : TrimFits (closeWindow s) := by
  have hrecipes (k : Fin 8) : recipeOf (closeWindow s) k = recipeOf s k := by
    unfold recipeOf; rw [(closeWindow_touches s).store]
  refine ⟨?_, fun k => by rw [hrecipes]; exact h.2 k⟩
  unfold closeWindow
  split
  · next w g _ hg =>
    have hlimit : g.tlim ≤ 1800 := by
      unfold sectionInForce sectionOf at hg
      split at hg
      · cases hg
      · split at hg
        · cases hg; exact h.2 _
        · cases hg
    split
    · exact h.1
    · unfold closeCapture
      split
      · simp only
        split
        · exact (natAbs_clampTo_le _ _).trans hlimit
        · rw [count_reg]
          exact (natAbs_clampTo_le _ _).trans hlimit
      · rw [count_reg]
        show (movedUnit g none s.reg).trim.natAbs ≤ 1800
        rw [movedUnit_trim]
        exact h.1
  · exact h.1

theorem trimFits_armWindow (p : U32) (s : State) (h : TrimFits s) : TrimFits (armWindow p s) := by
  unfold armWindow
  split
  · exact h
  · exact trimFits_of_eq rfl (fun _ => rfl) h

theorem respectsPlain_trimFits : RespectsPlain (Keeps TrimFits) where
  refl _ h := h
  trans h g k := g (h k)
  offer n s := trimFits_of_touches (offer_touches n s)
  count c s := trimFits_of_touches (count_touches c s)
  withdraw p s := trimFits_of_touches (withdraw_touches p s)
  unschedule e s := trimFits_of_touches (setSchedule_touches _ s)
  switchTo := trimFits_switchTo
  armWindow := trimFits_armWindow
  closeWindow := trimFits_closeWindow
  amendRecord q f s _ := trimFits_of_touches (amendRecord_touches q f s)
  modifyChannel k f s _ := trimFits_of_touches (modifyChannel_touches k f s)
  setBlanks b s := trimFits_of_touches (setBlanks_touches b s)
  modifyInsp j f s _ := trimFits_of_touches (modifyInsp_touches j f s)
  mapOrders f s _ := trimFits_of_touches (setOrders_touches _ s)
  setFeed f c s := trimFits_of_touches (setOrders_touches _ s)
  setFeedGate b s := trimFits_of_touches (setFeedGate_touches b s)
  removeOrder t s := trimFits_of_touches (setOrders_touches _ s)
  refDown k s := trimFits_modifySlot k _ s (fun _ hx => hx)
  setDeliv d s _ := trimFits_of_touches (setDeliv_touches d s)
  logBox b why s := trimFits_of_touches (setDeliv_touches _ s)
  report f s := trimFits_of_touches (report_touches f s)

theorem respectsEnds_trimFits : RespectsEnds (Keeps TrimFits) where
  toRespects := respectsPlain_trimFits.respects (fun _ s => trimFits_of_touches (setTrack_touches _ s))
    (fun s => trimFits_of_touches (drainTest_touches s))
  schedule e s _ := trimFits_of_touches (schedule_touches e s)

theorem trimFits_acceptBlank (p : U32) (o : Order) (s : State) (h : TrimFits s) : TrimFits (acceptBlank p o s) :=
  trimFits_of_eq (s := s) (t := acceptBlank p o s) rfl
    (fun k => Flood.recipeOf_createRecord (newRecord s p o) s k) h

theorem takesKeep_trimFits : TakesKeep TrimFits :=
  takesKeep respectsEnds_trimFits (fun n s => trimFits_of_touches (setFree_touches n s))
    (fun _ s => trimFits_of_touches (setDue_touches _ s)) (fun p o s _ => trimFits_acceptBlank p o s)

/-! ## Recipes written -/

theorem checked_item {α : Type} {oks : List Bool} {x y : α} (h : checked oks x = .item y) :
    y = x ∧ ∀ b ∈ oks, b = true := by
  have hall : ∀ oks : List Bool, firstBad oks = none → ∀ b ∈ oks, b = true := by
    intro oks
    induction oks with
    | nil => exact fun _ _ hb => absurd hb List.not_mem_nil
    | cons b bs ih =>
      intro hnone
      cases b with
      | false => cases hnone
      | true =>
        have hbs : firstBad bs = none := by simpa [firstBad] using hnone
        intro c hc
        rcases List.mem_cons.mp hc with rfl | hc
        · rfl
        · exact ih hbs c hc
  unfold checked at h
  split at h
  · cases h
  · next hn => cases h; exact ⟨rfl, hall oks hn⟩

/-- A register section within the write ranges has its trim limit in range (02 R29). -/
theorem tlim_of_parsed {len kind index : Nat} {b : List Byte} {g : RegisterSettings}
    (h : parseRecipeItem len kind index b = .item (.register g)) : g.tlim ≤ 1800 := by
  have hregister (h : parseRegister b = .item (.register g)) : g.tlim ≤ 1800 := by
    obtain ⟨hg, hall⟩ := checked_item h
    cases hg
    have hb := hall (within 0 1800 (u16 b 8)) (by simp)
    simp only [within, Bool.and_eq_true, decide_eq_true_eq] at hb
    exact hb.2
  have hother {x : RecipeItem} {oks : List Bool} (hx : ∀ g, x ≠ .register g)
      (h : checked oks x = .item (.register g)) : False := hx g (checked_item h).1.symm
  unfold parseRecipeItem at h
  split at h
  · split at h
    · exact (hother (by nofun) h).elim
    · cases h
  · split at h
    · exact hregister h
    · cases h
  · split at h
    · exact (hother (by nofun) h).elim
    · cases h
  · split at h
    · exact (hother (by nofun) h).elim
    · cases h
  · split at h
    · exact (hother (by nofun) h).elim
    · cases h
  · split at h
    · exact (hother (by nofun) h).elim
    · cases h
  · cases h

theorem trimFits_recipeWrite (a : List Byte) (lock : Bool) (s : State) (h : TrimFits s) :
    TrimFits (recipeWrite a lock s).1 := by
  unfold recipeWrite
  split
  · exact h
  · split
    · exact h
    · exact h
    · next x hx =>
      split
      · exact h
      · split
        · exact h
        · refine trimFits_modifySlot _ _ s (fun y hy => ?_) h
          cases x with
          | register g => exact tlim_of_parsed hx
          | _ => exact hy

theorem trimFits_recipeEdit (a : List Byte) (lock : Bool) (s : State) (h : TrimFits s) :
    TrimFits (recipeEdit a lock s).1 := by
  have hstate (k : Fin 8) (x : SlotState) (v : State) (hv : TrimFits v) : TrimFits (setSlotState k x v) :=
    trimFits_modifySlot k _ v (fun _ hx => hx) hv
  unfold recipeEdit
  split
  · exact h
  · split
    · exact h
    · split
      · exact h
      · simp only
        split
        · exact hstate _ _ _ (trimFits_modifySlot _ _ s (fun _ _ => Nat.zero_le _) h)
        · exact h
        · split
          · exact hstate _ _ s h
          · exact h
        · exact h
        · exact h

theorem trimFits_applyTable (levels : BitVec 16) (s : State) (h : TrimFits s) : TrimFits (applyTable levels s) := by
  have hpart : TrimFits (applyWatchdog s.store.working (applyLines s.store.working levels
      { s with store := { s.store with inForce := s.store.working, validity := .valid },
               insp := Vector.replicate 8 InspChannel.initial })) := trimFits_of_eq rfl (fun _ => rfl) h
  exact trimFits_of_touches (computeLeads_touches _ _) (h := hpart)

theorem trimFits_reset (pins : ResetPins) (s : State) : TrimFits (takeReset pins s) := by
  refine ⟨by show (0 : Int).natAbs ≤ 1800; decide, fun k => ?_⟩
  have hk : recipeOf (takeReset pins s) k = Recipe.initial := congrArg Slot.recipe (getAt_replicate _ k)
  rw [hk]
  exact Nat.zero_le _

theorem trimFits_markEdge (l : Fin 16) (s : State) (h : TrimFits s) : TrimFits (markEdge l s) := by
  unfold markEdge
  split
  · split
    · exact trimFits_of_eq rfl (fun _ => rfl) h
    · exact h
  · exact h

theorem trimFits_edgeAt (l : Fin 16) (level : Bool) (s : State) (h : TrimFits s) : TrimFits (edgeAt l level s) := by
  have hset : TrimFits (setLevel l level s) := trimFits_of_touches (setLevel_touches l level s) (h := h)
  unfold edgeAt
  split
  · exact h
  · split
    · exact h
    · refine trimFits_of_touches (takeEdge_touches l level _) (h := trimFits_of_touches (inspEdge_touches l level _) (h := ?_))
      split
      · exact trimFits_markEdge l _ hset
      · exact hset

theorem trimFits_setPos (x : PositionUnit) (s : State) : TrimFits s → TrimFits { s with pos := x } :=
  trimFits_of_touches (setPos_touches x s)

theorem trimFits_setRing (x : RingPort) (s : State) : TrimFits s → TrimFits { s with ring := x } :=
  trimFits_of_touches (setRing_touches x s)

theorem trimFits_completeCheck (k : Fin 8) (s : State) (h : TrimFits s) : TrimFits (completeCheck k s) := by
  have hstate (x : SlotState) (m : ManagementUnit) : TrimFits { setSlotState k x s with mgmt := m } :=
    trimFits_of_eq rfl (fun _ => rfl) (trimFits_modifySlot k (fun t => { t with state := x }) s (fun _ hx => hx) h)
  unfold completeCheck
  split <;> exact trimFits_of_touches (offer_touches _ _) (h := hstate _ _)

theorem trimFits_completions (s : State) (h : TrimFits s) :
    TrimFits (checkCompletion s) ∧ TrimFits (clearCompletion s) := by
  refine ⟨?_, ?_⟩
  · unfold checkCompletion
    split
    · exact trimFits_completeCheck _ s h
    · exact h
  · unfold clearCompletion
    split
    · next k _ =>
      have hcleared := trimFits_modifySlot k (fun t => { t with recipe := Recipe.initial }) s (fun _ _ => Nat.zero_le _) h
      have hempty := trimFits_modifySlot k (fun t => { t with state := .empty }) _ (fun _ hx => hx) hcleared
      exact trimFits_of_touches (offer_touches _ _) (h := trimFits_of_eq rfl (fun _ => rfl) hempty)
    · exact h

theorem trimFits_effect (c : Instr) (s : State) (hc : isStation c = false) (h : TrimFits s) : TrimFits (effect c s) := by
  have K := takesKeep_trimFits
  have E := respectsEnds_trimFits
  have hslot (k : Fin 8) (x : SlotState) (m : ManagementUnit) : TrimFits { setSlotState k x s with mgmt := m } :=
    trimFits_of_eq rfl (fun _ => rfl) (trimFits_modifySlot k (fun t => { t with state := x }) s (fun _ hx => hx) h)
  cases c <;> try cases hc
  case positionSet a =>
    exact keeps_positionSet K trimFits_setPos (fun v => trimFits_of_touches (fireEnds_touches v)) a h
  case machineTableWrite a lock =>
    show TrimFits (machineTableWrite a lock s).1
    unfold machineTableWrite
    split
    · exact h
    · exact h
    · split
      · exact h
      · exact trimFits_of_eq rfl (fun _ => rfl) h
  case machineTableApply a lock levels =>
    exact keeps_machineTableApply (P := TrimFits) K (trimFits_of_eq rfl (fun _ => rfl) h)
      (fun levels v _ => trimFits_applyTable levels v) lock levels h
  case recipeEdit a lock => exact trimFits_recipeEdit a lock s h
  case recipeWrite a lock => exact trimFits_recipeWrite a lock s h
  case recipeCheck a =>
    show TrimFits (recipeCheck a s).1
    unfold recipeCheck
    split
    · exact h
    · split
      · exact h
      · exact hslot _ _ _
  case recipeClear a lock =>
    show TrimFits (recipeClear a lock s).1
    unfold recipeClear
    split
    · exact h
    · split
      · exact h
      · split
        · exact h
        · split
          · exact h
          · exact hslot _ _ _
  case checkCompletion => exact (trimFits_completions s h).1
  case clearCompletion => exact (trimFits_completions s h).2
  case orderQueue a =>
    show TrimFits (orderQueue a s).1
    unfold orderQueue
    split
    · exact h
    · split
      · exact h
      · exact respects_enqueue E.toRespectsPlain _ s (fun h => trimFits_modifySlot _ _ _ (fun _ hx => hx)
          (trimFits_of_touches (setOrders_touches _ s) (h := h))) h
  case orderAbort a => exact E.orderAbort a s h
  case orderResume a => exact E.orderResume s h
  case linePurge a => exact E.linePurge s h
  case fullReset pins => exact keeps_fullReset trimFits_reset pins h
  case powerOnReset pins => exact trimFits_reset pins s
  case frameArrival f =>
    exact keeps_frameArrival trimFits_setRing trimFits_reset (fun f v => trimFits_of_touches (report_touches f v))
      (fun n v => trimFits_of_touches (takes_touches n v)) (fun g v => trimFits_of_touches (passFrame_touches g v)) f h
  case encoderStep pair =>
    exact keeps_encoderMove trimFits_setPos (fun f v => trimFits_of_touches (report_touches f v)) pair (K.settle h)
  case edgeEvent l level => exact trimFits_edgeAt l level s h
  all_goals exact trimFits_of_touches (effect_touches _ s) (by simp [effectFields]) (by simp [effectFields]) h

/-- Every step keeps the trim, and every slot's trim limit, within 1800. -/
theorem step_trimFits (h : TrimFits s) (hstep : step s = .next t) : TrimFits t :=
  StepKeeps.step (P := TrimFits)
    { takes := takesKeep_trimFits
      weaken := fun _ h => h
      queue := fun q s => trimFits_of_touches (setQueue_touches q s)
      reply := fun place r s => trimFits_of_touches (giveReply_touches place r s)
      effect := fun c s hc _ => trimFits_effect c s hc
      microsecond := fun s => trimFits_setPos _ s
      completions := fun s h => (trimFits_completions _ (trimFits_completions s h).1).2 } h hstep

end Sys2Proof.TrimLaw
end

section
/-! SUPPORT. From the fields that a rule can touch to the state it leaves: the old state with those fields replaced. -/

namespace Sys2Proof.Overlay

open Sys2Proof.Machine

set_option Elab.async false

/-- `s` with the fields of the list as in `t`. -/
def overlay (fs : List StateField) (s t : State) : State where
  pos := if fs.contains .pos then t.pos else s.pos
  lines := if fs.contains .lines then t.lines else s.lines
  store := if fs.contains .store then t.store else s.store
  track := if fs.contains .track then t.track else s.track
  reg := if fs.contains .reg then t.reg else s.reg
  app := if fs.contains .app then t.app else s.app
  insp := if fs.contains .insp then t.insp else s.insp
  orders := if fs.contains .orders then t.orders else s.orders
  deliv := if fs.contains .deliv then t.deliv else s.deliv
  line := if fs.contains .line then t.line else s.line
  counters := if fs.contains .counters then t.counters else s.counters
  notices := if fs.contains .notices then t.notices else s.notices
  mgmt := if fs.contains .mgmt then t.mgmt else s.mgmt
  ring := if fs.contains .ring then t.ring else s.ring
  resetHeld := if fs.contains .resetHeld then t.resetHeld else s.resetHeld
  reply := if fs.contains .reply then t.reply else s.reply
  freeIndex := if fs.contains .freeIndex then t.freeIndex else s.freeIndex
  pending := if fs.contains .pending then t.pending else s.pending

theorem eq_ite_of_agrees {α : Type} {fs : List StateField} {f : StateField} {a b : α} (h : f ∉ fs → b = a) :
    b = if fs.contains f then b else a := by
  split
  · rfl
  · next hf => exact h (by simpa using hf)

theorem frame_of_touches {fs : List StateField} {s t : State} (h : Touches fs s t) : t = overlay fs s t := by
  unfold overlay
  rw [← eq_ite_of_agrees (a := s.pos) (b := t.pos) (h .pos),
    ← eq_ite_of_agrees (a := s.lines) (b := t.lines) (h .lines),
    ← eq_ite_of_agrees (a := s.store) (b := t.store) (h .store),
    ← eq_ite_of_agrees (a := s.track) (b := t.track) (h .track),
    ← eq_ite_of_agrees (a := s.reg) (b := t.reg) (h .reg),
    ← eq_ite_of_agrees (a := s.app) (b := t.app) (h .app),
    ← eq_ite_of_agrees (a := s.insp) (b := t.insp) (h .insp),
    ← eq_ite_of_agrees (a := s.orders) (b := t.orders) (h .orders),
    ← eq_ite_of_agrees (a := s.deliv) (b := t.deliv) (h .deliv),
    ← eq_ite_of_agrees (a := s.line) (b := t.line) (h .line),
    ← eq_ite_of_agrees (a := s.counters) (b := t.counters) (h .counters),
    ← eq_ite_of_agrees (a := s.notices) (b := t.notices) (h .notices),
    ← eq_ite_of_agrees (a := s.mgmt) (b := t.mgmt) (h .mgmt),
    ← eq_ite_of_agrees (a := s.ring) (b := t.ring) (h .ring),
    ← eq_ite_of_agrees (a := s.resetHeld) (b := t.resetHeld) (h .resetHeld),
    ← eq_ite_of_agrees (a := s.reply) (b := t.reply) (h .reply),
    ← eq_ite_of_agrees (a := s.freeIndex) (b := t.freeIndex) (h .freeIndex),
    ← eq_ite_of_agrees (a := s.pending) (b := t.pending) (h .pending)]

end Sys2Proof.Overlay
end

section
/-! SUPPORT. What a pass over the channels leaves in each of them. -/

namespace Sys2Proof.Passes

open Sys2Proof.Machine

set_option Elab.async false

/-- A pass over distinct inspection channels changes each one that it picks out by its record, and no other. -/
theorem inspChannel_pass (p : Fin 8 → InspChannel → Bool) (f : Fin 8 → InspChannel → InspChannel) :
    ∀ (l : List (Fin 8)) (s : State), l.Nodup → ∀ j,
      inspChannel (l.foldl (fun t i => if p i (inspChannel t i) then modifyInsp i (f i) t else t) s) j
        = if j ∈ l ∧ p j (inspChannel s j) = true then f j (inspChannel s j) else inspChannel s j
  | [], s, _, j => by simp
  | i :: l, s, h, j => by
    have hi : i ∉ l := (List.nodup_cons.mp h).1
    have hhead : inspChannel (if p i (inspChannel s i) then modifyInsp i (f i) s else s) j
        = if j = i ∧ p j (inspChannel s j) = true then f j (inspChannel s j) else inspChannel s j := by
      by_cases hj : j = i
      · subst hj
        cases hp : p j (inspChannel s j) <;> simp [inspChannel_modifyInsp]
      · cases p i (inspChannel s i) <;> simp [inspChannel_modifyInsp, hj]
    rw [List.foldl_cons, inspChannel_pass p f l _ h.of_cons j, hhead]
    by_cases hj : j = i
    · subst hj
      simp [hi]
    · simp [hj]

/-- A pass over distinct application channels. -/
theorem channel_pass (p : Fin 12 → AppChannel → Bool) (f : Fin 12 → AppChannel → AppChannel) :
    ∀ (l : List (Fin 12)) (s : State), l.Nodup → ∀ k,
      getAt (l.foldl (fun t i => if p i (getAt t.app.channels i) then modifyChannel i (f i) t else t) s).app.channels k
        = if k ∈ l ∧ p k (getAt s.app.channels k) = true then f k (getAt s.app.channels k) else getAt s.app.channels k
  | [], s, _, k => by simp
  | i :: l, s, h, k => by
    have hi : i ∉ l := (List.nodup_cons.mp h).1
    have hhead : getAt (if p i (getAt s.app.channels i) then modifyChannel i (f i) s else s).app.channels k
        = if k = i ∧ p k (getAt s.app.channels k) = true then f k (getAt s.app.channels k) else getAt s.app.channels k := by
      by_cases hk : k = i
      · subst hk
        cases hp : p k (getAt s.app.channels k) <;> simp
      · cases p i (getAt s.app.channels i) <;> simp [getAt_put_other _ hk, hk]
    rw [List.foldl_cons, channel_pass p f l _ h.of_cons k, hhead]
    by_cases hk : k = i
    · subst hk
      simp [hi]
    · simp [hk]

theorem blanks_foldl {α : Type} {g : State → α → State} (h : ∀ t x, (g t x).app.blanks = t.app.blanks) :
    ∀ (l : List α) (s : State), (l.foldl g s).app.blanks = s.app.blanks
  | [], _ => rfl
  | x :: l, s => (blanks_foldl h l (g s x)).trans (h s x)

theorem inspChannel_clearLosses (s : State) (j : Fin 8) : inspChannel (clearLosses s) j =
    if isPresence s j = true then { inspChannel s j with losses := 0 } else inspChannel s j := by
  have h := inspChannel_pass (fun i _ => isPresence s i) (fun _ c => { c with losses := 0 }) allInsps s (by decide) j
  exact (show inspChannel (clearLosses s) j = _ from h).trans (by simp [mem_allInsps])

theorem inspChannel_dropWatches (s : State) (j : Fin 8) :
    inspChannel (dropWatches s) j = { inspChannel s j with watch := none } := by
  have h := inspChannel_pass (fun _ _ => true) (fun _ c => { c with watch := none }) allInsps s (by decide) j
  exact (show inspChannel (dropWatches s) j = _ from h).trans (by simp [mem_allInsps])

theorem inspChannel_inspEdge (l : Fin 16) (b : Bool) (s : State) (j : Fin 8) : inspChannel (inspEdge l b s) j =
    if (inspOf s j).enabled && (inspOf s j).line == l then channelEdge (inspOf s j) b s (inspChannel s j)
    else inspChannel s j := by
  have h := inspChannel_pass (fun i _ => (inspOf s i).enabled && (inspOf s i).line == l)
    (fun i => channelEdge (inspOf s i) b s) allInsps s (by decide) j
  exact (show inspChannel (inspEdge l b s) j = _ from h).trans (by simp [mem_allInsps])

theorem servesBlank_eq (s : State) (k : Fin 12) (q : U32) (p : Nat → Bool) : servesBlank s k q p =
    (getAt s.app.channels k).serving.any (fun v => v.seq == q && p v.entry) := by
  unfold servesBlank
  cases (getAt s.app.channels k).serving <;> rfl

theorem endApplications_eq (q : U32) (p : Nat → Bool) (s : State) : endApplications q p s =
    allApps.foldl (fun t k => if (getAt t.app.channels k).serving.any (fun v => v.seq == q && p v.entry) then
      modifyChannel k (fun c => { c with serving := none }) t else t) s := by
  simp only [endApplications, servesBlank_eq]
  rfl

/-- The channels after the end of the applications of blank `q` with the entries that `p` picks out. -/
theorem channel_endApplications (q : U32) (p : Nat → Bool) (s : State) (k : Fin 12) :
    getAt (endApplications q p s).app.channels k = { getAt s.app.channels k with
      serving := (getAt s.app.channels k).serving.filter (fun v => !(v.seq == q && p v.entry)) } := by
  rw [endApplications_eq, channel_pass (fun _ c => c.serving.any (fun v => v.seq == q && p v.entry))
    (fun _ c => { c with serving := none }) allApps s (by decide) k]
  obtain ⟨_ | v, on, off⟩ := getAt s.app.channels k
  · simp
  · cases hv : v.seq == q && p v.entry <;> simp [mem_allApps, hv, Option.filter]

theorem blanks_endApplications (q : U32) (p : Nat → Bool) (s : State) :
    (endApplications q p s).app.blanks = s.app.blanks := by
  unfold endApplications
  refine blanks_foldl (fun t k => ?_) allApps s
  split
  · rw [idleChannel, modifyChannel_app]
  · rfl

theorem channel_computeLeads (p : Fin 12 → Bool) (s : State) (k : Fin 12) :
    getAt (computeLeads p s).app.channels k = if p k = true then
      { getAt s.app.channels k with onLead := leadOf (appOf s k).onLatency s.pos.speed,
                                    offLead := leadOf (appOf s k).offLatency s.pos.speed }
      else getAt s.app.channels k := by
  have h := channel_pass (fun i _ => p i)
    (fun i c => { c with onLead := leadOf (appOf s i).onLatency s.pos.speed,
                         offLead := leadOf (appOf s i).offLatency s.pos.speed })
    allApps s (by decide) k
  exact (show getAt (computeLeads p s).app.channels k = _ from h).trans (by simp [mem_allApps])

theorem measures_eq (s : State) (j : Fin 8) (q : U32) :
    measures s j q = (inspChannel s j).measurement.any (fun m => m.seq == q) := by
  unfold measures
  cases (inspChannel s j).measurement <;> rfl

/-- The channels after the announcement of the removal of blank `q`. -/
theorem inspChannel_removalInsp (q : U32) (s : State) (j : Fin 8) : inspChannel (removalInsp q s) j =
    { inspChannel s j with measurement := (inspChannel s j).measurement.filter (fun m => m.seq != q) } := by
  simp only [removalInsp, measures_eq]
  rw [inspChannel_pass (fun _ c => c.measurement.any (fun m => m.seq == q)) (fun _ c => { c with measurement := none })
    allInsps (withdraw (inspEventOf q) s) (by decide) j]
  have hsame : inspChannel (withdraw (inspEventOf q) s) j = inspChannel s j := rfl
  rw [hsame]
  obtain ⟨w, _ | m, r, a, b, c⟩ := inspChannel s j
  · simp
  · by_cases hm : m.seq = q <;> simp [mem_allInsps, hm, Option.filter]

end Sys2Proof.Passes
end

section
/-! SUPPORT. Every command completes, a step without one takes what has fired or lets time pass, and requests that do not
reach their owner. -/

namespace Sys2Proof.Requests

open Sys2Proof.Machine Sys2Proof.Ledger Sys2Proof.Steps Sys2Proof.Taking

set_option Elab.async false

variable {s t u : State} {c : Instr} {k n : Nat} {a : List Byte}

/-- Settles O1: a step runs the front of the queue. -/
theorem stepRunsFront : Obligations.StepRunsFront := fun _ _ => rfl

/-! ## The shape of a request -/

/-- A request of the table goes to its owner's rule, behind the BUSY check for a table or recipe request. -/
theorem exec_request (h : requestOf c = some (k, n, a)) :
    ∃ own, (∀ s, exec c s = .next (request k n a own s)) ∧ (k ∈ busyKinds → ∃ rule, own = unlessBusy rule) := by
  cases c <;> cases h
  case machineTableWrite | machineTableRead | machineTableApply | recipeEdit | recipeWrite | recipeCheck | recipeClear
      | recipeRead => exact ⟨_, fun _ => rfl, fun _ => ⟨_, rfl⟩⟩
  all_goals exact ⟨_, fun _ => rfl, fun hk => absurd hk (by decide)⟩

theorem reachable_of_accepts (h : accepts s n a = true) : reachable s = true := by
  simp only [accepts, Bool.and_eq_true] at h
  exact h.1.1

theorem reachable_of_repeating (h : s.ring.node = 0#6 ∨ s.ring.node = 63#6) : reachable s = false := by
  have hr : repeating s = true := by
    rcases h with h | h <;> simp [repeating, repeatsAt, h]
  simp [reachable, hr]

/-- Settles O3: requests that the length check, the BUSY check or the node address turns away, and unknown kinds. -/
theorem requestsTurnedAway : Obligations.RequestsTurnedAway := by
  refine ⟨fun c s k n a h hn => ?_, fun c s k n a h hr hl => ?_, fun c s k n a h hk ha hw => ?_,
    fun kind args s hk hr => ?_, fun kind args s hn => ?_⟩
  · obtain ⟨own, hown, -⟩ := exec_request h
    rw [hown, request_unreachable (reachable_of_repeating hn)]
  · obtain ⟨own, hown, -⟩ := exec_request h
    rw [hown, request_badLength hr hl]
    rfl
  · obtain ⟨own, hown, hbusy⟩ := exec_request h
    obtain ⟨rule, rfl⟩ := hbusy hk
    have hworks : working s = true := Option.isSome_iff_ne_none.mpr hw
    rw [hown, request_accepted ha, unlessBusy, if_pos hworks]
    rfl
  · show Host.Outcome.next (unknownRequest kind args s) = _
    rw [unknownRequest, if_neg (by simpa using hk), if_pos hr]
    rfl
  · show Host.Outcome.next (unknownRequest kind args s) = _
    rw [unknownRequest, reachable_of_repeating hn]
    simp

/-! ## The queue -/

theorem pending_not_effectField (c : Instr) : .pending ∉ effectFields c := by
  cases c <;> simp [effectFields, stationFields, resetFields, removalFields]

theorem pending_of_does (h : Does c s t) : t.pending = s.pending := by
  cases h with
  | nothing => rfl
  | quiet _ => exact (effect_touches c s).pending (pending_not_effectField c)
  | refused place r => exact (giveReply_touches place r s).pending
  | answered place r _ =>
    rw [(giveReply_touches place r _).pending, (effect_touches c s).pending (pending_not_effectField c)]

theorem pending_takeTime (e : TimeEvent) (s : State) : (takeTime e s).pending = s.pending := by
  cases e with
  | windowEnd => exact (endWindow_touches s).pending
  | watchdog => exact (watchdogExpiry_touches s).pending
  | completion => exact ((checkCompletion_touches s).trans (clearCompletion_touches _)).pending

theorem pending_of_ticks (h : Ticks s t) : t.pending = s.pending := by
  cases h with
  | held _ => rfl
  | station e v _ hc =>
    obtain ⟨-, hv⟩ := chooseDue_some hc
    rw [(takeDue_touches e v).pending]
    rcases hv with rfl | rfl <;> rfl
  | passes _ _ => rfl
  | timed e v _ _ _ hv =>
    rw [pending_takeTime]
    rcases hv with rfl | rfl <;> rfl

/-! ## The timebase -/

/-- The command of an event of the timebase. -/
def timeCommand (s : State) : TimeEvent → Instr
  | .windowEnd => .speedWindowEnd
  | .watchdog => .watchdogExpiry
  | .completion => match s.mgmt.inFlight with
    | some ⟨.recipeClear, _, _, _⟩ => .clearCompletion
    | _ => .checkCompletion

theorem mem_dueTimes {e : TimeEvent} : e ∈ dueTimes s ↔
    (e = .windowEnd ∧ 10000 ≤ elapsed s s.pos.windowStart) ∨
    (e = .watchdog ∧ ∃ t0, s.ring.watchdog = some t0 ∧ 1000 * s.ring.watchdogMs ≤ elapsed s t0) ∨
    (e = .completion ∧ ∃ o, s.mgmt.inFlight = some o ∧ o.carried = false ∧ 5000 ≤ elapsed s o.taken) := by
  simp only [dueTimes, List.mem_append, or_assoc]
  refine or_congr ?_ (or_congr ?_ ?_)
  · split <;> simp_all
  · cases s.ring.watchdog with
    | none => simp
    | some t0 => by_cases h : 1000 * s.ring.watchdogMs ≤ elapsed s t0 <;> simp [h]
  · cases s.mgmt.inFlight with
    | none => simp
    | some o => by_cases h : o.carried = false ∧ 5000 ≤ elapsed s o.taken <;> simp [h]

/-- The moments of `TimeHasCome` are those of the events due. -/
theorem timeHasCome_iff : TimeHasCome s c ↔ ∃ e ∈ dueTimes s, c = timeCommand s e := by
  constructor
  · rintro (⟨rfl, h⟩ | ⟨t0, ht, h, rfl⟩ | ⟨o, ho, hc, h, rfl⟩)
    · exact ⟨.windowEnd, mem_dueTimes.mpr (.inl ⟨rfl, h⟩), rfl⟩
    · exact ⟨.watchdog, mem_dueTimes.mpr (.inr (.inl ⟨rfl, t0, ht, h⟩)), rfl⟩
    · refine ⟨.completion, mem_dueTimes.mpr (.inr (.inr ⟨rfl, o, ho, hc, h⟩)), ?_⟩
      obtain ⟨op, k, x, b⟩ := o
      cases op <;> simp [timeCommand, ho]
  · rintro ⟨e, he, rfl⟩
    rcases mem_dueTimes.mp he with ⟨rfl, h⟩ | ⟨rfl, t0, ht, h⟩ | ⟨rfl, o, ho, hc, h⟩
    · exact .inl ⟨rfl, h⟩
    · exact .inr (.inl ⟨t0, ht, h, rfl⟩)
    · refine .inr (.inr ⟨o, ho, hc, h, ?_⟩)
      obtain ⟨op, k, x, b⟩ := o
      cases op <;> simp [timeCommand, ho]

theorem completing_eq_none {op : LongOp} {o : InFlight} (ho : s.mgmt.inFlight = some o) (h : o.op ≠ op) :
    completing s op = none := by simp [completing, ho, h]

/-- After the completion of a check no clear is in flight. -/
theorem clearCompletion_checkCompletion {o : InFlight} (ho : s.mgmt.inFlight = some o) (hop : o.op = .recipeCheck) :
    clearCompletion (checkCompletion s) = checkCompletion s := by
  have hnone : completing (checkCompletion s) .recipeClear = none := by
    unfold checkCompletion
    split
    · next k _ =>
      have hflight : (completeCheck k s).mgmt.inFlight = none := by
        unfold completeCheck
        split <;> exact congrArg ManagementUnit.inFlight (offer_touches _ _).mgmt
      simp only [completing, hflight]
    · exact completing_eq_none ho (by rw [hop]; decide)
  simp only [clearCompletion, hnone]

/-- An event of the timebase is taken as its command is carried out. -/
theorem exec_timeCommand {e : TimeEvent} (he : e ∈ dueTimes s) (hfree : s.resetHeld = false) :
    exec (timeCommand s e) s = .next (takeTime e s) := by
  rcases mem_dueTimes.mp he with ⟨rfl, -⟩ | ⟨rfl, -⟩ | ⟨rfl, o, ho, -, -⟩
  · exact congrArg _ (event_free hfree endWindow)
  · exact congrArg _ (event_free hfree watchdogExpiry)
  · obtain ⟨op, k, x, b⟩ := o
    cases op with
    | recipeCheck =>
      have hcmd : timeCommand s .completion = .checkCompletion := by simp [timeCommand, ho]
      rw [hcmd, takeTime, clearCompletion_checkCompletion ho rfl]
      exact congrArg _ (event_free hfree checkCompletion)
    | recipeClear =>
      have hcmd : timeCommand s .completion = .clearCompletion := by simp [timeCommand, ho]
      have hidle : checkCompletion s = s := by
        simp only [checkCompletion, completing_eq_none ho (op := .recipeCheck) (by simp)]
      rw [hcmd, takeTime, hidle]
      exact congrArg _ (event_free hfree clearCompletion)

theorem step_idle (hp : s.pending = []) : step s = .next (tick s) := by unfold step; rw [hp]

/-- A step that finds an event fired takes one. -/
theorem step_takes (hp : s.pending = []) (hfree : s.resetHeld = false) (h : ∃ c x u, HasFired s c x u) :
    ∃ t, step s = .next t ∧ FiredTaken s t := by
  have hdue : dueEvents s ≠ [] := fun hnil => by
    obtain ⟨c, x, u, hf⟩ := h
    exact no_hasFired_iff.mpr hnil c x u hf
  obtain ⟨⟨e, v⟩, hc⟩ := Option.ne_none_iff_exists'.mp (fun hn => hdue (chooseDue_eq_none.mp hn))
  refine ⟨takeDue e v, ?_, (firedTaken_iff hfree).mpr (taken_takeDue hc)⟩
  rw [step_idle hp, tick, if_neg (by simp [hfree])]
  simp only [hc]

/-- A step that finds none fired takes an event of the timebase, or lets a microsecond pass. -/
theorem step_times (hp : s.pending = []) (hfree : s.resetHeld = false) (h : ∀ c x u, ¬ HasFired s c x u) :
    (dueTimes s ≠ [] → ∃ e ∈ dueTimes s, ∃ v, (v = s ∨ v = bumpFree s) ∧ step s = .next (takeTime e v)) ∧
    (dueTimes s = [] → step s = .next (microsecond s)) := by
  have hnone : chooseDue s = none := chooseDue_eq_none.mpr (no_hasFired_iff.mp h)
  have hticks : step s = .next (timeStep s) := by
    rw [step_idle hp, tick, if_neg (by simp [hfree])]
    simp only [hnone]
  rw [hticks, timeStep]
  split
  · next he => exact ⟨fun hne => absurd he hne, fun _ => rfl⟩
  · next e he => exact ⟨fun _ => ⟨e, by simp [he], s, .inl rfl, rfl⟩, fun hn => absurd (he.symm.trans hn) (by simp)⟩
  · next e es _ he =>
    refine ⟨fun _ => ⟨_, ?_, bumpFree s, .inr rfl, rfl⟩, fun hn => absurd (he.symm.trans hn) (by simp)⟩
    have hlt : Config.eventChoice s.freeIndex % (es.length + 1) < (e :: es).length := Nat.mod_lt _ (Nat.succ_pos _)
    rw [he, List.getD_eq_getElem _ _ hlt]
    exact List.getElem_mem hlt

theorem step_nextTick (hp : s.pending = []) : ∃ t, step s = .next t ∧ t.pending = [] :=
  ⟨tick s, step_idle hp, (pending_of_ticks (tick_ticks s)).trans hp⟩

/-- Settles O2: every command has its outcome, and so has a step without one. -/
theorem everyCommandCompletes : Obligations.EveryCommandCompletes := by
  have completes (c : Instr) (s : State) : ∃ t, exec c s = .next t ∧ t.pending = s.pending := by
    obtain ⟨t, ht, hd⟩ := exec_does c s
    exact ⟨t, ht, pending_of_does hd⟩
  refine ⟨completes, fun c q s hq => ?_, fun s hp => step_nextTick hp, fun s hp hh => ?_, fun s hp hf h => step_takes hp hf h,
    fun s hp hf h => ⟨fun ⟨c, hc⟩ => ?_, fun hn => ?_⟩⟩
  · obtain ⟨t, ht, hpend⟩ := completes c { s with pending := q }
    exact ⟨t, by unfold step; rw [hq]; exact ht, hpend⟩
  · rw [step_idle hp, tick, if_pos hh]
  · obtain ⟨e, he, -⟩ := timeHasCome_iff.mp hc
    obtain ⟨e, he, v, hv, hstep⟩ := (step_times hp hf h).1 (List.ne_nil_of_mem he)
    have hcome : TimeHasCome s (timeCommand s e) := timeHasCome_iff.mpr ⟨e, he, rfl⟩
    rcases hv with rfl | rfl
    · exact ⟨_, v.freeIndex, hstep.trans (exec_timeCommand he hf).symm, le_refl _, Nat.le_succ _, hcome⟩
    · exact ⟨_, s.freeIndex + 1, hstep.trans (exec_timeCommand (s := bumpFree s) he hf).symm, Nat.le_succ _, le_refl _, hcome⟩
  · have hnil : dueTimes s = [] := by
      refine List.eq_nil_iff_forall_not_mem.mpr (fun e he => hn _ (timeHasCome_iff.mpr ⟨e, he, rfl⟩))
    exact (step_times hp hf h).2 hnil

end Sys2Proof.Requests
end

section
/-! SUPPORT. Replies, resets, run states, faults and snapshots: what the requests of Line Control and of the reporting
blocks do. -/

namespace Sys2Proof.LineRules

open Sys2Proof.Machine Sys2Proof.Ledger Sys2Proof.Steps Sys2Proof.Overlay Sys2Proof.Passes Sys2Proof.Requests

set_option Elab.async false

variable {s t : State}

/-! ## Replies -/

theorem carriedAs_iff {kind : Nat} {args f : List Byte} {j : Nat} : carriedAs kind args s = some (f, j) ↔
    s.ring.passage = some f ∧ nextRequest s.ring.node.toNat f = some j ∧ u8 f (recordOff f j + 2) = kind ∧
    recordArgs f j = args := by
  unfold carriedAs
  split
  · next hp => simp [hp]
  · next g hp =>
    rw [hp, Option.some.injEq]
    split
    · next hn =>
      refine ⟨nofun, ?_⟩
      rintro ⟨rfl, h, -⟩
      rw [hn] at h
      cases h
    · next i hi =>
      rw [Option.ite_none_right_eq_some, Option.some.injEq, Prod.mk.injEq]
      constructor
      · rintro ⟨⟨hk, ha⟩, rfl, rfl⟩
        exact ⟨rfl, hi, hk, ha⟩
      · rintro ⟨rfl, h, hk, ha⟩
        rw [hi] at h
        cases h
        exact ⟨⟨hk, ha⟩, rfl, rfl⟩

theorem le32_eq (n : Nat) : le32 n = [BitVec.ofNat 8 n, BitVec.ofNat 8 (n / 256), BitVec.ofNat 8 (n / 65536),
    BitVec.ofNat 8 (n / 16777216)] := by
  simp [le32, le16, Nat.div_div_eq_div_mul]

/-- Settles O5: a reply touches the reply register and the frame that is passing. -/
theorem replyTouchesTheFrameOnly : Obligations.ReplyTouchesTheFrameOnly := by
  refine ⟨fun place r s => ⟨?_, ?_, ?_⟩, fun kind args f j s => carriedAs_iff, ?_⟩
  · rintro rfl
    rfl
  · rintro f j rfl hne
    obtain ⟨i, hi⟩ := Option.ne_none_iff_exists'.mp hne
    simp only [giveReply, passFrame, hi]
  · rintro f j rfl hnone
    simp only [giveReply, passFrame, hnone, forwardFrame]
  · rintro f c rfl
    rw [withCheck, frameBody, le32_eq]

/-! ## Resets -/

/-- Settles O6: the values after a reset, block by block. -/
theorem resetValues : Obligations.ResetValues := by
  intro pins
  have hout : ∀ i, getAt (State.resetWith pins).lines.outs i = OutLine.initial := fun i => getAt_replicate _ i
  have hinitial : MachineTable.initial.general = ⟨0, 0, 0, 0, 0, 0, 0, .ring, 0⟩ ∧ MachineTable.initial.gum = ⟨none, 0, 0⟩ ∧
      (∀ k : Fin 12, getAt MachineTable.initial.apps k = ⟨false, .windowCut, 0, 0, 0, 0⟩) ∧
      (∀ j : Fin 8, getAt MachineTable.initial.insps j = ⟨false, .presence, 0, 0⟩) ∧ MachineTable.initial.modes = 0#16 ∧
      (∀ i : Fin 16, getAt MachineTable.initial.outs i = ⟨.none, .activeHigh, .release⟩) :=
    ⟨rfl, rfl, fun k => getAt_replicate _ k, fun j => getAt_replicate _ j, rfl, fun i => getAt_replicate _ i⟩
  refine ⟨rfl, rfl, rfl, hout, fun i => ?_, rfl, ?_, fun k => getAt_replicate _ k,
    ⟨rfl, rfl, rfl, fun j => getAt_replicate _ j, rfl⟩, rfl, rfl, fun k => getAt_replicate _ k, rfl,
    fun j => getAt_replicate _ j, rfl, rfl, rfl, ?_, rfl, rfl, rfl, rfl, rfl, rfl, fun c => getAt_replicate _ _,
    fun i => getAt_replicate _ _, rfl, rfl, rfl, rfl, rfl, rfl, rfl, rfl, ?_⟩
  · have hheld : (State.resetWith pins).resetHeld = false := rfl
    simp [outputLevel, hheld, drivenState, hout, OutLine.initial]
  · rintro t (rfl | rfl) <;> exact hinitial
  · simp [holdReasons, holdsOutfeed, holdsGum, hasFault, State.resetWith, MachineTable.initial, General.initial]
  · show (if repeatsAt pins.address then none else some 0#32) = none ↔ _
    simp [repeatsAt, or_iff_not_imp_left]

/-- While the pin is held a command other than POWER_ON_RESET does nothing. -/
theorem exec_held (hh : s.resetHeld = true) {c : Instr} (hc : ∀ pins, c ≠ .powerOnReset pins) : exec c s = .next s := by
  have hr : reachable s = false := by simp [reachable, hh]
  cases hreq : requestOf c with
  | some x =>
    obtain ⟨k, n, a⟩ := x
    obtain ⟨own, hown, -⟩ := exec_request hreq
    rw [hown, request_unreachable hr]
  | none =>
    cases c <;> first | contradiction | clear hreq
    case powerOnReset pins => exact absurd rfl (hc pins)
    case resetPinHeld =>
      have hs : { s with resetHeld := true } = s := by rw [show true = s.resetHeld from hh.symm]
      exact congrArg _ hs
    case unknownRequest kind args =>
      show Host.Outcome.next (unknownRequest kind args s) = _
      rw [unknownRequest, hr]
      simp
    all_goals exact congrArg _ (event_held hh _)

/-- Settles O7: the four reset commands, and the pin that is held. -/
theorem resetsTakeEffect : Obligations.ResetsTakeEffect := by
  refine ⟨fun c s hh hc => exec_held hh hc, fun args s ha => ?_, fun pins s hf hd => ?_, fun pins s => rfl,
    fun s => ⟨rfl, fun i => by simp [outputLevel]⟩⟩
  · exact congrArg _ (request_accepted ha 65 (resetFull args))
  · refine congrArg _ ((event_free hf _).trans ?_)
    rw [fullReset, if_pos hd]
    rfl

/-! ## Run states -/

theorem faults_halting : ∀ w : BitVec 6, (w &&& 0b011111#6 = 0#6) ↔
    ∀ f : FaultKind, f ≠ .gumSupply → w.getLsbD (faultBit f) = false := by
  have h : ∀ w : BitVec 6, (w &&& 0b011111#6 = 0#6) ↔ (w.getLsbD 0 = false ∧ w.getLsbD 1 = false ∧ w.getLsbD 2 = false ∧
      w.getLsbD 3 = false ∧ w.getLsbD 4 = false) := by decide
  intro w
  rw [h w]
  constructor
  · rintro ⟨h0, h1, h2, h3, h4⟩ f hf
    cases f <;> first | assumption | exact absurd rfl hf
  · intro g
    exact ⟨g .encoder (by decide), g .reverse (by decide), g .ring (by decide), g .masterStop (by decide), g .tracking (by decide)⟩

theorem anyHalting_eq_false : anyHalting s = false ↔ ∀ f, f ≠ .gumSupply → hasFault s f = false := by
  refine Iff.trans ?_ (faults_halting s.line.faults)
  simp [anyHalting]

theorem anyHalting_of_fault (h : ∃ f, f ≠ .gumSupply ∧ hasFault s f = true) : anyHalting s = true := by
  obtain ⟨f, hf, hs⟩ := h
  by_contra hn
  rw [Bool.not_eq_true, anyHalting_eq_false] at hn
  exact Bool.false_ne_true ((hn f hf).symm.trans hs)

theorem lineRecord_eq (s : State) : lineRecord s = [BitVec.ofNat 8 (codeRun s.line.run), BitVec.ofNat 8 s.line.faults.toNat] :=
  rfl

theorem canStart_iff (r : RunState) : canStart r = true ↔ r = .idle ∨ r = .draining := by
  cases r <;> simp [canStart]

theorem validity_ne_invalid {v : Validity} : v ≠ .invalid ↔ v = .valid := by cases v <;> simp

theorem lineStart_moves (h : (s.line.run = .idle ∨ s.line.run = .draining) ∧ s.store.validity = .valid ∧
    ∀ f, f ≠ .gumSupply → hasFault s f = false) : lineStart s = lineReply .ok (setRun .running s) := by
  obtain ⟨hr, hv, hf⟩ := h
  simp [lineStart, (canStart_iff _).mpr hr, hv, anyHalting_eq_false.mpr hf]

theorem lineStart_refused (h : ¬ ((s.line.run = .idle ∨ s.line.run = .draining) ∧ s.store.validity = .valid ∧
    ∀ f, f ≠ .gumSupply → hasFault s f = false)) : lineStart s = lineReply .state s := by
  rw [← canStart_iff, ← validity_ne_invalid, ← anyHalting_eq_false] at h
  unfold lineStart
  split
  · rfl
  · split
    · rfl
    · split
      · rfl
      · next hc hv ha => exact absurd ⟨by simpa using hc, hv, by simpa using ha⟩ h

/-- The end of HALTED changes the run state and takes every held state away. -/
theorem leaveHalted_frame (r : RunState) (s : State) :
    leaveHalted r s = { s with line := { s.line with run := r }, lines := { s.lines with outs := (leaveHalted r s).lines.outs } } ∧
    ∀ i, getAt (leaveHalted r s).lines.outs i = { getAt s.lines.outs i with held := none } :=
  ⟨by rw [leaveHalted, setHeld, setRun], fun i => setHeld_outs (fun _ => none) s i⟩

theorem codeRun_drainTarget (s : State) :
    BitVec.ofNat 8 (codeRun (drainTarget s)) = if s.track.records = [] then 0#8 else 2#8 := by
  unfold drainTarget
  split <;> rfl

/-- Settles O8: LINE_START, LINE_DRAIN and LINE_RESUME. -/
theorem lineStartDrainResume : Obligations.LineStartDrainResume := by
  refine ⟨fun args s ha => ⟨fun h => ?_, fun h => ?_⟩, fun args s ha => ⟨fun h => ?_, fun h => ?_⟩,
    fun args s ha => ⟨fun h => ?_, fun h => ?_⟩, rfl⟩
  · exact congrArg _ ((request_accepted ha 60 lineStart).trans (by rw [lineStart_moves h]; rfl))
  · exact congrArg _ ((request_accepted ha 60 lineStart).trans (by rw [lineStart_refused h]; rfl))
  · rcases h with h | ⟨h, hf⟩
    · refine ⟨setRun (drainTarget s) s, congrArg _ ((request_accepted ha 61 lineDrain).trans ?_), rfl, fun i => ?_⟩
      · rw [lineDrain, h, ← codeRun_drainTarget]
        rfl
      · simp [h]
    · obtain ⟨hframe, houts⟩ := leaveHalted_frame (drainTarget s) s
      refine ⟨leaveHalted (drainTarget s) s, congrArg _ ((request_accepted ha 61 lineDrain).trans ?_), hframe, fun i => ?_⟩
      · simp only [lineDrain, h, anyHalting_eq_false.mpr hf, ← codeRun_drainTarget]
        rfl
      · rw [houts, if_pos h]
  · refine congrArg _ ((request_accepted ha 61 lineDrain).trans ?_)
    rcases h with h | h | ⟨h, hf⟩
    · simp only [lineDrain, h]
      simp only [lineReply, lineRecord_eq, h]
    · simp only [lineDrain, h]
      simp only [lineReply, lineRecord_eq, h]
    · simp only [lineDrain, h, anyHalting_of_fault hf, if_true]
      simp only [lineReply, lineRecord_eq, h]
  · obtain ⟨hr, hf⟩ := h
    obtain ⟨hframe, houts⟩ := leaveHalted_frame .running s
    refine ⟨leaveHalted .running s, congrArg _ ((request_accepted ha 62 lineResume).trans ?_), hframe, houts⟩
    rw [lineResume, if_pos ⟨hr, anyHalting_eq_false.mpr hf⟩]
    rfl
  · refine congrArg _ ((request_accepted ha 62 lineResume).trans ?_)
    have hno : ¬ (s.line.run = .halted ∧ anyHalting s = false) := by
      rintro ⟨hr, ha⟩
      rcases h with h | h
      · exact h hr
      · rw [anyHalting_of_fault h] at ha
        cases ha
    rw [lineResume, if_neg hno]
    rfl

/-! ## Faults -/

theorem isHalting_iff (f : FaultKind) : isHalting f = true ↔ f ≠ .gumSupply := by cases f <;> simp [isHalting]

theorem canHalt_iff (r : RunState) : canHalt r = true ↔ r = .running ∨ r = .draining := by cases r <;> simp [canHalt]

theorem latched_notices (f : FaultKind) (s : State) :
    (offer (.fault f) (latch f s)).notices = (offer (.fault f) s).notices := offer_notices _ (latch_notices s f)

theorem latched_frame (f : FaultKind) (s : State) : offer (.fault f) (latch f s) =
    { s with line := { s.line with faults := s.line.faults ||| oneFault f }, notices := (offer (.fault f) s).notices } := by
  rw [← latched_notices]
  exact frame_of_touches (offer_touches (.fault f) (latch f s))

/-- A fault not latched, which halts the line: the state between is the one with the fault latched and offered. -/
theorem report_halts {f : FaultKind} (h : hasFault s f = false) (hh : isHalting f = true ∧ canHalt s.line.run = true) :
    report f s = enterHalted (offer (.fault f) (latch f s)) := by
  simp [report, h, hh]

theorem report_stays {f : FaultKind} (h : hasFault s f = false) (hh : ¬ (isHalting f = true ∧ canHalt s.line.run = true)) :
    report f s = offer (.fault f) (latch f s) := by
  simp only [report, h, Bool.false_eq_true, if_false, Bool.and_eq_true, if_neg hh]

theorem hasFault_latched (f g : FaultKind) (s : State) :
    hasFault (offer (.fault f) (latch f s)) g = (hasFault s g || g == f) := by
  rw [← hasFault_latch]
  unfold hasFault
  rw [(offer_touches _ _).line]

theorem drivenState_latched (f : FaultKind) (s : State) (i : Fin 16) :
    drivenState (offer (.fault f) (latch f s)) i = drivenState s i := by rw [latched_frame]; rfl

theorem enterHalted_outs (s : State) (i : Fin 16) : getAt (enterHalted s).lines.outs i = { getAt s.lines.outs i with
    held := if followsSafeMode (getAt s.lines.outs i).function then some (drivenState s i) else none } :=
  setHeld_outs _ s i

theorem hasFault_enterHalted (s : State) (g : FaultKind) : hasFault (enterHalted s) g = hasFault s g := by
  unfold hasFault
  rw [enterHalted_line]

theorem frame_of_report (h : Touches [.line, .lines, .notices] s t) (hreset : t.line.reset = s.line.reset)
    (hmodes : t.lines.modes = s.lines.modes) (hlevels : t.lines.levels = s.lines.levels) :
    t = { s with line := { s.line with run := t.line.run, faults := t.line.faults },
                 lines := { s.lines with outs := t.lines.outs }, notices := t.notices } := by
  dsimp only
  rw [← hreset, ← hmodes, ← hlevels]
  exact frame_of_touches h

/-- Settles O11: a fault that is reported. -/
theorem reportLatches : Obligations.ReportLatches := by
  refine fun f s => ⟨fun h => by simp [report, h], fun h => ?_⟩
  have hmark : (f ≠ .gumSupply ∧ (s.line.run = .running ∨ s.line.run = .draining)) ↔
      (isHalting f = true ∧ canHalt s.line.run = true) := by rw [isHalting_iff, canHalt_iff]
  simp only [hmark]
  have hfault := fun g => hasFault_latched f g s
  have hnotices := latched_notices f s
  have hdriven := drivenState_latched f s
  have hlines : (offer (.fault f) (latch f s)).lines = s.lines := (offer_touches _ _).lines
  have hrun : (offer (.fault f) (latch f s)).line.run = s.line.run := by rw [(offer_touches _ _).line]; rfl
  have hreset : (offer (.fault f) (latch f s)).line.reset = s.line.reset := by rw [(offer_touches _ _).line]; rfl
  have htouch := report_touches f s
  by_cases hh : isHalting f = true ∧ canHalt s.line.run = true
  · simp only [if_pos hh]
    rw [report_halts h hh] at htouch ⊢
    generalize offer (.fault f) (latch f s) = u at *
    refine ⟨fun g => (hasFault_enterHalted _ g).trans (hfault g), (enterHalted_touches u).notices.trans hnotices, by rw [enterHalted_line], fun i => ?_,
      frame_of_report htouch (by rw [enterHalted_line]; exact hreset) ?_ ?_⟩
    · rw [enterHalted_outs, hdriven, hlines]
    · rw [enterHalted_lines, hlines]
    · rw [enterHalted_lines, hlines]
  · simp only [if_neg hh]
    rw [report_stays h hh] at htouch ⊢
    generalize offer (.fault f) (latch f s) = u at *
    refine ⟨hfault, hnotices, hrun, fun i => ?_, frame_of_report htouch hreset ?_ ?_⟩ <;> rw [hlines]

/-! ## Conditions reported -/

theorem report_latched {f : FaultKind} (h : hasFault s f = true) : report f s = s := by simp [report, h]

/-- What the expiry of a watchdog last restarted at `t0` reports RING on. -/
def expired (t0 : U32) (s : State) : State :=
  let u := timeAtLeast t0 (1000 * s.ring.watchdogMs) s
  { u with ring := { u.ring with watchdog := none, validFrame := false } }

theorem expired_frame (t0 : U32) (s : State) : expired t0 s =
    { s with pos := { s.pos with timebase := (if (s.pos.timebase - t0).toNat < 1000 * s.ring.watchdogMs then
               t0 + BitVec.ofNat 32 (1000 * s.ring.watchdogMs) else s.pos.timebase) },
             ring := { s.ring with watchdog := none, validFrame := false } } := by
  unfold expired timeAtLeast elapsed
  split <;> rfl

theorem gumPressure_low {l : Fin 16} {z : Int} (hl : s.store.inForce.gum.line = some l) :
    gumPressure z s = if analogRead s l z < s.store.inForce.gum.threshold then report .gumSupply s else s := by
  simp only [gumPressure, hl]

theorem report_gumSupply (h : hasFault s .gumSupply = false) : report .gumSupply s =
    offer (.fault .gumSupply) { s with line := { s.line with faults := s.line.faults ||| 32#6 } } :=
  report_stays h (by simp [isHalting])

/-- Settles O19: the two monitored conditions. -/
theorem conditionsReported : Obligations.ConditionsReported := by
  refine ⟨fun z s hf => ⟨fun hl => ?_, fun l hl => ⟨fun h => ?_, fun hlow hnot => ?_⟩⟩, fun s hf => ⟨fun hw => ?_, fun t0 hw => ?_⟩⟩
  · refine congrArg _ ((event_free hf _).trans ?_)
    simp only [gumPressure, hl]
  · refine congrArg _ ((event_free hf _).trans ?_)
    rw [gumPressure_low hl]
    rcases h with h | h
    · rw [if_neg (by omega)]
    · rw [report_latched h, ite_self]
  · refine congrArg _ ((event_free hf _).trans ?_)
    rw [gumPressure_low hl, if_pos hlow, report_gumSupply hnot]
  · refine congrArg _ ((event_free hf _).trans ?_)
    simp only [watchdogExpiry, hw]
  · have hv := expired_frame t0 s
    obtain ⟨hsame, hnew⟩ := reportLatches .ring (expired t0 s)
    have hexec : exec .watchdogExpiry s = .next (report .ring (expired t0 s)) := by
      refine congrArg _ ((event_free hf _).trans ?_)
      simp only [watchdogExpiry, hw]
      rfl
    have hring : (report .ring (expired t0 s)).ring = (expired t0 s).ring := (report_touches _ _).ring
    generalize expired t0 s = v at *
    have hfault (g : FaultKind) : hasFault v g = hasFault s g := by rw [hv]; rfl
    have hdriven (i : Fin 16) : drivenState v i = drivenState s i := by rw [hv]; rfl
    have hlines : v.lines = s.lines := by rw [hv]
    have hline : v.line = s.line := by rw [hv]
    have hnotices : v.notices = s.notices := by rw [hv]
    refine ⟨v, report .ring v, hexec, ?_, by rw [hv], rfl, by rw [hring, hv], by rw [hring, hv], ?_⟩
    · rw [hv]
    · cases hl : hasFault s .ring with
      | true =>
        rw [hsame ((hfault .ring).trans hl)]
        exact ⟨fun i => by simp [hlines], (hfault .ring).trans hl, fun g _ => hfault g, fun _ => ⟨hline, hnotices⟩,
          fun h => absurd h (by simp), rfl⟩
      | false =>
        obtain ⟨hg, hn, hrun, houts, hframe⟩ := hnew ((hfault .ring).trans hl)
        refine ⟨fun i => ?_, by simp [hg], fun g hne => by simp [hg, hfault, hne], fun h => absurd h (by simp),
          fun _ => ⟨hn.trans (offer_notices _ hnotices), by simpa [hline] using hrun⟩, ?_⟩
        · simpa [hlines, hline, hdriven] using houts i
        · have hl : (report .ring v).lines = { v.lines with outs := (report .ring v).lines.outs } := congrArg State.lines hframe
          exact (frame_of_touches (report_touches .ring v)).trans (by rw [← hl]; rfl)

/-! ## CLEAR_STATUS -/

theorem clears_of_touches (h : Touches [.line, .pos, .insp] s t) (z : Int) (f : FaultKind) : clears t z f = clears s z f := by
  cases f with
  | encoder => rfl
  | reverse => exact congrArg (fun x => x.records.isEmpty) h.track
  | ring => exact congrArg RingPort.validFrame h.ring
  | masterStop => exact congrArg (fun x => !x.lineStop) h.ring
  | tracking => rfl
  | gumSupply =>
    unfold clears gumClears analogRead
    rw [h.store, h.lines]

/-- Whether the test of one fault clears it. -/
def isCleared (z : Int) (s : State) (f : FaultKind) : Bool := hasFault s f && clears s z f

theorem handClearing_line (f : FaultKind) (s : State) : (handClearing f s).line = s.line := by
  cases f with
  | tracking => exact (clearLosses_touches s).line
  | _ => rfl

theorem reset_clearFault (z : Int) (s : State) (f : FaultKind) : (clearFault z s f).line.reset = s.line.reset := by
  unfold clearFault
  split
  · rw [handClearing_line]
    rfl
  · rfl

theorem hasFault_clearFault (z : Int) (s : State) (f g : FaultKind) :
    hasFault (clearFault z s f) g = (hasFault s g && !(decide (g = f) && clears s z f)) := by
  have hhand : hasFault (handClearing f (unlatch f s)) g = (hasFault s g && g != f) := by
    rw [← hasFault_unlatch]
    unfold hasFault
    rw [handClearing_line]
  unfold clearFault
  by_cases hg : g = f
  · subst hg
    cases hs : hasFault s g <;> cases hc : clears s z g <;> simp_all
  · have hne : (g != f) = true := bne_iff_ne.mpr hg
    split
    · rw [hhand]
      simp [hg, hne]
    · simp [hg]

/-- A fault is left latched exactly where it was latched and its condition fails. -/
theorem hasFault_clearStatus (z : Int) (s : State) (g : FaultKind) :
    hasFault (clearStatus z s).1 g = (hasFault s g && !clears s z g) := by
  have htouch (t : State) (f : FaultKind) : Touches [.line, .pos, .insp] t (clearFault z t f) := clearFault_touches z f t
  have hclears (t : State) (f g : FaultKind) : clears (clearFault z t f) z g = clears t z g := clears_of_touches (htouch t f) z g
  show hasFault (allFaults.foldl (clearFault z) s) g = _
  simp only [allFaults, List.foldl_cons, List.foldl_nil, hasFault_clearFault, hclears]
  cases g <;> simp

theorem pos_clearFault (z : Int) (s : State) (f : FaultKind) : (clearFault z s f).pos =
    if f = .reverse ∧ isCleared z s f = true then { s.pos with hwm := currentPos s, depth := 0 } else s.pos := by
  cases hc : isCleared z s f with
  | false =>
    rw [isCleared] at hc
    rw [clearFault, if_neg (by simp [hc]), if_neg (by simp)]
  | true =>
    rw [isCleared] at hc
    rw [clearFault, if_pos hc]
    cases f with
    | reverse => rw [if_pos ⟨rfl, rfl⟩]; rfl
    | tracking => rw [if_neg (by simp)]; exact (clearLosses_touches _).pos
    | encoder | ring | masterStop | gumSupply => rw [if_neg (by simp)]; rfl

theorem inspChannel_clearFault (z : Int) (s : State) (f : FaultKind) (j : Fin 8) : inspChannel (clearFault z s f) j =
    if f = .tracking ∧ hasFault s .tracking && isPresence s j then { inspChannel s j with losses := 0 }
    else inspChannel s j := by
  by_cases hf : f = .tracking
  · subst hf
    unfold clearFault
    simp only [clears, Bool.and_true, true_and]
    cases hs : hasFault s .tracking with
    | false => simp
    | true =>
      simp only [if_true, handClearing, Bool.true_and]
      rw [inspChannel_clearLosses]
      rfl
  · rw [if_neg (by simp [hf])]
    unfold clearFault
    split
    · cases f <;> first | rfl | exact absurd rfl hf
    · rfl

/-- Settles O10: CLEAR_STATUS, fault by fault. -/
theorem clearStatus : Obligations.ClearStatus := by
  intro args z s ha
  have hfault := hasFault_clearStatus z s
  have htouch := clearStatus_touches z s
  have hpos : (Machine.clearStatus z s).1.pos = if isCleared z s .reverse = true then
      { s.pos with hwm := currentPos s, depth := 0 } else s.pos := by
    have hclears (t : State) (f g : FaultKind) : clears (clearFault z t f) z g = clears t z g :=
      clears_of_touches (clearFault_touches z f t) z g
    show (allFaults.foldl (clearFault z) s).pos = _
    simp [allFaults, pos_clearFault, isCleared, hasFault_clearFault, hclears, currentPos]
  have hinsp (j : Fin 8) : inspChannel (Machine.clearStatus z s).1 j = if hasFault s .tracking && isPresence s j then
      { inspChannel s j with losses := 0 } else inspChannel s j := by
    have hpresence (t : State) (f : FaultKind) : isPresence (clearFault z t f) j = isPresence t j := by
      unfold isPresence inspOf
      rw [(clearFault_touches z f t).store]
    show inspChannel (allFaults.foldl (clearFault z) s) j = _
    simp [allFaults, inspChannel_clearFault, hasFault_clearFault, hpresence]
  have hrun : (Machine.clearStatus z s).1.line.run = s.line.run := RunLaw.clearStatus_run z s
  have hreset : (Machine.clearStatus z s).1.line.reset = s.line.reset := by
    show (allFaults.foldl (clearFault z) s).line.reset = _
    simp only [allFaults, List.foldl_cons, List.foldl_nil, reset_clearFault]
  have hexec : exec (.clearStatus args z) s = answered 64 args s .ok (lineRecord (Machine.clearStatus z s).1)
      (Machine.clearStatus z s).1 := congrArg _ (request_accepted ha 64 (Machine.clearStatus z))
  generalize (Machine.clearStatus z s).1 = t at *
  refine ⟨t, ?_, by simp [hfault, clears], by simp [hfault, clears], by simp [hfault, clears], by simp [hfault, clears],
    by simp [hfault, clears], ?_, ?_, fun h => ?_, fun h => ?_, hinsp⟩
  · rw [hexec, lineRecord_eq, hrun]
  · rw [hfault, clears, gumClears]
    cases s.store.inForce.gum.line with
    | none => simp
    | some l => simp only [← decide_not, not_le]
  · dsimp only
    rw [← hrun, ← hreset]
    exact frame_of_touches htouch
  · rw [hpos, if_pos (by simp [isCleared, clears, h])]
  · rw [hpos, if_neg (by rcases h with h | h <;> simp [isCleared, clears, h])]

/-! ## Snapshots -/

/-- Settles O13: the two snapshots. -/
theorem snapshots : Obligations.Snapshots := by
  refine fun args s ha => ⟨congrArg _ (request_accepted ha 71 _), (snapshotReset s).1,
    congrArg _ (request_accepted ha 72 snapshotReset), rfl, ?_⟩
  have hcounter (c : Counter) : counter (snapshotReset s).1 c =
      if c = .cutTotal ∨ c = .accepted then BitVec.ofNat 32 s.track.records.length else 0#32 := by
    show getAt (freshCounters s.track.records.length) (counterIdx c) = _
    cases c <;> simp [freshCounters, getAt_put, counterIdx]
  refine ⟨hcounter, ?_⟩
  have hrecords : (snapshotReset s).1.track = s.track := rfl
  simp [Conserved, hcounter, hrecords]

/-! ## The state of the Management Unit -/

theorem codeOp_mod (o : LongOp) : codeOp o % 256 = codeOp o := by cases o <;> rfl

theorem codeResult_mod (c : ResultCode) : codeResult c % 256 = codeResult c := by cases c <;> rfl

theorem slot_mod (k : Fin 8) : k.val % 256 = k.val := Nat.mod_eq_of_lt (by omega)

theorem node_mod (n : BitVec 6) : n.toNat % 256 = n.toNat := Nat.mod_eq_of_lt (by omega)

theorem codeValidity_mod (v : Validity) : codeValidity v % 256 = if v = .valid then 1 else 0 := by cases v <;> rfl

theorem bool_mod (b : Bool) : b.toNat % 256 = b.toNat := by cases b <;> rfl

theorem le16_value (n : Nat) : n % 256 + 256 * (n / 256 % 256) = n % 65536 := by omega

theorem codeOp_values : codeOp .recipeCheck = 0 ∧ codeOp .recipeClear = 1 := ⟨rfl, rfl⟩

/-- Settles O23: MGMT_STATUS, by the cases of an operation in flight and of a last result. -/
theorem mgmtStatus : Obligations.MgmtStatus := by
  refine fun args lock s ha => ⟨mgmtRecord s lock, congrArg _ (request_accepted ha 80 _), ?_⟩
  simp only [mgmtRecord, flightBytes, lastBytes, working]
  rcases s.mgmt with ⟨_ | ⟨op, k, x, b⟩, _ | ⟨op', k', r, _ | f⟩⟩ <;>
    simp [u8, u16, leOpt8, le8, leBool, le16, failureBytes, codeOp_mod, codeResult_mod, slot_mod, node_mod,
      codeValidity_mod, bool_mod, le16_value, codeOp_values]
  all_goals
    rintro _ g rfl hg
    simp_all

end Sys2Proof.LineRules
end

section
/-! SUPPORT. Numbers, notices and records as bytes (11 R172). -/

namespace Sys2Proof.Bytes

open Sys2Proof.Machine Sys2Proof.Requests Sys2Proof.LineRules

set_option Elab.async false

variable {s t : State}

/-! ## Numbers -/

theorem u8_of_length_le {bs : List Byte} {i : Nat} (h : bs.length ≤ i) : u8 bs i = 0 := by
  rw [u8, List.getD_eq_default _ _ h]
  rfl

@[simp] theorem u8_cons_zero (b : Byte) (bs : List Byte) : u8 (b :: bs) 0 = b.toNat := rfl

@[simp] theorem u8_cons_succ (b : Byte) (bs : List Byte) (i : Nat) : u8 (b :: bs) (i + 1) = u8 bs i := rfl

@[simp] theorem u8_nil (i : Nat) : u8 [] i = 0 := rfl

theorem u8_padTo (n : Nat) (bs : List Byte) (i : Nat) : u8 (padTo n bs) i = u8 bs i := by
  unfold u8 padTo
  by_cases h : i < bs.length
  · rw [List.getD_append _ _ _ _ h]
  · rw [List.getD_append_right _ _ _ _ (by omega), List.getD_eq_default bs _ (by omega)]
    by_cases hi : i - bs.length < (List.replicate (n - bs.length) 0#8).length
    · rw [List.getD_eq_getElem _ _ hi, List.getElem_replicate]
    · rw [List.getD_eq_default _ _ (by omega)]

theorem length_padTo (n : Nat) (bs : List Byte) : (padTo n bs).length = max n bs.length := by
  simp only [padTo, List.length_append, List.length_replicate]
  omega

theorem le32_value (n : Nat) : n % 65536 + 65536 * (n / 65536 % 256 + 256 * (n / 16777216 % 256))
    = n % 4294967296 := by omega

/-! ## Notices -/

theorem length_noticeFields_le (n : Notice) : (noticeFields n).length ≤ 16 := by
  cases n with
  | opDone o k r f => cases f <;> simp [noticeFields, le8, failureBytes]
  | _ => simp [noticeFields, le8, le16, le32, leBool]

theorem length_noticeBytes (n : Notice) : (noticeBytes n).length = 16 := by
  have h := length_noticeFields_le n
  rw [noticeBytes, length_padTo]
  omega

theorem u8_noticeBytes (n : Notice) (i : Nat) : u8 (noticeBytes n) i = u8 (noticeFields n) i := u8_padTo 16 _ i

theorem u16_noticeBytes (n : Notice) (i : Nat) : u16 (noticeBytes n) i = u16 (noticeFields n) i := by
  simp only [u16, u8_noticeBytes]

theorem u32_noticeBytes (n : Notice) (i : Nat) : u32 (noticeBytes n) i = u32 (noticeFields n) i := by
  simp only [u32, u16_noticeBytes]

/-- The bytes of each kind of notice. -/
theorem notice_bytes (n : Notice) (p : List Byte) (h : p = noticeBytes n) : p.length = 16 ∧
    (∀ tag e d b sh, n = .orderEnd tag e d b sh → u8 p 0 = 0 ∧ u16 p 1 = tag % 65536 ∧
      u8 p 3 = (match e with | .complete => 0 | .short => 1 | .aborted => 2) ∧
      u32 p 4 = d % 4294967296 ∧ u32 p 8 = b % 4294967296 ∧ u32 p 12 = sh % 4294967296) ∧
    (∀ tag left, n = .earlyEnd tag left → u8 p 0 = 1 ∧ u16 p 1 = tag % 65536 ∧ u16 p 3 = left % 65536 ∧
      ∀ i, 5 ≤ i → u8 p i = 0) ∧
    (∀ q, n = .boxClosed q → u8 p 0 = 2 ∧ u32 p 1 = q.toNat ∧ ∀ i, 5 ≤ i → u8 p i = 0) ∧
    (∀ c tag, n = .feedWait c tag → u8 p 0 = 3 ∧ u8 p 1 = (if c then 1 else 0) ∧ u16 p 2 = tag % 65536 ∧
      ∀ i, 4 ≤ i → u8 p i = 0) ∧
    (∀ f, n = .fault f → u8 p 0 = 4 ∧ u8 p 1 = (match f with
        | .encoder => 0 | .reverse => 1 | .ring => 2 | .masterStop => 3 | .tracking => 4 | .gumSupply => 5) ∧
      ∀ i, 2 ≤ i → u8 p i = 0) ∧
    (∀ o k c f, n = .opDone o k c f → u8 p 0 = 5 ∧ u8 p 1 = (match o with | .recipeCheck => 0 | .recipeClear => 1) ∧
      u8 p 2 = k.val ∧ u8 p 3 = codeResult c ∧ (f = none → ∀ i, 4 ≤ i → u8 p i = 0) ∧
      (∀ x, f = some x → u8 p 4 = x.check % 256 ∧ u8 p 5 = x.kind % 256 ∧ u8 p 6 = x.index % 256 ∧
        u8 p 7 = x.field % 256 ∧ ∀ i, 8 ≤ i → u8 p i = 0)) ∧
    (n = .takeSpurious → u8 p 0 = 6 ∧ ∀ i, 1 ≤ i → u8 p i = 0) := by
  subst h
  refine ⟨length_noticeBytes n, ?_, ?_, ?_, ?_, ?_, ?_, ?_⟩
  · rintro tag e d b sh rfl
    simp only [u8_noticeBytes, u16_noticeBytes, u32_noticeBytes, noticeFields]
    cases e <;> simp [u16, u32, le8, le16, le32_eq, le16_value, le32_value, codeEnd]
  · rintro tag left rfl
    simp only [u8_noticeBytes, u16_noticeBytes, noticeFields]
    exact ⟨rfl, by simp [u16, le8, le16, le16_value], by simp [u16, le8, le16, le16_value], fun i hi => u8_of_length_le hi⟩
  · rintro q rfl
    simp only [u8_noticeBytes, u32_noticeBytes, noticeFields]
    refine ⟨rfl, ?_, fun i hi => u8_of_length_le hi⟩
    simp [u16, u32, le8, le32_eq, le16_value, le32_value, q.isLt]
  · rintro c tag rfl
    simp only [u8_noticeBytes, u16_noticeBytes, noticeFields]
    exact ⟨rfl, by cases c <;> rfl, by simp [u16, le8, leBool, le16, le16_value], fun i hi => u8_of_length_le hi⟩
  · rintro f rfl
    simp only [u8_noticeBytes, noticeFields]
    exact ⟨rfl, by cases f <;> rfl, fun i hi => u8_of_length_le hi⟩
  · rintro o k c f rfl
    simp only [u8_noticeBytes, noticeFields]
    refine ⟨rfl, by cases o <;> rfl, by simp [le8, slot_mod], by simp [le8, codeResult_mod], ?_, ?_⟩
    · rintro rfl i hi
      exact u8_of_length_le hi
    · rintro x rfl
      exact ⟨by simp [le8, failureBytes], by simp [le8, failureBytes], by simp [le8, failureBytes],
        by simp [le8, failureBytes], fun i hi => u8_of_length_le hi⟩
  · rintro rfl
    simp only [u8_noticeBytes, noticeFields]
    exact ⟨rfl, fun i hi => u8_of_length_le hi⟩

theorem dropNotices_eq (s : State) : dropNotices s = { s with notices :=
    { queue := s.notices.queue.drop 2, overflow := s.notices.overflow && decide (2 < s.notices.queue.length) } } := by
  unfold dropNotices
  rcases s.notices with ⟨_ | ⟨n, _ | ⟨m, _ | ⟨x, rest⟩⟩⟩, b⟩ <;> simp

/-- Settles O14: the notice queue and its bytes. -/
theorem noticeRead : Obligations.NoticeRead := by
  refine ⟨fun args s ha => ⟨dropNotices s, (Machine.noticeRead s).2.payload,
    congrArg _ (request_accepted ha 74 Machine.noticeRead), dropNotices_eq s, ?_⟩, notice_bytes,
    fun n s => ⟨fun h => offer_room n h, fun h => offer_full n h⟩⟩
  simp only [Machine.noticeRead]
  rcases s.notices.queue with _ | ⟨n, _ | ⟨m, rest⟩⟩
  · simp [le8]
  · have hn := length_noticeBytes n
    simp [le8, hn, List.take_of_length_le hn.le]
  · have hn := length_noticeBytes n
    have hm := length_noticeBytes m
    simp [le8, hn, hm, List.take_left' hn, List.drop_left' hn]

end Sys2Proof.Bytes
end

section
/-! SUPPORT. Cycle frames: replies, slots, takes and the arrival of a frame (11 R172 to R181). -/

namespace Sys2Proof.Frames

open Sys2Proof.Machine Sys2Proof.Steps Sys2Proof.Overlay Sys2Proof.Requests Sys2Proof.LineRules Sys2Proof.Bytes

set_option Elab.async false

variable {s t : State} {f : List Byte}

/-! ## Overwritten bytes -/

theorem length_setBytes {i : Nat} {bs : List Byte} (h : i + bs.length ≤ f.length) : (setBytes f i bs).length = f.length := by
  simp only [setBytes, List.length_append, List.length_take, List.length_drop]
  omega

/-- A byte after an overwriting: the new one inside the bytes written, the old one outside. -/
theorem getD_setBytes {i : Nat} {bs : List Byte} (h : i + bs.length ≤ f.length) (j : Nat) :
    (setBytes f i bs).getD j 0#8 = if i ≤ j ∧ j < i + bs.length then bs.getD (j - i) 0#8 else f.getD j 0#8 := by
  have htake : (f.take i).length = i := by rw [List.length_take]; omega
  unfold setBytes
  rw [List.append_assoc]
  by_cases hlow : j < i
  · rw [if_neg (by omega), List.getD_append _ _ _ _ (by omega), List.getD_eq_getElem?_getD, List.getD_eq_getElem?_getD,
      List.getElem?_take_of_lt hlow]
  · rw [List.getD_append_right _ _ _ _ (by omega), htake]
    by_cases hhigh : j < i + bs.length
    · rw [if_pos ⟨by omega, hhigh⟩, List.getD_append _ _ _ _ (by omega)]
    · rw [if_neg (by omega), List.getD_append_right _ _ _ _ (by omega), List.getD_eq_getElem?_getD, List.getElem?_drop,
        List.getD_eq_getElem?_getD]
      congr 2
      omega

theorem u8_setBytes {i : Nat} {bs : List Byte} (h : i + bs.length ≤ f.length) (j : Nat) :
    u8 (setBytes f i bs) j = if i ≤ j ∧ j < i + bs.length then u8 bs (j - i) else u8 f j := by
  unfold u8
  rw [getD_setBytes h]
  split <;> rfl

/-- A slice of a byte list, byte by byte. -/
theorem slice_eq {a n : Nat} {l : List Byte} (hl : l.length = n) (hn : a + n ≤ f.length)
    (h : ∀ i, i < n → f.getD (a + i) 0#8 = l.getD i 0#8) : (f.drop a).take n = l := by
  refine List.ext_getElem (by rw [List.length_take, List.length_drop, hl]; omega) (fun i h1 h2 => ?_)
  have hi : i < n := hl ▸ h2
  have hb := h i hi
  rw [List.getD_eq_getElem _ _ (by omega), List.getD_eq_getElem _ _ h2] at hb
  rw [List.getElem_take, List.getElem_drop, hb]

/-! ## Management records -/

theorem recordOff_eq (f : List Byte) (j : Nat) : recordOff f j = 8 + 16 * u8 f 4 + 56 * j := rfl

theorem statedLength_eq (f : List Byte) : statedLength f = 12 + 16 * u8 f 4 + 56 * u8 f 5 := rfl

theorem recordCount_eq (f : List Byte) : recordCount f = u8 f 5 := rfl

theorem nextRequest_iff {n j : Nat} : nextRequest n f = some j ↔ j < u8 f 5 ∧ u8 f (recordOff f j) = n ∧
    u8 f (recordOff f j + 1) = 1 ∧ ∀ i, i < j → u8 f (recordOff f i) ≠ n ∨ u8 f (recordOff f i + 1) ≠ 1 := by
  unfold nextRequest
  rw [List.find?_range_eq_some]
  simp only [isRequestFor, Bool.and_eq_true, beq_iff_eq, List.mem_range, Bool.not_eq_true', Bool.and_eq_false_imp,
    beq_eq_false_iff_ne, recordCount_eq]
  constructor
  · rintro ⟨⟨hn, h1⟩, hj, hmin⟩
    exact ⟨hj, hn, h1, fun i hi => or_iff_not_imp_left.mpr (fun h => hmin i hi (not_not.mp h))⟩
  · rintro ⟨hj, hn, h1, hmin⟩
    exact ⟨⟨hn, h1⟩, hj, fun i hi h => (hmin i hi).resolve_left (not_not.mpr h)⟩

theorem recordArgs_short {j : Nat} (hlen : f.length = statedLength f) (hj : j < u8 f 5)
    (h : u8 f (recordOff f j + 4) ≤ 48) :
    recordArgs f j = (f.drop (recordOff f j + 8)).take (u8 f (recordOff f j + 4)) := by
  have hfit : ((f.drop (recordOff f j + 8)).take (u8 f (recordOff f j + 4))).length = u8 f (recordOff f j + 4) := by
    rw [List.length_take, List.length_drop, hlen, statedLength_eq]
    have := recordOff_eq f j
    omega
  rw [recordArgs, min_eq_left h, padTo, hfit, Nat.sub_self, List.replicate_zero, List.append_nil]

theorem recordArgs_long {j : Nat} (hlen : f.length = statedLength f) (hj : j < u8 f 5)
    (h : 48 < u8 f (recordOff f j + 4)) : recordArgs f j = (f.drop (recordOff f j + 8)).take 48
      ++ List.replicate (u8 f (recordOff f j + 4) - 48) 0#8 := by
  have hfit : ((f.drop (recordOff f j + 8)).take 48).length = 48 := by
    rw [List.length_take, List.length_drop, hlen, statedLength_eq]
    have := recordOff_eq f j
    omega
  rw [recordArgs, min_eq_right h.le, padTo, hfit]

/-- The bytes that a reply writes from byte 4 of its record on. -/
def replyBytes (r : Reply) : List Byte :=
  [BitVec.ofNat 8 r.payload.length, BitVec.ofNat 8 (codeResult r.result), 0#8, 0#8] ++ padTo 48 r.payload

theorem length_replyBytes {r : Reply} (h : r.payload.length ≤ 48) : (replyBytes r).length = 52 := by
  simp only [replyBytes, List.length_append, length_padTo, List.length_cons, List.length_nil]
  omega

/-- A byte of a frame with a reply in the place of record `j`. -/
theorem getD_writeReply {j : Nat} {r : Reply} (hlen : f.length = statedLength f) (hj : j < recordCount f)
    (hr : r.payload.length ≤ 48) (i : Nat) : (writeReply f j r).getD i 0#8 =
      if recordOff f j + 4 ≤ i ∧ i < recordOff f j + 56 then (replyBytes r).getD (i - (recordOff f j + 4)) 0#8
      else if i = recordOff f j + 1 then 2#8 else f.getD i 0#8 := by
  have hl := length_replyBytes hr
  have hoff := recordOff_eq f j
  rw [statedLength_eq] at hlen
  rw [recordCount_eq] at hj
  have hstate : recordOff f j + 1 + [2#8].length ≤ f.length := by simp; omega
  show (setBytes (setBytes f (recordOff f j + 1) [2#8]) (recordOff f j + 4) (replyBytes r)).getD i 0#8 = _
  rw [getD_setBytes (by rw [length_setBytes hstate, hl]; omega), getD_setBytes hstate, hl]
  have hrange : (recordOff f j + 4 ≤ i ∧ i < recordOff f j + 4 + 52) ↔ (recordOff f j + 4 ≤ i ∧ i < recordOff f j + 56) := by
    omega
  have hone : (recordOff f j + 1 ≤ i ∧ i < recordOff f j + 1 + [2#8].length) ↔ i = recordOff f j + 1 := by simp; omega
  simp only [hrange, hone]
  split
  · rfl
  · split
    · next h => rw [h]; simp
    · rfl

theorem length_writeReply {j : Nat} {r : Reply} (hlen : f.length = statedLength f) (hj : j < recordCount f)
    (hr : r.payload.length ≤ 48) : (writeReply f j r).length = f.length := by
  have hl := length_replyBytes hr
  have hoff := recordOff_eq f j
  rw [statedLength_eq] at hlen
  rw [recordCount_eq] at hj
  have hstate : (setBytes f (recordOff f j + 1) [2#8]).length = f.length := length_setBytes (by simp; omega)
  exact (length_setBytes (bs := replyBytes r) (by rw [hstate, hl]; omega)).trans hstate

/-- Settles O4: the reply in its record. -/
theorem replyReplacesRecord : Obligations.ReplyReplacesRecord := by
  refine ⟨fun f j r hlen hj hr => ?_, rfl, fun f n j => ⟨rfl, rfl, rfl, nextRequest_iff, fun hlen hj =>
    ⟨recordArgs_short hlen hj, recordArgs_long hlen hj⟩⟩⟩
  have hb := getD_writeReply hlen hj hr
  have hfield (i : Nat) (hi : i < 52) : (writeReply f j r).getD (recordOff f j + 4 + i) 0#8 = (replyBytes r).getD i 0#8 := by
    rw [hb, if_pos (by omega), Nat.add_sub_cancel_left]
  have hpay : r.payload.length % 256 = r.payload.length := Nat.mod_eq_of_lt (by omega)
  refine ⟨length_writeReply hlen hj hr, ?_, ?_, ?_, ?_, ?_, fun i hi => ?_, fun i hi => ?_⟩
  · rw [u8, hb, if_neg (by omega), if_pos rfl]
    rfl
  · rw [u8, hfield 0 (by omega)]
    simpa [replyBytes] using hpay
  · rw [u8, hfield 1 (by omega)]
    simpa [replyBytes] using codeResult_mod r.result
  · rw [u8, hfield 2 (by omega)]
    rfl
  · rw [u8, hfield 3 (by omega)]
    rfl
  · rw [show recordOff f j + 8 + i = recordOff f j + 4 + (i + 4) by omega, hfield (i + 4) (by omega)]
    have h := u8_padTo 48 r.payload i
    exact BitVec.eq_of_toNat_eq h
  · rw [hb, if_neg (by omega), if_neg (by omega)]

/-! ## Slots -/

/-- What this node writes into slot `k` from its byte 3 on, where it writes it. -/
def slotPayload (s : State) (f : List Byte) (k : Nat) : Option (List Byte) :=
  if u8 f (slotOff k) = s.ring.node.toNat then
    if u8 f (slotOff k + 2) = 1 then some (1#8 :: statusPayload s)
    else if u8 f (slotOff k + 2) = 2 then some (1#8 :: trimPayload s) else none
  else none

theorem length_statusPayload (s : State) : (statusPayload s).length = 12 := rfl

theorem length_trimPayload (s : State) : (trimPayload s).length = 12 := by
  rw [trimPayload, length_padTo]
  rfl

theorem length_slotPayload {k : Nat} {bs : List Byte} (h : slotPayload s f k = some bs) : bs.length = 13 := by
  unfold slotPayload at h
  split at h
  · split at h
    · cases h
      rfl
    · split at h
      · cases h
        exact congrArg (· + 1) (length_trimPayload s)
      · cases h
  · cases h

theorem writeSlot_eq (s : State) (f : List Byte) (k : Nat) : writeSlot s f k = match slotPayload s f k with
    | some bs => setBytes f (slotOff k + 3) bs
    | none => f := by
  unfold writeSlot slotPayload
  split
  · generalize u8 f (slotOff k + 2) = kind
    by_cases h1 : kind = 1
    · subst h1
      rfl
    · by_cases h2 : kind = 2
      · subst h2
        rfl
      · rw [if_neg h1, if_neg h2]
        split <;> first | contradiction | rfl
  · rfl

/-- Byte `i` of a frame with its first `n` slots written. -/
def slotByte (s : State) (f : List Byte) (n i : Nat) : Byte :=
  if 8 ≤ i ∧ i < slotOff n ∧ 3 ≤ (i - 8) % 16 then
    match slotPayload s f ((i - 8) / 16) with
    | some bs => bs.getD ((i - 8) % 16 - 3) 0#8
    | none => f.getD i 0#8
  else f.getD i 0#8

theorem slotByte_of_le {n i : Nat} (h : slotOff n ≤ i ∨ i < 8 ∨ (i - 8) % 16 < 3) : slotByte s f n i = f.getD i 0#8 :=
  if_neg (by omega)

theorem slotPayload_congr {g : List Byte} {k : Nat} (h : ∀ i, i < 3 → g.getD (slotOff k + i) 0#8 = f.getD (slotOff k + i) 0#8) :
    slotPayload s g k = slotPayload s f k := by
  have h0 : u8 g (slotOff k) = u8 f (slotOff k) := congrArg BitVec.toNat (h 0 (by omega))
  have h2 : u8 g (slotOff k + 2) = u8 f (slotOff k + 2) := congrArg BitVec.toNat (h 2 (by omega))
  simp only [slotPayload, h0, h2]

/-- The slots are written one after another, each by what the frame that arrived holds in it. -/
theorem writeSlots_upTo (s : State) (f : List Byte) : ∀ n, slotOff n ≤ f.length →
    ((List.range n).foldl (writeSlot s) f).length = f.length ∧
    ∀ i, ((List.range n).foldl (writeSlot s) f).getD i 0#8 = slotByte s f n i
  | 0, _ => ⟨rfl, fun i => (slotByte_of_le (by simp only [slotOff]; omega)).symm⟩
  | n + 1, h => by
    have hoff : slotOff (n + 1) = slotOff n + 16 := by simp only [slotOff]; omega
    have hslot : slotOff n = 8 + 16 * n := rfl
    obtain ⟨hlen, hbyte⟩ := writeSlots_upTo s f n (by omega)
    rw [List.range_succ, List.foldl_append, List.foldl_cons, List.foldl_nil]
    generalize (List.range n).foldl (writeSlot s) f = g at *
    have hpay : slotPayload s g n = slotPayload s f n :=
      slotPayload_congr (fun i _ => (hbyte _).trans (slotByte_of_le (by omega)))
    rw [writeSlot_eq, hpay]
    cases hp : slotPayload s f n with
    | none =>
      refine ⟨hlen, fun i => (hbyte i).trans ?_⟩
      unfold slotByte
      by_cases hi : slotOff n ≤ i ∧ i < slotOff (n + 1)
      · rw [if_neg (by omega), show (i - 8) / 16 = n by omega, hp]
        simp
      · have hrange : (8 ≤ i ∧ i < slotOff n ∧ 3 ≤ (i - 8) % 16) ↔ (8 ≤ i ∧ i < slotOff (n + 1) ∧ 3 ≤ (i - 8) % 16) := by omega
        simp only [hrange]
    | some bs =>
      have hl := length_slotPayload hp
      refine ⟨(length_setBytes (by omega)).trans hlen, fun i => ?_⟩
      show (setBytes g (slotOff n + 3) bs).getD i 0#8 = _
      rw [getD_setBytes (by omega), hbyte]
      by_cases hi : slotOff n + 3 ≤ i ∧ i < slotOff n + 3 + bs.length
      · rw [if_pos hi, slotByte, if_pos (by omega), show (i - 8) / 16 = n by omega, hp]
        show _ = bs.getD ((i - 8) % 16 - 3) 0#8
        rw [show (i - 8) % 16 - 3 = i - (slotOff n + 3) by omega]
      · rw [if_neg hi]
        have hrange : (8 ≤ i ∧ i < slotOff n ∧ 3 ≤ (i - 8) % 16) ↔ (8 ≤ i ∧ i < slotOff (n + 1) ∧ 3 ≤ (i - 8) % 16) := by omega
        unfold slotByte
        simp only [hrange]

theorem slotOff_slotCount_le (h : f.length = statedLength f) : slotOff (slotCount f) ≤ f.length := by
  rw [h, statedLength, slotOff]
  omega

theorem length_writeSlots (h : f.length = statedLength f) : (writeSlots s f).length = f.length :=
  (writeSlots_upTo s f _ (slotOff_slotCount_le h)).1

theorem getD_writeSlots (h : f.length = statedLength f) (i : Nat) :
    (writeSlots s f).getD i 0#8 = slotByte s f (slotCount f) i := (writeSlots_upTo s f _ (slotOff_slotCount_le h)).2 i

/-- A slot that this node writes holds its payload from byte 3 on. -/
theorem slice_writeSlots (h : f.length = statedLength f) {k : Nat} (hk : k < slotCount f) {bs : List Byte}
    (hp : slotPayload s f k = some bs) : ((writeSlots s f).drop (slotOff k + 3)).take 13 = bs := by
  have hend := slotOff_slotCount_le h
  have hoff : slotOff k = 8 + 16 * k := rfl
  have hcount : slotOff (slotCount f) = 8 + 16 * slotCount f := rfl
  have hl := length_slotPayload hp
  refine slice_eq hl (by rw [length_writeSlots h]; omega) (fun i hi => ?_)
  rw [getD_writeSlots h, slotByte, if_pos (by omega), show (slotOff k + 3 + i - 8) / 16 = k by omega, hp]
  show bs.getD _ 0#8 = _
  rw [show (slotOff k + 3 + i - 8) % 16 - 3 = i by omega]

/-- A slot that this node does not write stays. -/
theorem slice_writeSlots_other (h : f.length = statedLength f) {k : Nat} (hk : k < slotCount f)
    (hp : slotPayload s f k = none) : ((writeSlots s f).drop (slotOff k)).take 16 = (f.drop (slotOff k)).take 16 := by
  have hend := slotOff_slotCount_le h
  have hoff : slotOff k = 8 + 16 * k := rfl
  have hcount : slotOff (slotCount f) = 8 + 16 * slotCount f := rfl
  refine slice_eq (by rw [List.length_take, List.length_drop]; omega) (by rw [length_writeSlots h]; omega) (fun i hi => ?_)
  have hold : ((f.drop (slotOff k)).take 16).getD i 0#8 = f.getD (slotOff k + i) 0#8 := by
    simp only [List.getD_eq_getElem?_getD, List.getElem?_take_of_lt hi, List.getElem?_drop]
  rw [hold, getD_writeSlots h, slotByte, show (slotOff k + i - 8) / 16 = k by omega, hp]
  exact ite_self _

theorem clearReserved_bytes (h : 8 ≤ f.length) : (clearReserved f).length = f.length ∧
    ∀ i, (clearReserved f).getD i 0#8 = if i = 6 ∨ i = 7 then 0#8 else f.getD i 0#8 := by
  have hfit : 6 + [0#8, 0#8].length ≤ f.length := h
  refine ⟨length_setBytes hfit, fun i => ?_⟩
  rw [clearReserved, getD_setBytes hfit]
  have hrange : (6 ≤ i ∧ i < 6 + [0#8, 0#8].length) ↔ i = 6 ∨ i = 7 := by simp; omega
  simp only [hrange]
  split
  · next hi => rcases hi with rfl | rfl <;> rfl
  · rfl

theorem leTag_map (o : Option Order) : leTag (o.map Order.tag) = le16 (match o with | some x => x.tag | none => 0) := by
  cases o <;> rfl

theorem statusPayload_eq (s : State) : statusPayload s = [
      BitVec.ofNat 8 (match s.line.run with | .idle => 0 | .running => 1 | .draining => 2 | .halted => 3),
      BitVec.ofNat 8 (match s.orders.feedState with
        | .noOrder => 0 | .feeding => 1 | .suspended => 2 | .changeover => 3),
      (holdReasons s).setWidth 8,
      BitVec.ofNat 8 (match s.reg.state with | .off => 0 | .seek => 1 | .locked => 2 | .coast => 3 | .lost => 4),
      s.line.faults.setWidth 8,
      BitVec.ofNat 8 (s.notices.queue.length + if s.notices.overflow then 128 else 0),
      BitVec.ofNat 8 (match activeOrder s with | some o => o.tag | none => 0),
      BitVec.ofNat 8 ((match activeOrder s with | some o => o.tag | none => 0) / 256),
      BitVec.ofNat 8 s.pos.speed, BitVec.ofNat 8 (s.pos.speed / 256),
      BitVec.ofNat 8 (s.reg.trim % 65536).toNat, BitVec.ofNat 8 ((s.reg.trim % 65536).toNat / 256)] := by
  have hrun : codeRun s.line.run = match s.line.run with | .idle => 0 | .running => 1 | .draining => 2 | .halted => 3 := by
    cases s.line.run <;> rfl
  have hfeed : codeFeed s.orders.feedState = match s.orders.feedState with
      | .noOrder => 0 | .feeding => 1 | .suspended => 2 | .changeover => 3 := by cases s.orders.feedState <;> rfl
  have hreg : codeReg s.reg.state = match s.reg.state with | .off => 0 | .seek => 1 | .locked => 2 | .coast => 3 | .lost => 4 := by
    cases s.reg.state <;> rfl
  rw [statusPayload, leTag_map, ← hrun, ← hfeed, ← hreg, ← BitVec.ofNat_toNat, ← BitVec.ofNat_toNat]
  rfl

theorem le16_mod (n : Nat) : le16 (n % 65536) = le16 n := by
  have hlow : BitVec.ofNat 8 (n % 65536) = BitVec.ofNat 8 n := BitVec.eq_of_toNat_eq (by simp)
  have hhigh : BitVec.ofNat 8 (n % 65536 / 256) = BitVec.ofNat 8 (n / 256) := BitVec.eq_of_toNat_eq (by simp; omega)
  rw [le16, hlow, hhigh, le16]

theorem trimPayload_eq (s : State) : trimPayload s = [
      BitVec.ofNat 8 (s.reg.trim % 65536).toNat, BitVec.ofNat 8 ((s.reg.trim % 65536).toNat / 256),
      BitVec.ofNat 8 (match s.reg.state with | .off => 0 | .seek => 1 | .locked => 2 | .coast => 3 | .lost => 4),
      BitVec.ofNat 8 (match s.reg.last with | some c => (c.error % 65536).toNat | none => 0),
      BitVec.ofNat 8 ((match s.reg.last with | some c => (c.error % 65536).toNat | none => 0) / 256),
      BitVec.ofNat 8 (match s.reg.last with | some c => c.pitch.toNat | none => 0),
      BitVec.ofNat 8 ((match s.reg.last with | some c => c.pitch.toNat | none => 0) / 256),
      0#8, 0#8, 0#8, 0#8, 0#8] := by
  have hreg : codeReg s.reg.state = match s.reg.state with | .off => 0 | .seek => 1 | .locked => 2 | .coast => 3 | .lost => 4 := by
    cases s.reg.state <;> rfl
  rw [trimPayload, ← hreg, lastError, capturePitch]
  cases s.reg.last with
  | none => rfl
  | some c =>
    simp only [le16_mod]
    rfl

/-- Settles O21: the slots of this node and the reserved header bytes. -/
theorem slotsWritten : Obligations.SlotsWritten := by
  refine ⟨fun f s h => ⟨length_writeSlots h, fun i hi => ?_, fun k hk => ⟨fun i hi => ?_, fun hw hk1 => ?_, fun hw hk2 => ?_,
    fun hother => ?_⟩⟩, fun f h => clearReserved_bytes h, ?_⟩
  · rw [getD_writeSlots h, slotByte_of_le]
    have hrec : recordOff f 0 = slotOff (slotCount f) := by simp [recordOff, slotOff]
    omega
  · rw [getD_writeSlots h, slotByte_of_le]
    have hoff : slotOff k = 8 + 16 * k := rfl
    omega
  · exact slice_writeSlots h hk (by rw [slotPayload, if_pos hw, if_pos hk1])
  · exact slice_writeSlots h hk (by rw [slotPayload, if_pos hw, if_neg (by omega), if_pos hk2])
  · refine slice_writeSlots_other h hk ?_
    unfold slotPayload
    rcases hother with hw | ⟨h1, h2⟩
    · rw [if_neg hw]
    · rw [if_neg h1, if_neg h2, ite_self]
  · rintro s reg tag trim err pitch rfl rfl rfl rfl rfl
    exact ⟨statusPayload_eq s, trimPayload_eq s⟩

/-! ## Takes -/

/-- The notices after `n` takes from `w` waiting boxes: one TAKE_SPURIOUS for each take beyond them (08 R145). -/
def takenNotices (n w : Nat) (q : NoticeQueue) : NoticeQueue :=
  ⟨q.queue ++ List.replicate (min (n - w) (16 - q.queue.length)) .takeSpurious,
    q.overflow || decide (16 - q.queue.length < n - w)⟩

theorem takenNotices_of_le {n w : Nat} (q : NoticeQueue) (h : n ≤ w) : takenNotices n w q = q := by
  simp [takenNotices, Nat.sub_eq_zero_of_le h]

theorem offer_takeSpurious (n : Nat) (s : State) :
    takenNotices n 0 (offer .takeSpurious s).notices = takenNotices (n + 1) 0 s.notices := by
  by_cases h : s.notices.queue.length < 16
  · rw [offer_room _ h]
    simp only [takenNotices, List.length_append, List.length_cons, List.length_nil, List.append_assoc, Nat.sub_zero]
    congr 1
    · rw [show min (n + 1) (16 - s.notices.queue.length) = min n (16 - (s.notices.queue.length + 1)) + 1 by omega,
        List.replicate_succ]
      rfl
    · have hlt : (16 - (s.notices.queue.length + (0 + 1)) < n) ↔ (16 - s.notices.queue.length < n + 1) := by omega
      simp only [hlt]
  · rw [offer_full _ (by omega)]
    simp [takenNotices, show 16 - s.notices.queue.length = 0 by omega]

theorem takes_eq : ∀ (n : Nat) (s : State), takes n s = { s with
    deliv := { s.deliv with waiting := s.deliv.waiting - n }, notices := takenNotices n s.deliv.waiting s.notices }
  | 0, s => by
    rw [takenNotices_of_le _ (Nat.zero_le _)]
    rfl
  | n + 1, s => by
    rw [takes, takes_eq n (take s), take]
    split
    · have hn : takenNotices n (s.deliv.waiting - 1) s.notices = takenNotices (n + 1) s.deliv.waiting s.notices := by
        simp only [takenNotices, show n - (s.deliv.waiting - 1) = n + 1 - s.deliv.waiting by omega]
      simp only [hn, Nat.sub_sub, Nat.add_comm 1 n]
    · have hw : s.deliv.waiting = 0 := by omega
      have hframe := frame_of_touches (offer_touches .takeSpurious s)
      have hnext := offer_takeSpurious n s
      have hdeliv : (offer .takeSpurious s).deliv = s.deliv := (offer_touches _ _).deliv
      rw [hdeliv, hw, hnext]
      generalize offer .takeSpurious s = u at *
      rw [hframe]
      simp [overlay]

theorem takeSlot_iff {c : Byte} : takeSlot s f = some c ↔ ∃ k, k < slotCount f ∧
    (u8 f (slotOff k + 2) = 3 ∧ u8 f (slotOff k + 1) = s.ring.node.toNat ∧ u8 f (slotOff k + 3) = 1) ∧
    (∀ j, j < k → ¬ (u8 f (slotOff j + 2) = 3 ∧ u8 f (slotOff j + 1) = s.ring.node.toNat ∧ u8 f (slotOff j + 3) = 1)) ∧
    c = f.getD (slotOff k + 4) 0#8 := by
  unfold takeSlot
  simp only [Option.map_eq_some_iff, List.find?_range_eq_some, List.mem_range, Bool.and_eq_true, beq_iff_eq,
    Bool.not_eq_true', ← Bool.not_eq_true]
  constructor
  · rintro ⟨k, ⟨⟨⟨h2, h1⟩, h3⟩, hk, hmin⟩, rfl⟩
    exact ⟨k, hk, ⟨h2, h1, h3⟩, fun j hj h => hmin j hj ⟨⟨h.1, h.2.1⟩, h.2.2⟩, rfl⟩
  · rintro ⟨k, hk, ⟨h2, h1, h3⟩, hmin, rfl⟩
    exact ⟨k, ⟨⟨⟨h2, h1⟩, h3⟩, hk, fun j hj h => hmin j hj ⟨h.1.1, h.1.2, h.2⟩⟩, rfl⟩

theorem readTakes_some {c : Byte} (h : takeSlot s f = some c) : readTakes f s =
    match s.ring.takeCount with
    | none => { s with ring := { s.ring with takeCount := some c } }
    | some old => if s.store.inForce.general.takeSource = .ring then
        takes (c - old).toNat { s with ring := { s.ring with takeCount := some c } }
      else { s with ring := { s.ring with takeCount := some c } } := by
  unfold readTakes
  rw [h] <;> rfl

theorem readTakes_none (h : takeSlot s f = none) : readTakes f s = s := by
  unfold readTakes
  rw [h]

/-- Settles O22: the TAKE slot that is read. -/
theorem takesRead : Obligations.TakesRead := by
  refine ⟨fun f s c h => ⟨?_, fun hq => ?_, fun old ho hring => ?_⟩,
    fun f s => ⟨fun c => takeSlot_iff, readTakes_none, fun _ => rfl, rfl⟩⟩
  · rw [readTakes_some h]
    split
    · rfl
    · split
      · rw [takes_eq]
      · rfl
  · rw [readTakes_some h]
    split
    · rfl
    · next ho =>
      rcases hq with hq | hq
      · rw [ho] at hq
        cases hq
      · rw [if_neg hq]
  · rw [readTakes_some h, ho]
    show (if _ then _ else _) = _
    rw [if_pos hring, takes_eq]
    rfl

/-! ## The arrival of a frame -/

theorem isDamaged_iff : isDamaged f = true ↔ 32 < u8 f 4 ∨ 4 < u8 f 5 ∨ f.length ≠ 12 + 16 * u8 f 4 + 56 * u8 f 5 ∨
    (f.getD 1 0#8).getLsbD 7 = true ∨ u32 f (f.length - 4) ≠ (crc32 (f.take (f.length - 4))).toNat := by
  simp only [isDamaged, Bool.or_eq_true, decide_eq_true_eq, bne_iff_ne, or_assoc]
  rfl

theorem crc32_append (bs : List Byte) (b : Byte) : crc32 (bs ++ [b]) = ~~~ (List.range 8).foldl
    (fun c _ => if c.getLsbD 0 then (c >>> 1) ^^^ 0xEDB88320#32 else c >>> 1) (~~~ crc32 bs ^^^ b.zeroExtend 32) := by
  rw [crc32, crc32, List.foldl_append, BitVec.not_not]
  rfl

theorem markDamaged_bytes (f : List Byte) : (markDamaged f).length = f.length ∧
    (∀ i, i ≠ 1 → (markDamaged f).getD i 0#8 = f.getD i 0#8) ∧
    (2 ≤ f.length → (markDamaged f).getD 1 0#8 = f.getD 1 0#8 ||| 0x80#8) := by
  refine ⟨List.length_modify _ _ _, fun i hi => ?_, fun h => ?_⟩
  · rw [List.getD_eq_getElem?_getD, markDamaged, List.getElem?_modify, List.getD_eq_getElem?_getD]
    simp [Ne.symm hi]
  · rw [List.getD_eq_getElem?_getD, markDamaged, List.getElem?_modify, List.getD_eq_getElem?_getD,
      List.getElem?_eq_getElem (show 1 < f.length by omega)]
    rfl

/-- A frame that reaches a part which is free of another and has no reset due. -/
theorem exec_frameArrival (hfree : s.resetHeld = false) (hrep : repeating s = false) (hpass : s.ring.passage = none)
    (hreset : s.line.reset ≠ .due) (f : List Byte) : exec (.frameArrival f) s = .next (receiveFrame f s) := by
  refine congrArg _ ((event_free hfree _).trans ?_)
  have hsame : resetBeforeFrame s = s := by rw [resetBeforeFrame, fullReset, if_neg hreset]
  rw [frameArrival, hrep, hpass, hsame]
  rfl

theorem report_line_reset (k : FaultKind) (s : State) : (report k s).line.reset = s.line.reset := by
  cases hf : hasFault s k with
  | true => rw [report_latched hf]
  | false =>
    obtain ⟨-, -, -, -, hframe⟩ := (reportLatches k s).2 hf
    rw [hframe]

/-- What a valid cycle frame does before its TAKE slot is read. -/
theorem reportStop_noteFrame (f : List Byte) (s : State) : reportStop f (noteFrame f s) =
    (if (f.getD 1 0#8).getLsbD 0 then report .masterStop else id)
      { s with ring := { s.ring with watchdog := some s.pos.timebase, validFrame := true,
                                     lineStop := (f.getD 1 0#8).getLsbD 0, cycle := u16 f 2 } } := by
  have hflag : lineStopFlag f = (f.getD 1 0#8).getLsbD 0 := rfl
  rw [reportStop, hflag]
  split <;> rfl

/-- Settles O20: a frame that arrives. -/
theorem frameArrival : Obligations.FrameArrival := by
  refine ⟨fun f g s v r hfree hrep hreset hpass hgood hkind hv hr hg => ?_, fun f => isDamaged_iff, ⟨rfl, crc32_append⟩,
    fun f s hfree => ⟨fun hrep => ?_, fun hrep hpass => ?_, fun hrep hpass hdue => ?_, fun hrep hpass hreset hbad => ?_,
      fun hrep hpass hreset hgood hkind => ?_⟩⟩
  · have hexec : exec (.frameArrival f) s = .next (passFrame g r) := by
      rw [exec_frameArrival hfree hrep hpass hreset, receiveFrame, hgood, actOnFrame, reportStop_noteFrame, ← hv, hg, hr]
      simp [hkind]
    have hring : v.ring.node = s.ring.node ∧ v.mgmt = s.mgmt ∧ v.line.reset = s.line.reset := by
      rw [hv]
      split
      · rw [(report_touches _ _).ring, (report_touches _ _).mgmt, report_line_reset]
        exact ⟨rfl, rfl, rfl⟩
      · exact ⟨rfl, rfl, rfl⟩
    obtain ⟨hnode, hmgmt, hline⟩ := hring
    have hrnode : r.ring.node = s.ring.node := by
      rw [hr, ← hnode]
      cases hc : takeSlot v f with
      | none => rw [readTakes_none hc]
      | some c => rw [(takesRead.1 f v c hc).1]
    have hrmgmt : r.mgmt = s.mgmt := by rw [hr, (readTakes_touches f v).mgmt, hmgmt]
    have hrline : r.line.reset = s.line.reset := by rw [hr, (readTakes_touches f v).line, hline]
    rw [hexec, ← hrnode, ← hrmgmt, ← hrline]
    refine ⟨fun hne => ?_, fun hnone => ?_⟩
    · obtain ⟨i, hi⟩ := Option.ne_none_iff_exists'.mp hne
      simp only [passFrame, hi]
    · simp only [passFrame, hnone, forwardFrame]
  · refine congrArg _ ((event_free hfree _).trans ?_)
    rw [Machine.frameArrival, if_pos hrep]
    rfl
  · refine congrArg _ ((event_free hfree _).trans ?_)
    rw [Machine.frameArrival, hrep, if_neg (by simp), if_pos (Option.isSome_iff_ne_none.mpr hpass)]
  · have hreset : resetBeforeFrame s = takeReset ⟨s.lines.levels, s.pos.phases, s.ring.node⟩ s := if_pos hdue
    have hleft : exec (.frameArrival f) s = .next (receiveFrame f (takeReset ⟨s.lines.levels, s.pos.phases, s.ring.node⟩ s)) := by
      refine congrArg _ ((event_free hfree _).trans ?_)
      rw [Machine.frameArrival, hrep, hpass, hreset]
      rfl
    rw [hleft]
    exact (exec_frameArrival (s := takeReset ⟨s.lines.levels, s.pos.phases, s.ring.node⟩ s) rfl hrep rfl
      (by simp [takeReset, State.resetWith]) f).symm
  · obtain ⟨hlen, hother, hflag⟩ := markDamaged_bytes f
    refine ⟨markDamaged f, ?_, hlen, hother, hflag⟩
    rw [exec_frameArrival hfree hrep hpass hreset, receiveFrame, if_pos hbad]
    rfl
  · rw [exec_frameArrival hfree hrep hpass hreset, receiveFrame, if_neg (by simp [hgood]), if_pos hkind]
    rfl

end Sys2Proof.Frames
end

section
/-! SUPPORT. The Machine Table: its items, its reads and writes, its check and its apply (chapter 02, section 2.1). -/

namespace Sys2Proof.Tables

open Sys2Proof.Machine Sys2Proof.Overlay Sys2Proof.Passes Sys2Proof.Requests Sys2Proof.LineRules Sys2Proof.Bytes

set_option Elab.async false

variable {s t : State} {α : Type}

/-! ## Checks of fields -/

theorem firstBad_eq : ∀ oks : List Bool, firstBad oks = oks.findIdx? (fun ok => !ok)
  | [] => rfl
  | true :: rest => by simp [firstBad, firstBad_eq rest, List.findIdx?_cons]
  | false :: _ => by simp [firstBad, List.findIdx?_cons]

/-- The reading of an item by its field checks, where the item is only looked at with every field in range. -/
theorem checked_eq {oks : List Bool} {x y : α} (h : (∀ ok ∈ oks, ok = true) → x = y) : checked oks x = inRanges oks y := by
  unfold checked inRanges
  rw [firstBad_eq]
  cases hf : oks.findIdx? (fun ok => !ok) with
  | some n => rfl
  | none =>
    rw [List.findIdx?_eq_none_iff] at hf
    rw [h (fun ok hok => by simpa using hf ok hok)]

theorem within_zero (hi n : Nat) : within 0 hi n = decide (n ≤ hi) := by simp [within]

theorem within_eq (lo hi n : Nat) : within lo hi n = decide (lo ≤ n ∧ n ≤ hi) := by simp [within, Bool.decide_and]

theorem within_or_absent (hi n x : Nat) : (within 0 hi n || n == x) = decide (n ≤ hi ∨ n = x) := by
  rw [within_zero, Bool.decide_or]
  rfl

theorem beq_one (n : Nat) : (n == 1) = decide (n = 1) := rfl

theorem appKindOf_eq (n : Nat) : appKindOf n = [AppKind.windowCut, .patch, .gum].getD n .aux := by
  rcases n with _ | _ | _ | n <;> rfl

theorem inspKindOf_eq (n : Nat) : inspKindOf n = [InspKind.presence, .span, .count].getD n .level := by
  rcases n with _ | _ | _ | n <;> rfl

/-- The output functions by code: the six named ones, then the channels. -/
theorem functionOf_eq (c : Nat) : functionOf c = if c ≤ 5 ∨ (16 ≤ c ∧ c ≤ 27) then
    some ([OutFunction.none, .manual, .feedGate, .rejectGate, .separator, .stopRequest].getD c (.channel (Fin.ofNat 12 (c - 16))))
    else none := by
  rcases c with _ | _ | _ | _ | _ | _ | c
  iterate 6 rfl
  have hdef : functionOf (c + 6) = if 16 ≤ c + 6 ∧ c + 6 ≤ 27 then some (.channel (Fin.ofNat 12 (c + 6 - 16))) else none := rfl
  have hrange : (c + 6 ≤ 5 ∨ (16 ≤ c + 6 ∧ c + 6 ≤ 27)) ↔ (16 ≤ c + 6 ∧ c + 6 ≤ 27) := by omega
  have hname : [OutFunction.none, .manual, .feedGate, .rejectGate, .separator, .stopRequest].getD (c + 6)
      (.channel (Fin.ofNat 12 (c + 6 - 16))) = .channel (Fin.ofNat 12 (c + 6 - 16)) := rfl
  simp only [hdef, hrange, hname]

theorem functionOf_isSome (c : Nat) : (functionOf c).isSome = decide (c ≤ 5 ∨ (16 ≤ c ∧ c ≤ 27)) := by
  rw [functionOf_eq]
  split <;> simp_all

theorem parseGeneral_eq (b : List Byte) : parseTableItem 1 0 b = inRanges [decide (1 ≤ u16 b 0 ∧ u16 b 0 ≤ 3599),
        decide (2 ≤ u8 b 2 ∧ u8 b 2 ≤ 28),
        decide (u16 b 3 ≤ 3599), decide (4 ≤ u8 b 5 ∧ u8 b 5 ≤ 30), decide (u16 b 6 ≤ 3599),
        decide (1 ≤ u16 b 8 ∧ u16 b 8 ≤ 3599), decide (1 ≤ u8 b 10 ∧ u8 b 10 ≤ 4),
        decide (u8 b 11 ≤ 15 ∨ u8 b 11 = 255), decide (2 ≤ u8 b 12 ∧ u8 b 12 ≤ 100)]
      (.general ⟨u16 b 0, u8 b 2, u16 b 3, u8 b 5, u16 b 6, u16 b 8, u8 b 10,
        if u8 b 11 = 255 then .ring else .line (Fin.ofNat 16 (u8 b 11)), u8 b 12⟩) := by
  show parseGeneral b = _
  unfold parseGeneral
  rw [within_or_absent]
  simp only [within_zero]
  simp only [within_eq]
  exact checked_eq (fun _ => rfl)

theorem parseGum_eq (b : List Byte) : parseTableItem 2 0 b = inRanges [decide (u8 b 0 ≤ 15 ∨ u8 b 0 = 255),
        decide (u16 b 1 ≤ 4095), decide (u16 b 3 ≤ 1000)]
      (.gum ⟨if u8 b 0 = 255 then none else some (Fin.ofNat 16 (u8 b 0)), u16 b 1, u16 b 3⟩) := by
  show parseGum b = _
  unfold parseGum
  rw [within_or_absent]
  simp only [within_zero]
  exact checked_eq (fun _ => rfl)

theorem ofNat_val {n : Nat} [NeZero n] (k : Fin n) : Fin.ofNat n k.val = k := by
  apply Fin.ext
  simp

theorem parseApplication_eq (k : Fin 12) (b : List Byte) : parseTableItem 3 k.val b = inRanges [decide (u8 b 0 ≤ 1),
        decide (u8 b 1 ≤ 3),
        decide (2 ≤ u8 b 2 ∧ u8 b 2 ≤ 29), decide (u8 b 3 ≤ 15), decide (u16 b 4 ≤ 20000), decide (u16 b 6 ≤ 20000)]
      (.application k ⟨decide (u8 b 0 = 1), [.windowCut, .patch, .gum].getD (u8 b 1) .aux, u8 b 2,
        Fin.ofNat 16 (u8 b 3), u16 b 4, u16 b 6⟩) := by
  show (if k.val < 12 then _ else _) = _
  rw [if_pos k.isLt, ofNat_val, parseApplication, appKindOf_eq, beq_one]
  simp only [within_zero]
  simp only [within_eq]
  exact checked_eq (fun _ => rfl)

theorem parseInspection_eq (j : Fin 8) (b : List Byte) : parseTableItem 4 j.val b = inRanges [decide (u8 b 0 ≤ 1),
        decide (u8 b 1 ≤ 3), decide (1 ≤ u8 b 2 ∧ u8 b 2 ≤ 27), decide (u8 b 3 ≤ 15)]
      (.inspection j ⟨decide (u8 b 0 = 1), [.presence, .span, .count].getD (u8 b 1) .level, u8 b 2,
        Fin.ofNat 16 (u8 b 3)⟩) := by
  show (if j.val < 8 then _ else _) = _
  rw [if_pos j.isLt, ofNat_val, parseInspection, inspKindOf_eq, beq_one]
  simp only [within_zero]
  simp only [within_eq]
  exact checked_eq (fun _ => rfl)

theorem parseOutput_eq (l : Fin 16) (b : List Byte) : parseTableItem 6 l.val b = inRanges
      [decide (u8 b 0 ≤ 5 ∨ (16 ≤ u8 b 0 ∧ u8 b 0 ≤ 27)), decide (u8 b 1 ≤ 1), decide (u8 b 2 ≤ 1)]
      (.output l ⟨[.none, .manual, .feedGate, .rejectGate, .separator, .stopRequest].getD (u8 b 0)
          (.channel (Fin.ofNat 12 (u8 b 0 - 16))),
        if u8 b 1 = 1 then .activeLow else .activeHigh, if u8 b 2 = 1 then .hold else .release⟩) := by
  show (if l.val < 16 then _ else _) = _
  rw [if_pos l.isLt, ofNat_val, parseOutput, functionOf_isSome, functionOf_eq]
  simp only [within_zero]
  refine checked_eq (fun h => ?_)
  simp only [List.mem_cons, List.not_mem_nil, or_false, forall_eq_or_imp, forall_eq, decide_eq_true_eq] at h
  obtain ⟨hf, hp, hm⟩ := h
  have hpol : (if u8 b 1 = 0 then Polarity.activeHigh else .activeLow) = if u8 b 1 = 1 then .activeLow else .activeHigh := by
    rcases Nat.le_one_iff_eq_zero_or_eq_one.mp hp with h | h <;> simp [h]
  have hsafe : (if u8 b 2 = 0 then SafeMode.release else .hold) = if u8 b 2 = 1 then .hold else .release := by
    rcases Nat.le_one_iff_eq_zero_or_eq_one.mp hm with h | h <;> simp [h]
  rw [if_pos hf, hpol, hsafe, Option.getD_some]

theorem parseTableItem_unknown {k i : Nat} (h : k = 0 ∨ 6 < k ∨ (0 < i ∧ (k = 1 ∨ k = 2 ∨ k = 5)) ∨ (12 ≤ i ∧ k = 3) ∨
    (8 ≤ i ∧ k = 4) ∨ (16 ≤ i ∧ k = 6)) (b : List Byte) : parseTableItem k i b = .unknown := by
  unfold parseTableItem
  split <;> first | rfl | exact if_neg (by omega)

/-! ## Writes and reads -/

theorem tableGuards_eq (lock : Bool) (s : State) : tableGuards lock s =
    if lock then some .locked else if s.line.run ≠ .idle then some .state
    else if ∀ k : Fin 8, (slotOf s k).state = .empty then none else some .inUse := by
  have hall : allEmpty s = true ↔ ∀ k : Fin 8, (slotOf s k).state = .empty := by
    simp only [allEmpty, List.all_eq_true, beq_iff_eq]
    exact ⟨fun h k => h k (mem_allInsps k), fun h k _ => h k⟩
  simp only [tableGuards, hall]

theorem tableGuards_locked (s : State) : tableGuards true s = some .locked := rfl

theorem tableGuards_run (h : s.line.run ≠ .idle) : tableGuards false s = some .state := by
  rw [tableGuards_eq, if_neg (by simp), if_pos h]

theorem tableGuards_used (h : s.line.run = .idle) (hk : ∃ k : Fin 8, (slotOf s k).state ≠ .empty) :
    tableGuards false s = some .inUse := by
  obtain ⟨k, hk⟩ := hk
  rw [tableGuards_eq, if_neg (by simp), if_neg (not_not.mpr h), if_neg (fun hall => hk (hall k))]

theorem tableGuards_free (h : s.line.run = .idle) (hk : ∀ k : Fin 8, (slotOf s k).state = .empty) :
    tableGuards false s = none := by
  rw [tableGuards_eq, if_neg (by simp), if_neg (not_not.mpr h), if_pos hk]

theorem unlessBusy_ready (h : s.mgmt.inFlight = none) (own : State → State × Reply) : unlessBusy own s = own s := by
  simp [unlessBusy, working, h]

/-- A table or recipe request that reaches its owner in READY. -/
theorem answered_ready {need : Nat} {args : List Byte} (ha : accepts s need args = true) (hr : s.mgmt.inFlight = none)
    (kind : Nat) {own : State → State × Reply} {c : ResultCode} {p : List Byte} {t : State} (h : own s = (t, ⟨c, p⟩)) :
    Host.Outcome.next (request kind need args (unlessBusy own) s) = answered kind args s c p t := by
  rw [request_accepted ha, unlessBusy_ready hr, h]
  rfl

/-- Settles O24: MACHINE_TABLE_WRITE and the items it reads. -/
theorem machineTableWrite : Obligations.MachineTableWrite := by
  refine ⟨fun args lock s ha hr => ⟨fun h => answered_ready ha hr 10 ?_, fun n h => answered_ready ha hr 10 ?_, fun x h =>
    ⟨?_, ?_, ?_, ?_⟩⟩, fun i b => ⟨?_, ?_, ?_, ?_, ?_, parseGeneral_eq b, parseGum_eq b,
    fun k => parseApplication_eq k b, fun j => parseInspection_eq j b, rfl, fun l => parseOutput_eq l b⟩⟩
  · simp only [Machine.machineTableWrite, h]
    rfl
  · simp only [Machine.machineTableWrite, h]
    rfl
  · rintro rfl
    refine answered_ready ha hr 10 ?_
    simp only [Machine.machineTableWrite, h, tableGuards_locked]
    rfl
  · rintro rfl hrun
    refine answered_ready ha hr 10 ?_
    simp only [Machine.machineTableWrite, h, tableGuards_run hrun]
    rfl
  · rintro rfl hrun hk
    refine answered_ready ha hr 10 ?_
    simp only [Machine.machineTableWrite, h, tableGuards_used hrun hk]
    rfl
  · rintro rfl hrun hk
    refine answered_ready ha hr 10 ?_
    simp only [Machine.machineTableWrite, h, tableGuards_free hrun hk]
    rfl
  · exact fun k hk => parseTableItem_unknown (by omega) b
  · exact fun hi => ⟨parseTableItem_unknown (by omega) b, parseTableItem_unknown (by omega) b,
      parseTableItem_unknown (by omega) b⟩
  · exact fun hi => parseTableItem_unknown (by omega) b
  · exact fun hi => parseTableItem_unknown (by omega) b
  · exact fun hi => parseTableItem_unknown (by omega) b

end Sys2Proof.Tables
end

section
/-! SUPPORT. The items of the Machine Table and of recipes keep every field that lies within the write ranges. -/

namespace Sys2Proof.Items

open Sys2Proof.Machine Sys2Proof.LineRules Sys2Proof.Bytes Sys2Proof.Tables

set_option Elab.async false

variable {α : Type} {b : List Byte} {kind index : Nat}

/-! ## Fields as they came -/

theorem inRanges_item {oks : List Bool} {x y : α} (h : inRanges oks x = .item y) : y = x ∧ ∀ ok ∈ oks, ok = true := by
  rw [← checked_eq (y := x) (fun _ => rfl)] at h
  exact TrimLaw.checked_item h

/-- A byte list by its fields. -/
theorem bytes_eq {n : Nat} (h : b.length = n) : b = (List.range n).map (fun i => BitVec.ofNat 8 (u8 b i)) := by
  refine List.ext_getElem (by simp [h]) (fun i h1 h2 => ?_)
  rw [List.getElem_map, List.getElem_range, u8, List.getD_eq_getElem _ _ h1]
  simp

theorem le16_u16 (b : List Byte) (i : Nat) : le16 (u16 b i) = [BitVec.ofNat 8 (u8 b i), BitVec.ofNat 8 (u8 b (i + 1))] := by
  have hlow : BitVec.ofNat 8 (u16 b i) = BitVec.ofNat 8 (u8 b i) := BitVec.eq_of_toNat_eq (by simp [u16])
  have hbyte : u8 b i < 256 := (b.getD i 0#8).isLt
  have hhigh : u16 b i / 256 = u8 b (i + 1) := by
    unfold u16
    omega
  rw [le16, hlow, hhigh]

theorem leBool_eq_one {n : Nat} (h : n ≤ 1) : leBool (decide (n = 1)) = [BitVec.ofNat 8 n] := by
  rcases Nat.le_one_iff_eq_zero_or_eq_one.mp h with rfl | rfl <;> rfl

theorem val_ofNat {n m : Nat} [NeZero m] (h : n < m) : (Fin.ofNat m n).val = n := Nat.mod_eq_of_lt h

theorem codeTake_line {n : Nat} (h : n ≤ 15 ∨ n = 255) :
    codeTake (if n = 255 then .ring else .line (Fin.ofNat 16 n)) = n := by
  by_cases hn : n = 255
  · rw [if_pos hn, hn]
    rfl
  · rw [if_neg hn]
    exact val_ofNat (by omega)

theorem leOpt8_line {n : Nat} (h : n ≤ 15 ∨ n = 255) :
    leOpt8 ((if n = 255 then none else some (Fin.ofNat 16 n)).map Fin.val) = [BitVec.ofNat 8 n] := by
  by_cases hn : n = 255
  · rw [if_pos hn, hn]
    rfl
  · rw [if_neg hn]
    show le8 (Fin.ofNat 16 n).val = _
    rw [val_ofNat (by omega)]
    rfl

theorem codeApp_getD {n : Nat} (h : n ≤ 3) : codeApp ([AppKind.windowCut, .patch, .gum].getD n .aux) = n := by
  interval_cases n <;> rfl

theorem codeInsp_getD {n : Nat} (h : n ≤ 3) : codeInsp ([InspKind.presence, .span, .count].getD n .level) = n := by
  interval_cases n <;> rfl

theorem codeFunction_getD {n : Nat} (h : n ≤ 5 ∨ (16 ≤ n ∧ n ≤ 27)) :
    codeFunction ([OutFunction.none, .manual, .feedGate, .rejectGate, .separator, .stopRequest].getD n
      (.channel (Fin.ofNat 12 (n - 16)))) = n := by
  by_cases hn : n ≤ 5
  · interval_cases n <;> rfl
  · rw [List.getD_eq_default _ _ (by simp; omega)]
    show 16 + (Fin.ofNat 12 (n - 16)).val = n
    rw [val_ofNat (by omega)]
    omega

theorem codePolarity_ite {n : Nat} (h : n ≤ 1) : codePolarity (if n = 1 then .activeLow else .activeHigh) = n := by
  rcases Nat.le_one_iff_eq_zero_or_eq_one.mp h with rfl | rfl <;> rfl

theorem codeSafe_ite {n : Nat} (h : n ≤ 1) : codeSafe (if n = 1 then .hold else .release) = n := by
  rcases Nat.le_one_iff_eq_zero_or_eq_one.mp h with rfl | rfl <;> rfl

/-! ## Items of the Machine Table -/

/-- Kind code and index of an item of the Machine Table. -/
def tableKey : TableItem → Nat × Nat
  | .general _ => (1, 0)
  | .gum _ => (2, 0)
  | .application k _ => (3, k.val)
  | .inspection j _ => (4, j.val)
  | .inputModes _ => (5, 0)
  | .output i _ => (6, i.val)

/-- An item that is read has the kind and index asked for, and its bytes are those that came. -/
theorem parsed_tableItem {x : TableItem} (hlen : b.length = tableItemSize kind) (h : parseTableItem kind index b = .item x) :
    (kind, index) = tableKey x ∧ encodeTableItem x = b := by
  have hknown : parseTableItem kind index b ≠ .unknown := by rw [h]; nofun
  have hk : 1 ≤ kind ∧ kind ≤ 6 := by
    by_contra hn
    exact hknown (parseTableItem_unknown (by omega) b)
  obtain ⟨h1, h6⟩ := hk
  have hindex : ¬ ((0 < index ∧ (kind = 1 ∨ kind = 2 ∨ kind = 5)) ∨ (12 ≤ index ∧ kind = 3) ∨ (8 ≤ index ∧ kind = 4) ∨
      (16 ≤ index ∧ kind = 6)) := fun hn => hknown (parseTableItem_unknown (by omega) b)
  have hbytes := bytes_eq hlen
  interval_cases kind
  · obtain rfl : index = 0 := by omega
    rw [parseGeneral_eq] at h
    obtain ⟨rfl, hok⟩ := inRanges_item h
    simp only [List.mem_cons, List.not_mem_nil, or_false, forall_eq_or_imp, forall_eq, decide_eq_true_eq] at hok
    obtain ⟨-, -, -, -, -, -, -, htake, -⟩ := hok
    refine ⟨rfl, ?_⟩
    rw [encodeTableItem, codeTake_line htake, le16_u16, le16_u16, le16_u16, le16_u16]
    exact hbytes.symm
  · obtain rfl : index = 0 := by omega
    rw [parseGum_eq] at h
    obtain ⟨rfl, hok⟩ := inRanges_item h
    simp only [List.mem_cons, List.not_mem_nil, or_false, forall_eq_or_imp, forall_eq, decide_eq_true_eq] at hok
    obtain ⟨hline, -, -⟩ := hok
    refine ⟨rfl, ?_⟩
    rw [encodeTableItem, leOpt8_line hline, le16_u16, le16_u16]
    exact hbytes.symm
  · obtain ⟨k, rfl⟩ : ∃ k : Fin 12, k.val = index := ⟨⟨index, by omega⟩, rfl⟩
    rw [parseApplication_eq] at h
    obtain ⟨rfl, hok⟩ := inRanges_item h
    simp only [List.mem_cons, List.not_mem_nil, or_false, forall_eq_or_imp, forall_eq, decide_eq_true_eq] at hok
    obtain ⟨hen, hkind, -, hline, -, -⟩ := hok
    refine ⟨rfl, ?_⟩
    rw [encodeTableItem, leBool_eq_one hen, codeApp_getD hkind, val_ofNat (by omega), le16_u16, le16_u16]
    exact hbytes.symm
  · obtain ⟨j, rfl⟩ : ∃ j : Fin 8, j.val = index := ⟨⟨index, by omega⟩, rfl⟩
    rw [parseInspection_eq] at h
    obtain ⟨rfl, hok⟩ := inRanges_item h
    simp only [List.mem_cons, List.not_mem_nil, or_false, forall_eq_or_imp, forall_eq, decide_eq_true_eq] at hok
    obtain ⟨hen, hkind, -, hline⟩ := hok
    refine ⟨rfl, ?_⟩
    rw [encodeTableItem, leBool_eq_one hen, codeInsp_getD hkind, val_ofNat (by omega)]
    exact hbytes.symm
  · obtain rfl : index = 0 := by omega
    obtain rfl : TableItem.inputModes (BitVec.ofNat 16 (u16 b 0)) = x := by
      simpa [parseTableItem] using h
    refine ⟨rfl, ?_⟩
    have hfit : u16 b 0 < 65536 := by
      have h0 : u8 b 0 < 256 := (b.getD 0 0#8).isLt
      have h1 : u8 b (0 + 1) < 256 := (b.getD 1 0#8).isLt
      unfold u16
      omega
    rw [encodeTableItem, BitVec.toNat_ofNat, Nat.mod_eq_of_lt hfit, le16_u16]
    exact hbytes.symm
  · obtain ⟨l, rfl⟩ : ∃ l : Fin 16, l.val = index := ⟨⟨index, by omega⟩, rfl⟩
    rw [parseOutput_eq] at h
    obtain ⟨rfl, hok⟩ := inRanges_item h
    simp only [List.mem_cons, List.not_mem_nil, or_false, forall_eq_or_imp, forall_eq, decide_eq_true_eq] at hok
    obtain ⟨hf, hp, hm⟩ := hok
    refine ⟨rfl, ?_⟩
    rw [encodeTableItem, codeFunction_getD hf, codePolarity_ite hp, codeSafe_ite hm]
    exact hbytes.symm

theorem readTableItem_application (t : MachineTable) (k : Fin 12) :
    readTableItem t 3 k.val = some (.application k (getAt t.apps k)) := by
  show (if k.val < 12 then _ else _) = _
  rw [if_pos k.isLt, ofNat_val]

theorem readTableItem_inspection (t : MachineTable) (j : Fin 8) :
    readTableItem t 4 j.val = some (.inspection j (getAt t.insps j)) := by
  show (if j.val < 8 then _ else _) = _
  rw [if_pos j.isLt, ofNat_val]

theorem readTableItem_output (t : MachineTable) (l : Fin 16) :
    readTableItem t 6 l.val = some (.output l (getAt t.outs l)) := by
  show (if l.val < 16 then _ else _) = _
  rw [if_pos l.isLt, ofNat_val]

/-- The item written reads back. -/
theorem read_written (t : MachineTable) (x : TableItem) :
    readTableItem (writeTableItem t x) (tableKey x).1 (tableKey x).2 = some x := by
  cases x with
  | general | gum | inputModes => rfl
  | application k a => simp only [tableKey, readTableItem_application, writeTableItem, getAt_put_same]
  | inspection j c => simp only [tableKey, readTableItem_inspection, writeTableItem, getAt_put_same]
  | output i o => simp only [tableKey, readTableItem_output, writeTableItem, getAt_put_same]

theorem getAt_put_ofNat {n : Nat} [NeZero n] (v : Vector α n) (k : Fin n) (x : α) (h : index < n) (hne : index ≠ k.val) :
    getAt (put v k x) (Fin.ofNat n index) = getAt v (Fin.ofNat n index) :=
  getAt_put_other _ (fun he => hne (by rw [← he, val_ofNat h])) _

/-- No other item is changed. -/
theorem read_other (t : MachineTable) (x : TableItem) (h : (kind, index) ≠ tableKey x) :
    readTableItem (writeTableItem t x) kind index = readTableItem t kind index := by
  have hkey : kind = (tableKey x).1 → index ≠ (tableKey x).2 := fun h1 h2 => h (Prod.ext h1 h2)
  unfold readTableItem
  cases x with
  | general g =>
    split
    case h_1 => exact if_ctx_congr Iff.rfl (fun hi => absurd hi (hkey rfl)) (fun _ => rfl)
    all_goals rfl
  | gum g =>
    split
    case h_2 => exact if_ctx_congr Iff.rfl (fun hi => absurd hi (hkey rfl)) (fun _ => rfl)
    all_goals rfl
  | inputModes m =>
    split
    case h_5 => exact if_ctx_congr Iff.rfl (fun hi => absurd hi (hkey rfl)) (fun _ => rfl)
    all_goals rfl
  | application k a =>
    split
    case h_3 => exact if_ctx_congr Iff.rfl (fun hi => by rw [writeTableItem, getAt_put_ofNat _ _ _ hi (hkey rfl)]) (fun _ => rfl)
    all_goals rfl
  | inspection j c =>
    split
    case h_4 => exact if_ctx_congr Iff.rfl (fun hi => by rw [writeTableItem, getAt_put_ofNat _ _ _ hi (hkey rfl)]) (fun _ => rfl)
    all_goals rfl
  | output i o =>
    split
    case h_6 => exact if_ctx_congr Iff.rfl (fun hi => by rw [writeTableItem, getAt_put_ofNat _ _ _ hi (hkey rfl)]) (fun _ => rfl)
    all_goals rfl

/-! ## Items of a recipe -/

theorem defectBit_classOf {n : Nat} (h : n ≤ 4) : defectBit (defectClassOf n) = n := by interval_cases n <;> rfl

theorem parsed_header {x : RecipeItem} (hlen : b.length = 13) (h : parseHeader b = .item x) :
    x = .header ⟨u8 b 0, (b.drop 1).take 12⟩ ∧ encodeRecipeItem x = b := by
  obtain ⟨rfl, -⟩ := TrimLaw.checked_item h
  refine ⟨rfl, ?_⟩
  have htail : (b.drop 1).take 12 = b.drop 1 := List.take_of_length_le (by rw [List.length_drop]; omega)
  rw [encodeRecipeItem, htail]
  match b, hlen with
  | c :: rest, _ => simp [le8]

theorem parsed_register {x : RecipeItem} (hlen : b.length = 15) (h : parseRegister b = .item x) :
    (∃ g, x = .register g) ∧ encodeRecipeItem x = b := by
  obtain ⟨rfl, hok⟩ := TrimLaw.checked_item h
  refine ⟨⟨_, rfl⟩, ?_⟩
  have hen : u8 b 0 ≤ 1 := by simpa [within] using hok (within 0 1 (u8 b 0)) (by simp)
  have hline : u8 b 14 ≤ 15 := by simpa [within] using hok (within 0 15 (u8 b 14)) (by simp)
  rw [encodeRecipeItem, beq_one, leBool_eq_one hen, val_ofNat (by omega), le16_u16, le16_u16, le16_u16, le16_u16, le16_u16]
  exact (bytes_eq hlen).symm

theorem parsed_cam {x : RecipeItem} (hlen : b.length = 11) (h : parseCam index b = .item x) :
    (∃ e, x = .cam index e) ∧ encodeRecipeItem x = b := by
  obtain ⟨rfl, hok⟩ := TrimLaw.checked_item h
  refine ⟨⟨_, rfl⟩, ?_⟩
  have hch : u8 b 0 ≤ 11 := by simpa [within] using hok (within 0 11 (u8 b 0)) (by simp)
  have hskip : u8 b 10 ≤ 1 := by simpa [within] using hok (within 0 1 (u8 b 10)) (by simp)
  rw [encodeRecipeItem, beq_one, leBool_eq_one hskip, val_ofNat (by omega), le16_u16, le16_u16, le16_u16, le16_u16]
  exact (bytes_eq hlen).symm

theorem parsed_setting {x : RecipeItem} {j : Fin 8} (hlen : b.length = 10) (h : parseSetting j b = .item x) :
    (∃ c, x = .inspection j c) ∧ encodeRecipeItem x = b := by
  obtain ⟨rfl, hok⟩ := TrimLaw.checked_item h
  refine ⟨⟨_, rfl⟩, ?_⟩
  have hen : u8 b 0 ≤ 1 := by simpa [within] using hok (within 0 1 (u8 b 0)) (by simp)
  have hcls : u8 b 9 ≤ 4 := by simpa [within] using hok (within 0 4 (u8 b 9)) (by simp)
  rw [encodeRecipeItem, beq_one, leBool_eq_one hen, defectBit_classOf hcls, le16_u16, le16_u16, le16_u16, le16_u16]
  exact (bytes_eq hlen).symm

theorem parsed_byte {n : Nat} {f : Nat → RecipeItem} {x : RecipeItem}
    (h : checked [within 0 n (u8 b 0)] (f (u8 b 0)) = .item x) : x = f (u8 b 0) ∧ u8 b 0 ≤ n := by
  obtain ⟨rfl, hok⟩ := TrimLaw.checked_item h
  exact ⟨rfl, by simpa [within] using hok (within 0 n (u8 b 0)) (by simp)⟩

/-- A recipe item that is read has the bytes that came, and reads back from the recipe that it is written to. -/
theorem parsed_recipeItem {x : RecipeItem} (r : Recipe) (hlen : b.length = recipeItemSize kind)
    (h : parseRecipeItem r.cams.length kind index b = .item x) :
    encodeRecipeItem x = b ∧ readRecipeItem (writeRecipeItem r x) kind index = some x := by
  unfold parseRecipeItem at h
  split at h
  · split at h
    · obtain ⟨rfl, henc⟩ := parsed_header hlen h
      exact ⟨henc, rfl⟩
    · cases h
  · split at h
    · obtain ⟨⟨g, rfl⟩, henc⟩ := parsed_register hlen h
      exact ⟨henc, rfl⟩
    · cases h
  · split at h
    · next hi =>
      obtain ⟨⟨e, rfl⟩, henc⟩ := parsed_cam hlen h
      refine ⟨henc, ?_⟩
      show Option.map _ (if index < r.cams.length then r.cams.set index e else r.cams ++ [e])[index]? = _
      split
      · next hlt => rw [List.getElem?_set_self hlt]; rfl
      · rw [show index = r.cams.length by omega, List.getElem?_concat_length]
        rfl
    · cases h
  · split at h
    · obtain ⟨rfl, hn⟩ := parsed_byte (f := .camLength) h
      refine ⟨(bytes_eq hlen).symm, ?_⟩
      show some (RecipeItem.camLength (r.cams.take (u8 b 0)).length) = _
      rw [List.length_take, min_eq_left hn]
    · cases h
  · split at h
    · next hi =>
      obtain ⟨⟨c, rfl⟩, henc⟩ := parsed_setting hlen h
      refine ⟨henc, ?_⟩
      show (if index < 8 then some (RecipeItem.inspection (Fin.ofNat 8 index)
        (getAt (put r.settings (Fin.ofNat 8 index) c) (Fin.ofNat 8 index))) else none) = _
      rw [if_pos hi, getAt_put_same]
    · cases h
  · split at h
    · obtain ⟨rfl, hn⟩ := parsed_byte (f := fun n => .rejectMask (BitVec.ofNat 5 n)) h
      refine ⟨?_, rfl⟩
      rw [encodeRecipeItem, BitVec.toNat_ofNat, Nat.mod_eq_of_lt (by omega)]
      exact (bytes_eq hlen).symm
    · cases h
  · cases h

/-- Settles O25: items read back field by field. -/
theorem itemsKeepEveryField : Obligations.ItemsKeepEveryField := by
  refine ⟨fun t kind index b x hlen h => ?_, fun r kind index b x hlen _ h => parsed_recipeItem r hlen h⟩
  obtain ⟨hkey, henc⟩ := parsed_tableItem hlen h
  have hread := read_written t x
  rw [← hkey] at hread
  exact ⟨hread, henc, fun k i hne => read_other t x (hkey ▸ hne)⟩

end Sys2Proof.Items
end

section
/-! SUPPORT. Reads of tables and recipes, the apply of the Machine Table and the two checks (chapter 02). -/

namespace Sys2Proof.TableRules

open Sys2Proof.Machine Sys2Proof.Overlay Sys2Proof.Passes Sys2Proof.Requests Sys2Proof.LineRules Sys2Proof.Bytes
  Sys2Proof.Tables

set_option Elab.async false

variable {s t : State}

/-! ## Reads -/

theorem codeValidity_byte (v : Validity) : le8 (codeValidity v) = [if v = .valid then 1#8 else 0#8] := by cases v <;> rfl

theorem slotArg_some {args : List Byte} {k : Fin 8} (h : u8 args 0 = k.val) : slotArg args = some k := by
  rw [slotArg, h, if_pos k.isLt, ofNat_val]

theorem slotArg_none {args : List Byte} (h : 7 < u8 args 0) : slotArg args = none := if_neg (by omega)

theorem recipeItemHead_eq {args : List Byte} {k : Fin 8} (h : u8 args 0 = k.val) : recipeItemHead args =
    [BitVec.ofNat 8 k.val, BitVec.ofNat 8 (u8 args 1), if u8 args 1 = 3 ∨ u8 args 1 = 5 then BitVec.ofNat 8 (u8 args 2) else 0#8] := by
  rw [recipeItemHead, h]
  split <;> rfl

/-- The items of a recipe by kind and index, as R35 names them. -/
theorem readRecipeItem_some {r : Recipe} {kind index : Nat} {x : RecipeItem}
    (h : (kind = 1 ∧ x = .header r.header) ∨ (kind = 2 ∧ x = .register r.register) ∨
        (kind = 3 ∧ ∃ c, r.cams[index]? = some c ∧ x = .cam index c) ∨ (kind = 4 ∧ x = .camLength r.cams.length) ∨
        (kind = 5 ∧ ∃ j : Fin 8, index = j.val ∧ x = .inspection j (getAt r.settings j)) ∨
        (kind = 6 ∧ x = .rejectMask r.rejectMask)) : readRecipeItem r kind index = some x := by
  rcases h with ⟨rfl, rfl⟩ | ⟨rfl, rfl⟩ | ⟨rfl, c, hc, rfl⟩ | ⟨rfl, rfl⟩ | ⟨rfl, j, rfl, rfl⟩ | ⟨rfl, rfl⟩
  · rfl
  · rfl
  · show Option.map _ r.cams[index]? = _
    rw [hc]
    rfl
  · rfl
  · show (if j.val < 8 then _ else _) = _
    rw [if_pos j.isLt, ofNat_val]
  · rfl

theorem readRecipeItem_none {r : Recipe} {kind index : Nat} (h : kind = 0 ∨ 6 < kind ∨ (kind = 5 ∧ 7 < index)) :
    readRecipeItem r kind index = none := by
  unfold readRecipeItem
  split <;> first | rfl | omega | exact if_neg (by omega)

/-- Settles O26: the two reads of items. -/
theorem tableAndRecipeReads : Obligations.TableAndRecipeReads := by
  refine ⟨fun args s ha hr => ⟨fun h => answered_ready ha hr 11 ?_, fun x h => answered_ready ha hr 11 ?_⟩,
    fun args s ha hr => ⟨fun h => answered_ready ha hr 17 ?_, fun k hk =>
      ⟨fun x hx => answered_ready ha hr 17 ?_, fun h3 hlen => answered_ready ha hr 17 ?_, fun h => answered_ready ha hr 17 ?_⟩⟩, rfl⟩
  · simp only [machineTableRead, h]
    rfl
  · simp only [machineTableRead, h, codeValidity_byte]
    rfl
  · simp only [recipeRead, slotArg_none h]
    rfl
  · simp only [recipeRead, slotArg_some hk, readRecipeItem_some hx, recipeItemHead_eq hk]
    rfl
  · have hnone : readRecipeItem (recipeOf s k) 3 (u8 args 2) = none := by
      show Option.map _ (recipeOf s k).cams[u8 args 2]? = _
      rw [List.getElem?_eq_none hlen]
      rfl
    simp only [recipeRead, slotArg_some hk, h3, hnone]
    rfl
  · simp only [recipeRead, slotArg_some hk, readRecipeItem_none h]
    rw [if_neg (by omega)]
    rfl

/-! ## The apply -/

theorem getLsbD_applied (levels old modes : BitVec 16) (i : Fin 16) :
    ((old &&& ~~~ modes) ||| (levels &&& modes)).getLsbD i.val =
      if modes.getLsbD i.val then levels.getLsbD i.val else old.getLsbD i.val := by
  have hi : i.val < 16 := i.isLt
  simp only [BitVec.getLsbD_or, BitVec.getLsbD_and, BitVec.getLsbD_not, hi]
  cases modes.getLsbD i.val <;> simp

theorem outs_applyLines (t : MachineTable) (levels : BitVec 16) (s : State) (i : Fin 16) :
    getAt (applyLines t levels s).lines.outs i = applyOut (getAt t.outs i) (getAt s.lines.outs i) := by
  have h := getAt_pass (fun _ => true) (fun i (o : OutLine) => applyOut (getAt t.outs i) o) allLines s.lines.outs (by decide) i
  simpa [applyLines, mem_allLines] using h

theorem blanks_computeLeads (p : Fin 12 → Bool) (s : State) : (computeLeads p s).app.blanks = s.app.blanks := by
  unfold computeLeads
  refine blanks_foldl (fun t k => ?_) allApps s
  split
  · rw [modifyChannel_app]
  · rfl

/-- The table in force, the lines, the watchdog and the inspection channels of an apply, before the leads. -/
def appliedUnits (levels : BitVec 16) (s : State) : State :=
  applyWatchdog s.store.working (applyLines s.store.working levels
    { s with store := { s.store with inForce := s.store.working, validity := .valid },
             insp := Vector.replicate 8 InspChannel.initial })

theorem applyTable_eq (levels : BitVec 16) (s : State) : applyTable levels s = computeLeads (fun _ => true) (appliedUnits levels s) :=
  rfl

theorem applyTable_frame (levels : BitVec 16) (u t : State) (ht : t = applyTable levels u) :
    t = { u with store := { u.store with inForce := u.store.working, validity := .valid },
                 lines := t.lines,
                 app := { u.app with channels := t.app.channels },
                 insp := t.insp,
                 ring := { u.ring with watchdogMs := u.store.working.general.watchdogMs,
                                       watchdog := some u.pos.timebase } } := by
  have hblanks : t.app.blanks = u.app.blanks := by rw [ht, applyTable_eq, blanks_computeLeads]; rfl
  have htouch : Touches [.app] (appliedUnits levels u) t := by rw [ht]; exact computeLeads_touches _ _
  have hlines : t.lines = (appliedUnits levels u).lines := htouch.lines
  have hinsp : t.insp = (appliedUnits levels u).insp := htouch.insp
  rw [hlines, hinsp]
  dsimp only
  rw [← hblanks]
  exact frame_of_touches htouch

theorem applyTable_channel (levels : BitVec 16) (u : State) (k : Fin 12) :
    getAt (applyTable levels u).app.channels k = { getAt u.app.channels k with
      onLead := leadOf (getAt u.store.working.apps k).onLatency u.pos.speed,
      offLead := leadOf (getAt u.store.working.apps k).offLatency u.pos.speed } := by
  rw [applyTable_eq, channel_computeLeads, if_pos rfl]
  rfl

theorem applyTable_lines (levels : BitVec 16) (u : State) :
    (applyTable levels u).lines = (applyLines u.store.working levels u).lines := (computeLeads_touches _ _).lines

theorem applyTable_insp (levels : BitVec 16) (u : State) (j : Fin 8) :
    inspChannel (applyTable levels u) j = ⟨none, none, none, false, false, 0⟩ := by
  rw [inspChannel, applyTable_eq, (computeLeads_touches _ _).insp]
  exact getAt_replicate _ j

/-- Settles O27: MACHINE_TABLE_APPLY. -/
theorem machineTableApply : Obligations.MachineTableApply := by
  refine fun args lock levels s ha hr => ⟨?_, ?_, ?_, ?_⟩
  · rintro rfl
    refine answered_ready ha hr 12 ?_
    simp only [Machine.machineTableApply, tableGuards_locked]
    rfl
  · rintro rfl hrun
    refine answered_ready ha hr 12 ?_
    simp only [Machine.machineTableApply, tableGuards_run hrun]
    rfl
  · rintro rfl hrun hk
    refine answered_ready ha hr 12 ?_
    simp only [Machine.machineTableApply, tableGuards_used hrun hk]
    rfl
  · rintro rfl hrun hk
    refine ⟨fun f hf => answered_ready ha hr 12 ?_, ?_⟩
    · simp only [Machine.machineTableApply, tableGuards_free hrun hk, hf]
      rfl
    · rintro hpass u rfl
      refine ⟨applyTable levels (settle s), answered_ready ha hr 12 ?_, applyTable_frame levels (settle s) _ rfl, ?_,
        fun i => ?_, fun i => ?_, fun j => applyTable_insp _ _ j, fun k => applyTable_channel _ _ k⟩
      · simp only [Machine.machineTableApply, tableGuards_free hrun hk, hpass]
        rfl
      · rw [applyTable_lines]
        rfl
      · rw [applyTable_lines]
        exact getLsbD_applied levels _ _ i
      · rw [applyTable_lines, outs_applyLines]
        rfl

end Sys2Proof.TableRules
end

section
/-! SUPPORT. The apply check and the recipe checks as the first failure of a list of checks (chapter 02, R24 and R33). -/

namespace Sys2Proof.Checks

open Sys2Proof.Machine Sys2Proof.Tables

set_option Elab.async false

variable {α : Type}

/-! ## The first failure of a list of checks -/

/-- The failure of the first check of `l` that fails. -/
def firstFailure (l : List (Bool × CheckFailure)) : Option CheckFailure := (l.find? Prod.fst).map Prod.snd

theorem firstFailure_cons (b : Bool) (f : CheckFailure) (l : List (Bool × CheckFailure)) :
    firstFailure ((b, f) :: l) = if b then some f else firstFailure l := by
  cases b <;> rfl

theorem firstFailure_nil : firstFailure [] = none := rfl

theorem firstFailure_append (l m : List (Bool × CheckFailure)) :
    firstFailure (l ++ m) = (firstFailure l).or (firstFailure m) := by
  simp only [firstFailure, List.find?_append]
  cases l.find? Prod.fst <;> rfl

theorem firstFailure_map (p : α → Bool) (f : α → CheckFailure) (l : List α) :
    firstFailure (l.map (fun x => (p x, f x))) = (l.find? p).map f := by
  simp only [firstFailure, List.find?_map, Option.map_map]
  rfl

theorem firstFailure_flatMap (g : α → List (Bool × CheckFailure)) (l : List α) :
    firstFailure (l.flatMap g) = l.findSome? (fun x => firstFailure (g x)) := by
  induction l with
  | nil => rfl
  | cons x l ih =>
    rw [List.flatMap_cons, firstFailure_append, ih, List.findSome?_cons]
    cases firstFailure (g x) <;> rfl

theorem firstFailure_eq_none {l : List (Bool × CheckFailure)} : firstFailure l = none ↔ ∀ x ∈ l, x.1 = false := by
  simp [firstFailure]

theorem ite_some_or (c : Prop) [Decidable c] (f : CheckFailure) (l m : Option CheckFailure) :
    (if c then some f else l).or m = if c then some f else l.or m := by
  split <;> rfl

theorem allLines_eq : allLines = List.finRange 16 := by decide

theorem allApps_eq : allApps = List.finRange 12 := by decide

theorem allInsps_eq : allInsps = List.finRange 8 := by decide

/-! ## The apply check -/

/-- The checks of R24 in their order, with the failure that each reports. -/
def tableFlags (t : MachineTable) : List (Bool × CheckFailure) :=
  [(decide (t.general.feedAngle < 1 ∨ 3599 < t.general.feedAngle), (⟨1, 1, 0, 0⟩ : CheckFailure)),
    (decide (t.general.gateOffset < 2 ∨ 28 < t.general.gateOffset), ⟨1, 1, 0, 1⟩),
    (decide (t.general.deliveryOffset < 4 ∨ 30 < t.general.deliveryOffset), ⟨1, 1, 0, 3⟩),
    (decide (t.general.separatorLength < 1 ∨ 3599 < t.general.separatorLength), ⟨1, 1, 0, 5⟩),
    (decide (t.general.outfeedHold < 1 ∨ 4 < t.general.outfeedHold), ⟨1, 1, 0, 6⟩),
    (decide (t.general.watchdogMs < 2 ∨ 100 < t.general.watchdogMs), ⟨1, 1, 0, 8⟩),
    (decide (t.general.deliveryOffset ≤ t.general.gateOffset), ⟨2, 1, 0, 3⟩),
    (match t.gum.line with | some l => !t.modes.getLsbD l.val | none => false, ⟨3, 2, 0, 0⟩),
    (match t.general.takeSource with | .line l => t.modes.getLsbD l.val | .ring => false, ⟨4, 1, 0, 7⟩)]
  ++ (List.finRange 16).map (fun i => (
      ([.feedGate, .rejectGate, .separator, .stopRequest] : List OutFunction).contains (getAt t.outs i).function
        && decide (∃ j : Fin 16, j < i ∧ (getAt t.outs j).function = (getAt t.outs i).function), (⟨5, 6, i.val, 0⟩ : CheckFailure)))
  ++ (List.finRange 12).flatMap (fun k => [
      ((getAt t.apps k).enabled && decide (t.general.deliveryOffset - 1 < (getAt t.apps k).station),
        (⟨6, 3, k.val, 2⟩ : CheckFailure)),
      ((getAt t.apps k).enabled && decide ((getAt t.outs (getAt t.apps k).line).function ≠ OutFunction.channel k),
        ⟨7, 3, k.val, 3⟩)])
  ++ (List.finRange 16).map (fun i => (match (getAt t.outs i).function with
      | .channel k => !(getAt t.apps k).enabled || decide ((getAt t.apps k).line ≠ i)
      | _ => false, (⟨8, 6, i.val, 0⟩ : CheckFailure)))
  ++ (List.finRange 8).flatMap (fun j => [
      ((getAt t.insps j).enabled && decide (t.general.gateOffset - 1 < (getAt t.insps j).station),
        (⟨9, 4, j.val, 2⟩ : CheckFailure)),
      ((getAt t.insps j).enabled
        && (t.modes.getLsbD (getAt t.insps j).line.val != decide ((getAt t.insps j).kind = InspKind.level)),
        ⟨10, 4, j.val, 3⟩)])

theorem failsSingle_eq (t : MachineTable) (i : Fin 16) : failsSingle t i =
    (([.feedGate, .rejectGate, .separator, .stopRequest] : List OutFunction).contains (getAt t.outs i).function
      && decide (∃ j : Fin 16, j < i ∧ (getAt t.outs j).function = (getAt t.outs i).function)) := by
  have hfun : isSingleFunction (getAt t.outs i).function =
      ([.feedGate, .rejectGate, .separator, .stopRequest] : List OutFunction).contains (getAt t.outs i).function := by
    cases (getAt t.outs i).function <;> rfl
  have hany : allLines.any (fun j => decide (j.val < i.val) && (getAt t.outs j).function == (getAt t.outs i).function) =
      decide (∃ j : Fin 16, j < i ∧ (getAt t.outs j).function = (getAt t.outs i).function) := by
    rw [Bool.eq_iff_iff, List.any_eq_true, decide_eq_true_eq]
    simp only [Bool.and_eq_true, decide_eq_true_eq, beq_iff_eq, Fin.lt_def]
    exact ⟨fun ⟨j, _, h⟩ => ⟨j, h⟩, fun ⟨j, h⟩ => ⟨j, mem_allLines j, h⟩⟩
  rw [failsSingle, hfun, hany]

theorem failsOwned_eq (t : MachineTable) (i : Fin 16) : failsOwned t i = (match (getAt t.outs i).function with
    | .channel k => !(getAt t.apps k).enabled || decide ((getAt t.apps k).line ≠ i)
    | _ => false) := by
  unfold failsOwned
  cases (getAt t.outs i).function <;> simp [bne, beq_eq_decide]

theorem failsApplication_eq (t : MachineTable) (k : Fin 12) : failsApplication t k = firstFailure [
    ((getAt t.apps k).enabled && decide (t.general.deliveryOffset - 1 < (getAt t.apps k).station),
      (⟨6, 3, k.val, 2⟩ : CheckFailure)),
    ((getAt t.apps k).enabled && decide ((getAt t.outs (getAt t.apps k).line).function ≠ OutFunction.channel k),
      ⟨7, 3, k.val, 3⟩)] := by
  simp only [failsApplication, firstFailure_cons, firstFailure_nil]
  cases (getAt t.apps k).enabled <;> simp

theorem failsInspection_eq (t : MachineTable) (j : Fin 8) : failsInspection t j = firstFailure [
    ((getAt t.insps j).enabled && decide (t.general.gateOffset - 1 < (getAt t.insps j).station),
      (⟨9, 4, j.val, 2⟩ : CheckFailure)),
    ((getAt t.insps j).enabled
      && (t.modes.getLsbD (getAt t.insps j).line.val != decide ((getAt t.insps j).kind = InspKind.level)),
      ⟨10, 4, j.val, 3⟩)] := by
  simp only [failsInspection, firstFailure_cons, firstFailure_nil, bne_comm (a := t.modes.getLsbD _), beq_eq_decide]
  cases (getAt t.insps j).enabled <;> simp

theorem within_not (lo hi n : Nat) : (!within lo hi n) = decide (n < lo ∨ hi < n) := by
  rw [within_eq, Bool.eq_iff_iff]
  simp

/-- Check 1 of R24 names the first field of GENERAL out of its range. -/
theorem generalRanges_map (g : General) (l : List (Bool × CheckFailure)) : firstFailure
    ((decide (g.feedAngle < 1 ∨ 3599 < g.feedAngle), (⟨1, 1, 0, 0⟩ : CheckFailure)) ::
      (decide (g.gateOffset < 2 ∨ 28 < g.gateOffset), ⟨1, 1, 0, 1⟩) ::
      (decide (g.deliveryOffset < 4 ∨ 30 < g.deliveryOffset), ⟨1, 1, 0, 3⟩) ::
      (decide (g.separatorLength < 1 ∨ 3599 < g.separatorLength), ⟨1, 1, 0, 5⟩) ::
      (decide (g.outfeedHold < 1 ∨ 4 < g.outfeedHold), ⟨1, 1, 0, 6⟩) ::
      (decide (g.watchdogMs < 2 ∨ 100 < g.watchdogMs), ⟨1, 1, 0, 8⟩) :: l) =
    ((generalRanges g).map (fun f => (⟨1, 1, 0, f⟩ : CheckFailure))).or (firstFailure l) := by
  simp only [firstFailure_cons, generalRanges, within_not]
  split_ifs <;> rfl

theorem checkTable_eq (t : MachineTable) : checkTable t = firstFailure (tableFlags t) := by
  unfold tableFlags
  simp only [firstFailure_append, firstFailure_map, firstFailure_flatMap, ← failsSingle_eq, ← failsOwned_eq,
    ← failsApplication_eq, ← failsInspection_eq]
  rw [generalRanges_map]
  simp only [firstFailure_cons, firstFailure_nil]
  unfold checkTable
  have hgum : (t.gum.line.any fun l => !t.modes.getLsbD l.val) = (match t.gum.line with
    | some l => !t.modes.getLsbD l.val | none => false) := by cases t.gum.line <;> rfl
  rw [hgum]
  cases generalRanges t.general with
  | some f => rfl
  | none =>
    simp only [Option.map_none, Option.none_or, ite_some_or, decide_eq_true_eq, ← allLines_eq, ← allApps_eq, ← allInsps_eq,
      Option.or_assoc]
    congr 3
    cases allLines.find? (failsSingle t) with
    | some i => rfl
    | none =>
      cases allApps.findSome? (failsApplication t) with
      | some f => rfl
      | none => cases allLines.find? (failsOwned t) <;> rfl

/-! ### What a flag that is down says -/

theorem gumFlag_down (t : MachineTable) : (match t.gum.line with | some l => !t.modes.getLsbD l.val | none => false) = false ↔
    ∀ l, t.gum.line = some l → t.modes.getLsbD l.val = true := by
  cases t.gum.line <;> simp

theorem takeFlag_down (t : MachineTable) :
    (match t.general.takeSource with | .line l => t.modes.getLsbD l.val | .ring => false) = false ↔
    ∀ l, t.general.takeSource = .line l → t.modes.getLsbD l.val = false := by
  cases t.general.takeSource <;> simp

theorem singleFlag_down (t : MachineTable) (i : Fin 16) : failsSingle t i = false ↔
    ∀ j : Fin 16, j.val < i.val → isSingleFunction (getAt t.outs i).function = true →
      (getAt t.outs j).function ≠ (getAt t.outs i).function := by
  simp only [failsSingle, Bool.and_eq_false_imp, List.any_eq_false, Bool.and_eq_true, decide_eq_true_eq, beq_iff_eq, not_and,
    mem_allLines, true_imp_iff]
  exact ⟨fun h j hj hs => h hs j hj, fun h hs j hj => h j hj hs⟩

theorem ownedFlag_down (t : MachineTable) (i : Fin 16) : failsOwned t i = false ↔
    ∀ k, (getAt t.outs i).function = .channel k → (getAt t.apps k).enabled = true ∧ (getAt t.apps k).line = i := by
  unfold failsOwned
  cases (getAt t.outs i).function <;> simp

theorem appFlags_down (t : MachineTable) (k : Fin 12) : failsApplication t k = none ↔
    ((getAt t.apps k).enabled = true → (getAt t.apps k).station ≤ t.general.deliveryOffset - 1 ∧
      (getAt t.outs (getAt t.apps k).line).function = .channel k) := by
  rw [failsApplication_eq, firstFailure_eq_none]
  cases (getAt t.apps k).enabled <;> simp

theorem inspFlags_down (t : MachineTable) (j : Fin 8) : failsInspection t j = none ↔
    ((getAt t.insps j).enabled = true → (getAt t.insps j).station ≤ t.general.gateOffset - 1 ∧
      t.modes.getLsbD (getAt t.insps j).line.val = ((getAt t.insps j).kind == .level)) := by
  rw [failsInspection_eq, firstFailure_eq_none]
  cases (getAt t.insps j).enabled <;> simp [beq_eq_decide]

theorem checkTable_none (t : MachineTable) : checkTable t = none ↔ generalRanges t.general = none ∧
    t.general.gateOffset < t.general.deliveryOffset ∧
    (match t.gum.line with | some l => !t.modes.getLsbD l.val | none => false) = false ∧
    (match t.general.takeSource with | .line l => t.modes.getLsbD l.val | .ring => false) = false ∧
    (∀ i, failsSingle t i = false) ∧ (∀ k, failsApplication t k = none) ∧ (∀ i, failsOwned t i = false) ∧
    ∀ j, failsInspection t j = none := by
  have hpass (b : Bool) (f : CheckFailure) (m : Option CheckFailure) :
      (if b then some f else m) = none ↔ b = false ∧ m = none := by cases b <;> simp
  rw [checkTable_eq, tableFlags]
  simp only [firstFailure_append, firstFailure_map, firstFailure_flatMap, ← failsSingle_eq, ← failsOwned_eq,
    ← failsApplication_eq, ← failsInspection_eq]
  rw [generalRanges_map]
  simp only [firstFailure_cons, firstFailure_nil, Option.or_eq_none_iff, Option.map_eq_none_iff, List.find?_eq_none,
    List.findSome?_eq_none_iff, List.mem_finRange, true_imp_iff, hpass, and_assoc, decide_eq_false_iff_not, Nat.not_le,
    Bool.not_eq_true, true_and]

theorem generalRanges_none (g : General) : generalRanges g = none ↔ 1 ≤ g.feedAngle ∧ g.feedAngle ≤ 3599 ∧
    2 ≤ g.gateOffset ∧ g.gateOffset ≤ 28 ∧ 4 ≤ g.deliveryOffset ∧ g.deliveryOffset ≤ 30 ∧ 1 ≤ g.separatorLength ∧
    g.separatorLength ≤ 3599 ∧ 1 ≤ g.outfeedHold ∧ g.outfeedHold ≤ 4 ∧ 2 ≤ g.watchdogMs ∧ g.watchdogMs ≤ 100 := by
  simp only [generalRanges, within_not, decide_eq_true_eq]
  split_ifs <;> simp <;> omega

/-- Settles O28: the check is a list of flags with their failures, which passes where every flag is down. -/
theorem applyCheck : Obligations.ApplyCheck := by
  unfold Obligations.ApplyCheck
  refine ⟨fun t => ?_, fun t g hg => by subst hg; exact checkTable_eq t⟩
  simp only [checkTable_none, generalRanges_none, gumFlag_down, takeFlag_down, singleFlag_down, appFlags_down, ownedFlag_down,
    inspFlags_down]

/-! ## The recipe checks -/

/-- The checks of R33 in their order, with the failure that each reports. -/
def recipeFlags (t : MachineTable) (r : Recipe) : List (Bool × CheckFailure) :=
  [(r.register.enabled && decide (r.register.m < r.register.w), (⟨1, 2, 0, 2⟩ : CheckFailure)),
    (r.register.enabled && decide (t.general.feedAngle ≤ r.register.m + r.register.w), ⟨2, 2, 0, 2⟩),
    (r.register.enabled && t.modes.getLsbD r.register.markLine.val, ⟨3, 2, 0, 9⟩)]
  ++ r.cams.zipIdx.flatMap (fun (x : CamEntry × Nat) => [
      (!(getAt t.apps x.1.channel).enabled, (⟨4, 3, x.2, 0⟩ : CheckFailure)),
      (decide (2 ≤ x.1.dots ∧ x.1.dotSpacing < x.1.dotLength), ⟨5, 3, x.2, 5⟩),
      (decide (1 ≤ x.1.dots ∧ x.1.off < x.1.on + (x.1.dots - 1) * x.1.dotSpacing + x.1.dotLength), ⟨6, 3, x.2, 4⟩),
      ((r.cams.take x.2).any (fun d => d.channel == x.1.channel && decide (x.1.on ≤ d.off ∧ d.on ≤ x.1.off)),
        ⟨7, 3, x.2, 1⟩)])
  ++ (List.finRange 8).map (fun j => ((getAt r.settings j).enabled
      && (!(getAt t.insps j).enabled || decide ((getAt t.insps j).kind = InspKind.presence)),
        (⟨8, 5, j.val, 0⟩ : CheckFailure)))

theorem indexed_eq : ∀ (n : Nat) (l : List α), indexed n l = (l.zipIdx n).map Prod.swap
  | _, [] => rfl
  | n, x :: xs => by simp [indexed, List.zipIdx_cons, indexed_eq (n + 1) xs]

theorem overlaps_any (e : CamEntry) (l : List CamEntry) : l.any (overlaps e) =
    l.any (fun d => d.channel == e.channel && decide (e.on ≤ d.off ∧ d.on ≤ e.off)) := by
  congr 1
  funext d
  simp only [overlaps, Bool.beq_comm (a := e.channel), Bool.and_assoc, Bool.decide_and]

theorem failsCam_eq (t : MachineTable) (i : Nat) (e : CamEntry) (lower : List CamEntry) : failsCam t i e lower =
    firstFailure [(!(getAt t.apps e.channel).enabled, (⟨4, 3, i, 0⟩ : CheckFailure)),
      (decide (2 ≤ e.dots ∧ e.dotSpacing < e.dotLength), ⟨5, 3, i, 5⟩),
      (decide (1 ≤ e.dots ∧ e.off < e.on + (e.dots - 1) * e.dotSpacing + e.dotLength), ⟨6, 3, i, 4⟩),
      (lower.any (fun d => d.channel == e.channel && decide (e.on ≤ d.off ∧ d.on ≤ e.off)), ⟨7, 3, i, 1⟩)] := by
  simp only [failsCam, firstFailure_cons, firstFailure_nil, overlaps_any, decide_eq_true_eq]

theorem failsSetting_findSome (t : MachineTable) (r : Recipe) : allInsps.findSome? (failsSetting t r) =
    firstFailure ((List.finRange 8).map (fun j => ((getAt r.settings j).enabled
      && (!(getAt t.insps j).enabled || decide ((getAt t.insps j).kind = InspKind.presence)),
        (⟨8, 5, j.val, 0⟩ : CheckFailure)))) := by
  rw [← allInsps_eq]
  induction allInsps with
  | nil => rfl
  | cons j l ih =>
    rw [List.map_cons, firstFailure_cons, ← ih, List.findSome?_cons, failsSetting, beq_eq_decide]
    split <;> simp_all

theorem failsRegister_or (t : MachineTable) (g : RegisterSettings) : failsRegister t g = firstFailure
    [(g.enabled && decide (g.m < g.w), (⟨1, 2, 0, 2⟩ : CheckFailure)),
      (g.enabled && decide (t.general.feedAngle ≤ g.m + g.w), ⟨2, 2, 0, 2⟩),
      (g.enabled && t.modes.getLsbD g.markLine.val, ⟨3, 2, 0, 9⟩)] := by
  simp only [failsRegister, firstFailure_cons, firstFailure_nil]
  cases g.enabled <;> simp

theorem checkRecipe_or (t : MachineTable) (r : Recipe) : checkRecipe t r = (failsRegister t r.register).or
    (((indexed 0 r.cams).findSome? (fun ie => failsCam t ie.1 ie.2 (r.cams.take ie.1))).or
      (allInsps.findSome? (failsSetting t r))) := by
  unfold checkRecipe
  cases failsRegister t r.register with
  | some f => rfl
  | none => cases (indexed 0 r.cams).findSome? (fun ie => failsCam t ie.1 ie.2 (r.cams.take ie.1)) <;> rfl

theorem checkRecipe_eq (t : MachineTable) (r : Recipe) : checkRecipe t r = firstFailure (recipeFlags t r) := by
  rw [checkRecipe_or, recipeFlags, firstFailure_append, firstFailure_append, firstFailure_flatMap, Option.or_assoc,
    failsRegister_or, failsSetting_findSome, indexed_eq, List.findSome?_map]
  simp only [Function.comp_def, failsCam_eq, Prod.fst_swap, Prod.snd_swap]

/-! ### What a check that passes says -/

theorem failsRegister_none (t : MachineTable) (g : RegisterSettings) : failsRegister t g = none ↔
    (g.enabled = true → g.w ≤ g.m ∧ g.m + g.w < t.general.feedAngle ∧ t.modes.getLsbD g.markLine.val = false) := by
  rw [failsRegister_or, firstFailure_eq_none]
  cases g.enabled <;> simp

theorem failsCam_none (t : MachineTable) (i : Nat) (e : CamEntry) (lower : List CamEntry) : failsCam t i e lower = none ↔
    (getAt t.apps e.channel).enabled = true ∧ (2 ≤ e.dots → e.dotLength ≤ e.dotSpacing) ∧
    (1 ≤ e.dots → e.on + (e.dots - 1) * e.dotSpacing + e.dotLength ≤ e.off) ∧
    ∀ d ∈ lower, d.channel = e.channel → d.off < e.on ∨ e.off < d.on := by
  rw [failsCam_eq, firstFailure_eq_none]
  simp only [List.forall_mem_cons, List.not_mem_nil, false_imp_iff, implies_true, and_true, Bool.not_eq_false',
    decide_eq_false_iff_not, not_and, Nat.not_lt, List.any_eq_false, Bool.and_eq_true, beq_iff_eq, decide_eq_true_eq]
  simp only [Nat.not_le, imp_iff_not_or]

theorem mem_indexed (l : List α) (i : Nat) (x : α) : (i, x) ∈ indexed 0 l ↔ l[i]? = some x := by
  rw [indexed_eq, ← Prod.swap_prod_mk, List.mem_map_of_injective Prod.swap_injective]
  exact List.mem_zipIdx_iff_getElem?

theorem mem_take_iff (l : List α) (i : Nat) (x : α) : x ∈ l.take i ↔ ∃ j, j < i ∧ l[j]? = some x := by
  simp only [List.mem_iff_getElem?, List.getElem?_take]
  exact exists_congr fun j => by split <;> simp_all

theorem failsCams_none (t : MachineTable) (r : Recipe) :
    (indexed 0 r.cams).findSome? (fun ie => failsCam t ie.1 ie.2 (r.cams.take ie.1)) = none ↔
    ∀ (i : Nat) (e : CamEntry), r.cams[i]? = some e → (getAt t.apps e.channel).enabled = true ∧
      (2 ≤ e.dots → e.dotLength ≤ e.dotSpacing) ∧
      (1 ≤ e.dots → e.on + (e.dots - 1) * e.dotSpacing + e.dotLength ≤ e.off) ∧
      (∀ (j : Nat) (d : CamEntry), j < i → r.cams[j]? = some d → d.channel = e.channel →
        d.off < e.on ∨ e.off < d.on) := by
  simp only [List.findSome?_eq_none_iff, failsCam_none, Prod.forall, mem_indexed, mem_take_iff, forall_exists_index, and_imp]
  exact forall_congr' fun i => forall_congr' fun e => imp_congr_right fun _ => and_congr_right fun _ => and_congr_right fun _ =>
    and_congr_right fun _ => ⟨fun h j d hj hd => h d j hj hd, fun h d j hj hd => h j d hj hd⟩

theorem failsSettings_none (t : MachineTable) (r : Recipe) : allInsps.findSome? (failsSetting t r) = none ↔
    ∀ j : Fin 8, (getAt r.settings j).enabled = true → (getAt t.insps j).enabled = true ∧
      (getAt t.insps j).kind ≠ .presence := by
  simp [failsSetting_findSome, firstFailure_eq_none]

/-- Settles O31: the check is a list of flags with their failures, which passes where every flag is down. -/
theorem recipeChecks : Obligations.RecipeChecks := by
  unfold Obligations.RecipeChecks
  refine ⟨fun t r => ?_, fun t r g hg => by subst hg; exact checkRecipe_eq t r⟩
  rw [checkRecipe_or, Option.or_eq_none_iff, Option.or_eq_none_iff, failsRegister_none, failsSettings_none, failsCams_none]

end Sys2Proof.Checks
end

section
/-! SUPPORT. The recipe requests and the long operations (chapter 02, sections 2.2 and 2.3). -/

namespace Sys2Proof.RecipeRules

open Sys2Proof.Machine Sys2Proof.Overlay Sys2Proof.Passes Sys2Proof.Requests Sys2Proof.LineRules Sys2Proof.Bytes
  Sys2Proof.Tables Sys2Proof.TableRules

set_option Elab.async false

variable {s t : State} {α : Type}

/-! ## Pairs of fields -/

theorem pairChecks_related (hi a b : Nat) : pairChecks hi a b true = [within 0 hi a, within 0 hi b] := by
  simp [pairChecks]

theorem pairChecks_ranges {hi a b : Nat} (h : within 0 hi a = false ∨ within 0 hi b = false) (related : Bool) :
    pairChecks hi a b related = [within 0 hi a, within 0 hi b] := by
  rcases h with h | h <;> simp [pairChecks, h]

theorem pairChecks_relation {hi a b : Nat} (ha : within 0 hi a = true) (hb : within 0 hi b = true) :
    pairChecks hi a b false = [false, true] ∨ pairChecks hi a b false = [true, false] := by
  simp only [pairChecks, ha, hb]
  cases Config.blamesFirst a b <;> simp

theorem checked_of_prefix {l : List Bool} {n : Nat} (h : l.findIdx? (fun ok => !ok) = some n) (m : List Bool) (x : α) :
    checked (l ++ m) x = .badField n := by
  rw [checked, firstBad_eq, List.findIdx?_append, h]
  rfl

theorem findIdx?_all {l : List Bool} (h : ∀ ok ∈ l, ok = true) : l.findIdx? (fun ok => !ok) = none := by
  rw [List.findIdx?_eq_none_iff]
  exact fun ok hok => by simp [h ok hok]

/-- Where each field of a pair lies in its range and only their relation fails, one of the two is named. -/
theorem checked_relation {hi a b : Nat} {pre post : List Bool} (x : α)
    (h : ∀ ok ∈ pre ++ [within 0 hi a, within 0 hi b], ok = true) :
    checked (pre ++ (pairChecks hi a b false ++ post)) x = .badField pre.length ∨
    checked (pre ++ (pairChecks hi a b false ++ post)) x = .badField (pre.length + 1) := by
  have hpre : pre.findIdx? (fun ok => !ok) = none := findIdx?_all fun ok hok => h ok (List.mem_append_left _ hok)
  rw [checked, firstBad_eq, List.findIdx?_append, hpre]
  rcases pairChecks_relation (h (within 0 hi a) (by simp)) (h (within 0 hi b) (by simp)) with hp | hp
  · left
    rw [hp]
    simp [List.findIdx?_cons]
  · right
    rw [hp]
    simp [List.findIdx?_cons, Nat.add_comm]

/-- A field of a first part or of a pair that lies out of its range is named, whatever the relation. -/
theorem checked_pair {hi a b n : Nat} {pre post : List Bool} (x : α)
    (h : (pre ++ [within 0 hi a, within 0 hi b]).findIdx? (fun ok => !ok) = some n) :
    checked (pre ++ (pairChecks hi a b false ++ post)) x = .badField n := by
  by_cases hout : within 0 hi a = false ∨ within 0 hi b = false
  · rw [pairChecks_ranges hout, ← List.append_assoc]
    exact checked_of_prefix h post x
  · simp only [not_or, Bool.not_eq_false] at hout
    refine checked_of_prefix (l := pre) ?_ _ x
    rw [List.findIdx?_append, hout.1, hout.2] at h
    simpa [List.findIdx?_cons] using h

/-! ## Recipe items -/

theorem parseRecipeItem_unknown {len k i : Nat} (h : k = 0 ∨ 6 < k ∨ (0 < i ∧ (k = 1 ∨ k = 2 ∨ k = 4 ∨ k = 6)) ∨
    ((len < i ∨ 24 ≤ i) ∧ k = 3) ∨ (8 ≤ i ∧ k = 5)) (b : List Byte) : parseRecipeItem len k i b = .unknown := by
  unfold parseRecipeItem
  split <;> first | rfl | exact if_neg (by omega)

theorem parseHeader_eq (len : Nat) (b : List Byte) : parseRecipeItem len 1 0 b = inRanges [decide (u8 b 0 ≤ 15),
    decide (∀ c, c ∈ (b.drop 1).take 12 → 32 ≤ c.toNat ∧ c.toNat ≤ 126)] (.header ⟨u8 b 0, (b.drop 1).take 12⟩) := by
  have hall : ((b.drop 1).take 12).all (fun c => within 32 126 c.toNat) =
      decide (∀ c, c ∈ (b.drop 1).take 12 → 32 ≤ c.toNat ∧ c.toNat ≤ 126) := by
    rw [Bool.eq_iff_iff, List.all_eq_true, decide_eq_true_eq]
    simp only [within_eq, decide_eq_true_eq]
  show parseHeader b = _
  rw [parseHeader, hall, within_zero]
  exact checked_eq (fun _ => rfl)

theorem parseRegister_eq (len : Nat) (b : List Byte) : parseRecipeItem len 2 0 b = inRanges [decide (u8 b 0 ≤ 1),
      decide (u16 b 1 ≤ 3599),
      decide (10 ≤ u16 b 3 ∧ u16 b 3 ≤ 900), decide (u16 b 5 ≤ 256), decide (1 ≤ u8 b 7 ∧ u8 b 7 ≤ 200),
      decide (u16 b 8 ≤ 1800), decide (1 ≤ u16 b 10 ∧ u16 b 10 ≤ 450), decide (1 ≤ u8 b 12 ∧ u8 b 12 ≤ 15),
      decide (1 ≤ u8 b 13 ∧ u8 b 13 ≤ 15), decide (u8 b 14 ≤ 15)]
    (.register ⟨decide (u8 b 0 = 1), u16 b 1, u16 b 3, u16 b 5, u8 b 7, u16 b 8, u16 b 10, u8 b 12, u8 b 13,
      Fin.ofNat 16 (u8 b 14)⟩) := by
  show parseRegister b = _
  unfold parseRegister
  simp only [within_zero]
  simp only [within_eq]
  exact checked_eq (fun _ => rfl)

/-- The field checks of a cam entry, its pair taken alone. -/
def camChecks (b : List Byte) : List Bool :=
  [decide (u8 b 0 ≤ 11), decide (u16 b 1 ≤ 3599), decide (u16 b 3 ≤ 3599), decide (u8 b 5 ≤ 15),
    decide (u8 b 5 = 0 ∨ (1 ≤ u16 b 6 ∧ u16 b 6 ≤ 1799)), decide (u8 b 5 < 2 ∨ (1 ≤ u16 b 8 ∧ u16 b 8 ≤ 3000)),
    decide (u8 b 10 ≤ 1)]

theorem parseCam_eq (i : Nat) (b : List Byte) : parseCam i b = checked ([decide (u8 b 0 ≤ 11)] ++
    (pairChecks 3599 (u16 b 1) (u16 b 3) (decide (u16 b 1 < u16 b 3 ∧ u16 b 3 - u16 b 1 ≤ 3000)) ++ (camChecks b).drop 3))
    (.cam i ⟨Fin.ofNat 12 (u8 b 0), u16 b 1, u16 b 3, u8 b 5, u16 b 6, u16 b 8, decide (u8 b 10 = 1)⟩) := by
  rw [parseCam, within_zero, within_zero, within_eq, within_eq, within_zero, List.append_assoc]
  simp only [camChecks, Bool.decide_or, Bool.decide_and, List.drop_succ_cons, List.drop_zero, beq_eq_decide]

/-- The field checks of an inspection setting, its pairs taken alone. -/
def settingChecks (b : List Byte) : List Bool :=
  [decide (u8 b 0 ≤ 1), decide (u16 b 1 ≤ 3599), decide (u16 b 3 ≤ 3599), decide (u16 b 5 ≤ 4095),
    decide (u16 b 7 ≤ 4095), decide (u8 b 9 ≤ 4)]

theorem defectClassOf_eq (n : Nat) : defectClassOf n = [DefectClass.register, .window, .gum, .fold].getD n .thickness := by
  rcases n with _ | _ | _ | _ | n <;> rfl

theorem parseSetting_eq (j : Fin 8) (b : List Byte) : parseSetting j b = checked ([decide (u8 b 0 ≤ 1)] ++
    (pairChecks 3599 (u16 b 1) (u16 b 3) (decide (u16 b 1 < u16 b 3)) ++
    (pairChecks 4095 (u16 b 5) (u16 b 7) (decide (u16 b 5 ≤ u16 b 7)) ++ [decide (u8 b 9 ≤ 4)])))
    (.inspection j ⟨decide (u8 b 0 = 1), u16 b 1, u16 b 3, u16 b 5, u16 b 7,
      [.register, .window, .gum, .fold].getD (u8 b 9) .thickness⟩) := by
  rw [parseSetting, within_zero, within_zero, defectClassOf_eq, List.append_assoc, List.append_assoc]
  rfl

theorem parseRecipeItem_cam {len i : Nat} (h : i ≤ len) (hi : i < 24) (b : List Byte) :
    parseRecipeItem len 3 i b = parseCam i b := if_pos ⟨h, hi⟩

theorem parseRecipeItem_setting (len : Nat) (j : Fin 8) (b : List Byte) : parseRecipeItem len 5 j.val b = parseSetting j b := by
  show (if j.val < 8 then _ else _) = _
  rw [if_pos j.isLt, ofNat_val]

theorem parseCam_related (i : Nat) {b : List Byte} (h : u16 b 1 < u16 b 3 ∧ u16 b 3 - u16 b 1 ≤ 3000) :
    parseCam i b = inRanges (camChecks b)
      (.cam i ⟨Fin.ofNat 12 (u8 b 0), u16 b 1, u16 b 3, u8 b 5, u16 b 6, u16 b 8, decide (u8 b 10 = 1)⟩) := by
  rw [parseCam_eq, decide_eq_true h, pairChecks_related, within_zero, within_zero]
  exact checked_eq (fun _ => rfl)

theorem parseCam_unrelated (i : Nat) {b : List Byte} (h : u16 b 3 ≤ u16 b 1 ∨ 3000 < u16 b 3 - u16 b 1) :
    (∀ n, ((camChecks b).take 3).findIdx? (fun ok => !ok) = some n → parseCam i b = .badField n) ∧
    ((∀ ok, ok ∈ (camChecks b).take 3 → ok = true) → parseCam i b = .badField 1 ∨ parseCam i b = .badField 2) := by
  have hrel : decide (u16 b 1 < u16 b 3 ∧ u16 b 3 - u16 b 1 ≤ 3000) = false := decide_eq_false (by omega)
  have htake : (camChecks b).take 3 = [decide (u8 b 0 ≤ 11)] ++ [within 0 3599 (u16 b 1), within 0 3599 (u16 b 3)] := by
    rw [within_zero, within_zero]
    rfl
  rw [parseCam_eq, hrel, htake]
  exact ⟨fun n hn => checked_pair _ hn, fun hall => checked_relation _ hall⟩

theorem parseSetting_related (j : Fin 8) {b : List Byte} (h : u16 b 1 < u16 b 3) (h' : u16 b 5 ≤ u16 b 7) :
    parseSetting j b = inRanges (settingChecks b) (.inspection j ⟨decide (u8 b 0 = 1), u16 b 1, u16 b 3, u16 b 5, u16 b 7,
      [.register, .window, .gum, .fold].getD (u8 b 9) .thickness⟩) := by
  rw [parseSetting_eq, decide_eq_true h, decide_eq_true h', pairChecks_related, pairChecks_related]
  simp only [within_zero]
  exact checked_eq (fun _ => rfl)

theorem parseSetting_unrelated (j : Fin 8) {b : List Byte} {m : Nat}
    (h : (m = 3 ∧ u16 b 3 ≤ u16 b 1) ∨ (m = 5 ∧ u16 b 1 < u16 b 3 ∧ u16 b 7 < u16 b 5)) :
    (∀ n, ((settingChecks b).take m).findIdx? (fun ok => !ok) = some n → parseSetting j b = .badField n) ∧
    ((∀ ok, ok ∈ (settingChecks b).take m → ok = true) →
      parseSetting j b = .badField (m - 2) ∨ parseSetting j b = .badField (m - 1)) := by
  rw [parseSetting_eq]
  rcases h with ⟨rfl, h⟩ | ⟨rfl, h, h'⟩
  · have htake : (settingChecks b).take 3 = [decide (u8 b 0 ≤ 1)] ++ [within 0 3599 (u16 b 1), within 0 3599 (u16 b 3)] := by
      rw [within_zero, within_zero]
      rfl
    rw [decide_eq_false (Nat.not_lt.mpr h), htake]
    exact ⟨fun n hn => checked_pair _ hn, fun hall => checked_relation _ hall⟩
  · have htake : (settingChecks b).take 5 = ([decide (u8 b 0 ≤ 1)] ++ [within 0 3599 (u16 b 1), within 0 3599 (u16 b 3)]) ++
        [within 0 4095 (u16 b 5), within 0 4095 (u16 b 7)] := by
      simp only [within_zero]
      rfl
    rw [decide_eq_true h, decide_eq_false (Nat.not_le.mpr h'), pairChecks_related, htake, ← List.append_assoc]
    exact ⟨fun n hn => checked_pair _ hn, fun hall => checked_relation _ hall⟩

theorem parseSmall_eq (len : Nat) (b : List Byte) :
    parseRecipeItem len 4 0 b = inRanges [decide (u8 b 0 ≤ len)] (.camLength (u8 b 0)) ∧
    parseRecipeItem len 6 0 b = inRanges [decide (u8 b 0 ≤ 31)] (.rejectMask (BitVec.ofNat 5 (u8 b 0))) := by
  constructor
  · show checked _ _ = _
    rw [within_zero]
    exact checked_eq (fun _ => rfl)
  · show checked _ _ = _
    rw [within_zero]
    exact checked_eq (fun _ => rfl)

theorem writeRecipeItem_cases (r : Recipe) : (∀ h, writeRecipeItem r (.header h) = { r with header := h }) ∧
    (∀ g, writeRecipeItem r (.register g) = { r with register := g }) ∧
    (∀ i e, i < r.cams.length → writeRecipeItem r (.cam i e) = { r with cams := r.cams.set i e }) ∧
    (∀ e, writeRecipeItem r (.cam r.cams.length e) = { r with cams := r.cams ++ [e] }) ∧
    (∀ n, writeRecipeItem r (.camLength n) = { r with cams := r.cams.take n }) ∧
    (∀ j c, writeRecipeItem r (.inspection j c) = { r with settings := put r.settings j c }) ∧
    (∀ m, writeRecipeItem r (.rejectMask m) = { r with rejectMask := m }) := by
  refine ⟨fun _ => rfl, fun _ => rfl, fun i e hi => ?_, fun e => ?_, fun _ => rfl, fun _ _ => rfl, fun _ => rfl⟩
  · rw [writeRecipeItem, if_pos hi]
  · rw [writeRecipeItem, if_neg (Nat.lt_irrefl _)]

/-! ## RECIPE_EDIT and RECIPE_WRITE -/

theorem put_put {n : Nat} (v : Vector α n) (k : Fin n) (x y : α) : put (put v k x) k y = put v k y := by
  simp [put]

theorem slotOf_put (s : State) (k : Fin 8) (x : Slot) :
    slotOf { s with store := { s.store with slots := put s.store.slots k x } } k = x := getAt_put_same _ _ _

theorem recipeEdit_invalid {args : List Byte} {k : Fin 8} (hk : u8 args 0 = k.val) (hv : s.store.validity = .invalid) :
    recipeEdit args false s = (s, bare .state) := by
  simp [recipeEdit, slotArg_some hk, hv]

theorem recipeEdit_slot {args : List Byte} {k : Fin 8} (hk : u8 args 0 = k.val) (hv : s.store.validity = .valid) :
    recipeEdit args false s = match (slotOf s k).state with
      | .empty => (setSlotState k .editing (clearContent k s),
          ⟨.ok, le8 (codeSlot (slotOf (setSlotState k .editing (clearContent k s)) k).state)⟩)
      | .editing => (s, ⟨.ok, le8 (codeSlot (slotOf s k).state)⟩)
      | .usable => if (slotOf s k).refs = 0 then (setSlotState k .editing s,
          ⟨.ok, le8 (codeSlot (slotOf (setSlotState k .editing s) k).state)⟩) else (s, bare .inUse)
      | .checking => (s, bare .busy)
      | .clearing => (s, bare .busy) := by
  simp only [recipeEdit, slotArg_some hk, hv]
  rfl

theorem setSlotState_eq (k : Fin 8) (x : SlotState) (s : State) : setSlotState k x s =
    { s with store := { s.store with slots := put s.store.slots k { slotOf s k with state := x } } } := rfl

theorem setSlotState_clearContent (k : Fin 8) (x : SlotState) (s : State) : setSlotState k x (clearContent k s) =
    { s with store := { s.store with slots := put s.store.slots k ⟨x, (slotOf s k).refs, Recipe.initial⟩ } } := by
  have hslot : slotOf (clearContent k s) k = { slotOf s k with recipe := Recipe.initial } := getAt_put_same _ _ _
  rw [setSlotState_eq, hslot]
  show { s with store := { s.store with slots := put (put s.store.slots k _) k _ } } = _
  rw [put_put]

theorem state_setSlotState (k : Fin 8) (x : SlotState) (s : State) : (slotOf (setSlotState k x s) k).state = x := by
  rw [setSlotState_eq, slotOf_put]

/-- Settles O29. -/
theorem recipeEditAndWrite : Obligations.RecipeEditAndWrite := by
  unfold Obligations.RecipeEditAndWrite
  refine ⟨?_, ?_, ?_, fun len i b => ⟨fun k hk => parseRecipeItem_unknown (by omega) b, fun hi =>
      ⟨parseRecipeItem_unknown (by omega) b, parseRecipeItem_unknown (by omega) b, parseRecipeItem_unknown (by omega) b,
        parseRecipeItem_unknown (by omega) b⟩, fun hi => parseRecipeItem_unknown (by omega) b,
      fun hi => parseRecipeItem_unknown (by omega) b, parseHeader_eq len b, parseRegister_eq len b, ?_, (parseSmall_eq len b).1,
      ?_, (parseSmall_eq len b).2⟩, writeRecipeItem_cases⟩
  · refine fun args lock s hr hk => ⟨fun ha => answered_ready ha hr 13 ?_, fun ha => answered_ready ha hr 14 ?_⟩
    · simp only [recipeEdit, slotArg_none hk]
      rfl
    · simp only [recipeWrite, slotArg_none hk]
      rfl
  · refine fun args lock s k ha hr hk => ⟨?_, ?_, ?_⟩
    · rintro rfl
      refine answered_ready ha hr 13 ?_
      simp only [recipeEdit, slotArg_some hk]
      rfl
    · rintro rfl hv
      exact answered_ready ha hr 13 (recipeEdit_invalid hk hv)
    · rintro rfl hv
      refine ⟨fun hs => answered_ready ha hr 13 ?_, fun hs => answered_ready ha hr 13 ?_,
        fun hs h0 => answered_ready ha hr 13 ?_, fun hs h0 => answered_ready ha hr 13 ?_⟩
      all_goals simp only [recipeEdit_slot hk hv, hs]
      · rw [state_setSlotState, setSlotState_clearContent]
        rfl
      · rfl
      · rw [if_pos h0, state_setSlotState]
        rfl
      · rw [if_neg h0]
        rfl
  · refine fun args lock s k ha hr hk => ⟨fun h => answered_ready ha hr 14 ?_, fun n h => answered_ready ha hr 14 ?_,
      fun x h => ⟨?_, ?_, ?_⟩⟩
    · simp only [recipeWrite, slotArg_some hk, h]
      rfl
    · simp only [recipeWrite, slotArg_some hk, h]
      rfl
    · rintro rfl
      refine answered_ready ha hr 14 ?_
      simp only [recipeWrite, slotArg_some hk, h]
      rfl
    · rintro rfl hs
      refine answered_ready ha hr 14 ?_
      simp only [recipeWrite, slotArg_some hk, h]
      rw [if_neg Bool.false_ne_true, if_pos hs]
      rfl
    · rintro rfl hs
      refine answered_ready ha hr 14 ?_
      simp only [recipeWrite, slotArg_some hk, h]
      rw [if_neg Bool.false_ne_true, if_neg (not_not.mpr hs)]
      rfl
  · rintro oks hlen hi rfl
    rw [parseRecipeItem_cam hlen hi]
    exact ⟨fun h h' => parseCam_related i ⟨h, h'⟩, parseCam_unrelated i⟩
  · rintro j oks rfl
    rw [parseRecipeItem_setting]
    exact ⟨parseSetting_related j, fun m => parseSetting_unrelated j⟩

/-! ## The long operations -/

theorem recipeClear_starts {args : List Byte} {k : Fin 8} (hk : u8 args 0 = k.val) (h0 : (slotOf s k).state ≠ .empty)
    (hu : (slotOf s k).state = .usable → (slotOf s k).refs = 0) : recipeClear args false s =
      (startWork .recipeClear k (carriedAs 16 args s).isSome (setSlotState k .clearing s), bare .accepted) := by
  have hfree : ¬ ((slotOf s k).state = .usable ∧ (slotOf s k).refs ≠ 0) := fun h => h.2 (hu h.1)
  simp only [recipeClear, slotArg_some hk, if_neg h0, if_neg hfree]
  rfl

theorem completing_some {op : LongOp} {o : InFlight} (h : s.mgmt.inFlight = some o) (ho : o.op = op) (hc : o.carried = false) :
    completing s op = some o.slot := by
  simp [completing, h, ho, hc]

/-- Settles O30. -/
theorem longOperations : Obligations.LongOperations := by
  refine ⟨fun args lock s ha hr => ⟨fun h => ⟨answered_ready ha hr 15 ?_, answered_ready ha hr 16 ?_⟩, fun k hk =>
    ⟨fun h => answered_ready ha hr 15 ?_, fun h => answered_ready ha hr 15 ?_, ?_, ?_, ?_, ?_⟩⟩, fun s o hh hf hc =>
    ⟨fun ho => ⟨fun hpass => ?_, fun f hfail => ?_⟩, fun ho => ?_⟩⟩
  · simp only [recipeCheck, slotArg_none h]
    rfl
  · simp only [recipeClear, slotArg_none h]
    rfl
  · simp only [recipeCheck, slotArg_some hk, if_pos h]
    rfl
  · simp only [recipeCheck, slotArg_some hk, if_neg (not_not.mpr h)]
    rfl
  · rintro rfl
    refine answered_ready ha hr 16 ?_
    simp only [recipeClear, slotArg_some hk]
    rfl
  · rintro rfl h
    refine answered_ready ha hr 16 ?_
    simp only [recipeClear, slotArg_some hk, if_pos h]
    rfl
  · rintro rfl h h0
    refine answered_ready ha hr 16 ?_
    have hne : (slotOf s k).state ≠ .empty := by rw [h]; exact (nomatch ·)
    simp only [recipeClear, slotArg_some hk, if_neg hne, if_pos (And.intro h h0)]
    rfl
  · rintro rfl h0 hu
    exact answered_ready ha hr 16 (recipeClear_starts hk h0 hu)
  · refine congrArg _ ((event_free hh _).trans ?_)
    simp only [checkCompletion, completing_some hf ho hc, completeCheck, hpass]
    rfl
  · refine congrArg _ ((event_free hh _).trans ?_)
    simp only [checkCompletion, completing_some hf ho hc, completeCheck, hfail]
    rfl
  · refine congrArg _ ((event_free hh _).trans ?_)
    simp only [clearCompletion, completing_some hf ho hc, completeClear, finishWork, setSlotState_clearContent]

end Sys2Proof.RecipeRules
end

section
/-! SUPPORT. The reads of list, channels, orders and box log (03 R55, 06 R110, 07 R118, 08 R148). -/

namespace Sys2Proof.Reads

open Sys2Proof.Machine Sys2Proof.Overlay Sys2Proof.Passes Sys2Proof.Requests Sys2Proof.LineRules Sys2Proof.Bytes
  Sys2Proof.Tables Sys2Proof.TableRules Sys2Proof.Checks

set_option Elab.async false

variable {s t : State}

/-! ## Fields as bytes -/

theorem leBool_eq (b : Bool) : leBool b = [if b then 1#8 else 0#8] := by cases b <;> rfl

theorem leFlag_eq (b : Bool) : leFlag b = [if b then 0#8 else 1#8] := by cases b <;> rfl

theorem le8_toNat {n : Nat} (v : BitVec n) : le8 v.toNat = [v.setWidth 8] := by
  rw [le8, BitVec.ofNat_toNat]

/-! ## TRANSIT_READ -/

theorem transitSummary_eq (s : State) : transitSummary s = [BitVec.ofNat 8 s.track.records.length]
    ++ le32 (match s.track.records.head? with | some r => r.seq.toNat | none => 0) ++ le32 s.track.nextSeq.toNat := by
  unfold transitSummary
  cases s.track.records.head? <;> rfl

theorem errorBytes_eq (e : Option Int) : errorBytes e = le16 (match e with | some e => (e % 65536).toNat | none => 32768) := by
  cases e <;> rfl

theorem recordBytes_eq (s : State) (i : Nat) (r : Record) : recordBytes s i r
    = le32 r.seq.toNat ++ le32 r.cutPitch.toNat ++ le16 r.tag
      ++ [BitVec.ofNat 8 r.slot.val, match r.stage with | .opened => 0#8 | .committed => 1#8,
        match r.verdict with | some .inRegister => 0#8 | some .outOfRegister => 1#8 | none => 255#8]
      ++ le16 (match r.error with | some e => (e % 65536).toNat | none => 32768) ++ [r.defects.setWidth 8]
      ++ le16 r.applied.toNat ++ le16 r.suppressed.toNat
      ++ (List.finRange 8).flatMap (fun j => le16 (match getAt r.values j with | some v => v | none => 65535))
      ++ [BitVec.ofNat 8 i, if r.stage = .opened ∧ isRejectable s r = false then 1#8 else 0#8] := by
  have hstage : le8 (codeStage r.stage) = [match r.stage with | .opened => 0#8 | .committed => 1#8] := by
    cases r.stage <;> rfl
  have hverdict : leOpt8 (r.verdict.map codeVerdict) =
      [match r.verdict with | some .inRegister => 0#8 | some .outOfRegister => 1#8 | none => 255#8] := by
    rcases r.verdict with _ | v
    · rfl
    · cases v <;> rfl
  have hvalues : allInsps.flatMap (fun j => leOpt16 (getAt r.values j)) =
      (List.finRange 8).flatMap (fun j => le16 (match getAt r.values j with | some v => v | none => 65535)) := by
    rw [allInsps_eq]
    congr 1
    funext j
    cases getAt r.values j <;> rfl
  have hhopeful : leBool (isHopeful s r) = [if r.stage = .opened ∧ isRejectable s r = false then 1#8 else 0#8] := by
    rw [leBool_eq, isHopeful]
    cases r.stage <;> cases isRejectable s r <;> rfl
  rw [recordBytes, hstage, hverdict, errorBytes_eq, le8_toNat, hvalues, hhopeful]
  simp only [le8, List.append_assoc, List.cons_append, List.nil_append]

theorem transitRead_badArg {args : List Byte} (h : 1 < u8 args 0 ∨ (u8 args 0 = 0 ∧ 30 < u32 args 1)) :
    transitRead args s = (s, ⟨.badArg, transitSummary s⟩) := if_pos h

theorem transitRead_selected {args : List Byte} (h : ¬ (1 < u8 args 0 ∨ (u8 args 0 = 0 ∧ 30 < u32 args 1))) :
    transitRead args s = match (selected s (u8 args 0) (u32 args 1)).bind (fun i => s.track.records[i]?.map (fun r => (i, r))) with
      | none => (s, ⟨.notHeld, transitSummary s⟩)
      | some (i, r) => (s, ⟨.ok, transitSummary s ++ recordBytes s i r⟩) := by
  unfold transitRead
  rw [if_neg h]
  cases selected s (u8 args 0) (u32 args 1) with
  | none => rfl
  | some i => dsimp only [Option.bind_some]; cases s.track.records[i]? <;> rfl

theorem selected_first {i : Nat} {r : Record} {key : Nat} (h : s.track.records[i]? = some r) (hr : r.seq = BitVec.ofNat 32 key)
    (hfirst : ∀ (j : Nat) q, j < i → s.track.records[j]? = some q → q.seq ≠ r.seq) : selected s 1 key = some i := by
  obtain ⟨hi, rfl⟩ := List.getElem?_eq_some_iff.mp h
  show List.findIdx? _ _ = _
  rw [List.findIdx?_eq_some_iff_getElem]
  refine ⟨hi, by simp [hr], fun j hj => ?_⟩
  have := hfirst j _ hj (List.getElem?_eq_getElem (by omega))
  rw [hr] at this
  simpa using this

/-! ## CHANNEL_RESULT_READ -/

theorem channelRecord_eq (s : State) (j : Fin 8) (c : InspSettings) (x : InspChannel) (hc : c = getAt s.store.inForce.insps j)
    (hx : x = inspChannel s j) : channelRecord s j
    = [if c.enabled then 1#8 else 0#8,
        match c.kind with | .presence => 0#8 | .span => 1#8 | .count => 2#8 | .level => 3#8]
      ++ le32 (match x.result with | some ⟨some q, _, _, _⟩ => q.toNat | _ => 0)
      ++ le32 (match x.result with | some y => y.cutPitch.toNat | none => 0)
      ++ le16 (match x.result with | some y => y.value | none => 65535)
      ++ [match x.result with
          | some y => (match y.judgement with | .pass => 0#8 | .fail => 1#8 | .lost => 2#8 | .unexpected => 3#8)
          | none => 255#8,
        if x.ready then 0#8 else 1#8, if x.overrun then 0#8 else 1#8]
      ++ (if c.kind = .presence then [BitVec.ofNat 8 x.losses] else []) := by
  subst hc hx
  have hkind : le8 (codeInsp (getAt s.store.inForce.insps j).kind) =
      [match (getAt s.store.inForce.insps j).kind with | .presence => 0#8 | .span => 1#8 | .count => 2#8 | .level => 3#8] := by
    cases (getAt s.store.inForce.insps j).kind <;> rfl
  simp only [channelRecord, inspOf, leBool_eq, leFlag_eq, hkind]
  rcases (inspChannel s j).result with _ | ⟨q, p, v, g⟩
  · rfl
  · cases q <;> cases g <;> rfl

/-! ## ORDER_READ -/

theorem codeFeed_byte (f : FeedState) : le8 (codeFeed f) =
    [match f with | .noOrder => 0#8 | .feeding => 1#8 | .suspended => 2#8 | .changeover => 3#8] := by cases f <;> rfl

theorem leTag_orders (o : Option Order) : leTag (o.map Order.tag) = le16 (match o with | some o => o.tag | none => 0) := by
  cases o <;> rfl

theorem orderSummary_eq (s : State) : orderSummary s
    = [match s.orders.feedState with | .noOrder => 0#8 | .feeding => 1#8 | .suspended => 2#8 | .changeover => 3#8,
        (holdReasons s).setWidth 8, BitVec.ofNat 8 s.orders.countdown,
        match s.orders.runningClass with | some c => BitVec.ofNat 8 c | none => 255#8]
      ++ le16 (match activeOrder s with | some o => o.tag | none => 0)
      ++ le16 (match nextOrder s with | some o => o.tag | none => 0) ++ [if isStartable s then 1#8 else 0#8]
      ++ (s.orders.list.filter (fun o => o.lane == .priority)).flatMap (fun o => le16 o.tag)
      ++ (s.orders.list.filter (fun o => o.lane == .normal)).flatMap (fun o => le16 o.tag) := by
  have hclass : leOpt8 s.orders.runningClass =
      [match s.orders.runningClass with | some c => BitVec.ofNat 8 c | none => 255#8] := by
    cases s.orders.runningClass <;> rfl
  rw [orderSummary, codeFeed_byte, le8_toNat, hclass, leTag_orders, leTag_orders, leBool_eq]
  rfl

theorem needBytes_none : needBytes none = le32 2147483648 := by decide

theorem orderBytes_eq (s : State) (o : Order) : orderBytes s o
    = le16 o.tag ++ [match o.lane with | .normal => 0#8 | .priority => 1#8, BitVec.ofNat 8 o.slot.val]
      ++ le32 o.quantity ++ le16 o.boxQuantity ++ [BitVec.ofNat 8 o.spare] ++ le16 o.early
      ++ [if o.holdAfter then 0#8 else 1#8, if o.quiet then 0#8 else 1#8,
        match o.state with | .queued => 0#8 | .active => 1#8 | .feedDone => 2#8]
      ++ le32 o.delivered ++ le32 o.boxesClosed
      ++ [if o.earlySent then 0#8 else 1#8, if o.aborted then 0#8 else 1#8,
        BitVec.ofNat 8 (recipeOf s o.slot).header.formatClass, BitVec.ofNat 8 (committedOf s o.tag),
        BitVec.ofNat 8 (hopefulOf s o.tag)]
      ++ le32 (o.delivered + committedOf s o.tag)
      ++ le32 (if o.state = .active then (if isStartable s then o.quantity + o.spare else o.quantity) else 4294967295)
      ++ le32 (if o.state = .active then (needOf s o % 4294967296).toNat else 2147483648) := by
  have hlane : le8 (codeLane o.lane) = [match o.lane with | .normal => 0#8 | .priority => 1#8] := by cases o.lane <;> rfl
  have hstate : le8 (codeOrder o.state) = [match o.state with | .queued => 0#8 | .active => 1#8 | .feedDone => 2#8] := by
    cases o.state <;> rfl
  have htarget : leOpt32 ((if o.state = .active then some (targetOf s o : Int) else none).map Int.toNat) =
      le32 (if o.state = .active then (if isStartable s then o.quantity + o.spare else o.quantity) else 4294967295) := by
    by_cases h : o.state = .active
    · rw [if_pos h, if_pos h, targetOf]
      cases isStartable s <;> rfl
    · rw [if_neg h, if_neg h]
      rfl
  have hneed : needBytes (if o.state = .active then some (needOf s o) else none) =
      le32 (if o.state = .active then (needOf s o % 4294967296).toNat else 2147483648) := by
    by_cases h : o.state = .active
    · rw [if_pos h, if_pos h]
      rfl
    · rw [if_neg h, if_neg h]
      exact needBytes_none
  unfold orderBytes
  dsimp only
  rw [hlane, hstate, htarget, hneed]
  simp only [leFlag_eq, le8, formatClassOf, passedOf, List.append_assoc, List.cons_append, List.nil_append]

theorem length_orderBytes (s : State) (o : Order) : (orderBytes s o).length = 41 := by
  rw [orderBytes_eq]
  rfl

/-! ## BOX_LOG_READ -/

theorem deliverySummary_eq (s : State) : deliverySummary s = le32 s.deliv.nextBox.toNat
    ++ [BitVec.ofNat 8 s.deliv.log.length, BitVec.ofNat 8 s.deliv.waiting, BitVec.ofNat 8 s.deliv.committedCloses]
    ++ (match s.deliv.openBox with
      | some b => le16 b.tag ++ le32 b.number ++ le16 b.count
      | none => le16 0 ++ le32 4294967295 ++ le16 65535)
    ++ (match s.deliv.projected with | some b => le16 b.tag ++ le16 b.count | none => le16 0 ++ le16 65535) := by
  unfold deliverySummary
  cases s.deliv.openBox <;> cases s.deliv.projected <;> rfl

theorem entryBytes_some (e : BoxEntry) : entryBytes (some e) = le32 e.seq.toNat ++ le16 e.tag ++ le32 e.number ++ le16 e.count
    ++ [match e.reason with | .full => 0#8 | .final => 1#8 | .orderChange => 2#8 | .request => 3#8]
    ++ le32 e.pitch.toNat := by
  obtain ⟨q, g, n, c, r, p⟩ := e
  cases r <;> rfl

theorem length_boxLogBytes (s : State) (e : Option BoxEntry) : (entryBytes e ++ deliverySummary s).length = 36 := rfl

/-- Settles O32: the four reads, each with the bytes it answers. -/
theorem listAndLogReads : Obligations.ListAndLogReads := by
  refine ⟨fun args s ha => ⟨fun h => ?_, fun h0 hk => ⟨fun hlen => ?_, fun r hr => ?_⟩, fun h1 => ⟨fun hnone => ?_,
      fun i r hr hq hfirst => ?_⟩⟩, fun args s ha => ⟨fun h => ?_, fun j hj => ?_⟩,
    fun args s ha => ⟨fun h => ?_, fun h hnone => ?_, fun o h ho => ⟨?_, length_orderBytes s o, ?_, fun hs => ?_⟩⟩,
    fun args s ha => ⟨fun e he => ?_, fun hnone => ?_, length_boxLogBytes s⟩, fun n => ⟨rfl, le32_eq n⟩, transitSummary_eq,
    recordBytes_eq, channelRecord_eq, orderSummary_eq, orderBytes_eq, deliverySummary_eq, entryBytes_some, rfl⟩
  · exact congrArg _ ((request_accepted ha 20 _).trans (by rw [transitRead_badArg h]))
  · have hsel : selected s (u8 args 0) (u32 args 1) = none := by
      rw [h0]
      exact if_neg (Nat.not_lt.mpr hlen)
    refine congrArg _ ((request_accepted ha 20 _).trans ?_)
    rw [transitRead_selected (by omega), hsel]
    rfl
  · have hlt : u32 args 1 < s.track.records.length := (List.getElem?_eq_some_iff.mp hr).1
    have hsel : selected s (u8 args 0) (u32 args 1) = some (u32 args 1) := by
      rw [h0]
      exact if_pos hlt
    refine congrArg _ ((request_accepted ha 20 _).trans ?_)
    rw [transitRead_selected (by omega), hsel, Option.bind_some, hr]
    rfl
  · have hsel : selected s (u8 args 0) (u32 args 1) = none := by
      rw [h1]
      show List.findIdx? _ _ = _
      rw [List.findIdx?_eq_none_iff]
      exact fun r hr => by simpa using hnone r hr
    refine congrArg _ ((request_accepted ha 20 _).trans ?_)
    rw [transitRead_selected (by omega), hsel]
    rfl
  · have hsel : selected s (u8 args 0) (u32 args 1) = some i := by
      rw [h1]
      exact selected_first hr hq hfirst
    refine congrArg _ ((request_accepted ha 20 _).trans ?_)
    rw [transitRead_selected (by omega), hsel, Option.bind_some, hr]
    rfl
  · exact congrArg _ ((request_accepted ha 30 _).trans (by rw [channelResultRead, if_neg (by omega)]; rfl))
  · refine congrArg _ ((request_accepted ha 30 _).trans ?_)
    rw [channelResultRead, hj, if_pos j.isLt, ofNat_val]
    rfl
  · exact congrArg _ ((request_accepted ha 41 _).trans (by rw [orderRead, if_pos h]))
  · have hfind : findOrder s (u16 args 0) = none := by
      simpa [findOrder] using hnone
    exact congrArg _ ((request_accepted ha 41 _).trans (by rw [orderRead, if_neg h, hfind]; rfl))
  · exact congrArg _ ((request_accepted ha 41 _).trans (by rw [orderRead, if_neg h, ho]))
  · rw [orderBytes_eq]
    exact le16_value o.tag
  · rw [orderBytes_eq, if_neg hs, if_neg hs]
    rfl
  · refine congrArg _ ((request_accepted ha 51 _).trans ?_)
    rw [boxLogRead, findEntry, he]
    rfl
  · have hfind : findEntry s (BitVec.ofNat 32 (u32 args 0)) = none := by
      simpa [findEntry] using hnone
    refine congrArg _ ((request_accepted ha 51 _).trans ?_)
    rw [boxLogRead, hfind]
    rfl

end Sys2Proof.Reads
end

section
/-! SUPPORT. Frames that the touched fields do not tell: the snapshot buffer beside the live counters (10 R165, R166) and the
pending reset beside the run state. -/

namespace Sys2Proof.Removal

open Sys2Proof.Machine Sys2Proof.Changes

set_option Elab.async false

variable {s t u : State}

/-- Of the Counter Bank only the live counters have changed. -/
def LiveOnly (s t : State) : Prop := t.counters = { s.counters with live := t.counters.live }

theorem liveOnly_of_eq (h : t.counters = s.counters) : LiveOnly s t := by
  unfold LiveOnly
  rw [h]

theorem liveOnly_of_touches {fs : List StateField} (h : Touches fs s t) (hf : StateField.counters ∉ fs) : LiveOnly s t :=
  liveOnly_of_eq (h _ hf)

theorem liveOnly_trans (h : LiveOnly s t) (k : LiveOnly t u) : LiveOnly s u := by
  unfold LiveOnly at *
  rw [k, h]

theorem liveOnly_count (c : Counter) (s : State) : LiveOnly s (count c s) := rfl

theorem liveOnly_countAll (cs : List Counter) (s : State) : LiveOnly s (countAll cs s) := by
  induction cs generalizing s with
  | nil => rfl
  | cons c cs ih => exact liveOnly_trans (liveOnly_count c s) (ih (count c s))

/-- A record leaves the list: the list itself, its slot's reference, and the counters it is counted under (03 R50). -/
def unlisted (r : Record) (cs : List Counter) (s : State) : State :=
  countAll cs (refDown r.slot
    { s with track := { s.track with records := s.track.records.eraseP (fun x => x.seq == r.seq) } })

/-- The applications, measurements, entry and pending events of a record that has left end (05 R87, 06 R108, 08 R138). -/
def unserved (q : U32) (s : State) : State := withdraw (deliveryEventOf q) (removalInsp q (removalApp q s))

theorem removeRecord_eq (r : Record) (cs : List Counter) (s : State) :
    removeRecord r cs s = drainTest (completionTest r.tag (unserved r.seq (unlisted r cs s))) := rfl

theorem unlisted_touches (r : Record) (cs : List Counter) (s : State) :
    Touches [.track, .store, .counters] s (unlisted r cs s) := by
  have hlist : Touches [.track] s
      { s with track := { s.track with records := s.track.records.eraseP (fun x => x.seq == r.seq) } } := by
    intro f hf; cases f <;> first | exact absurd (by decide) hf | rfl
  exact (hlist.andThen (hs := [.track, .store]) (refDown_touches _ _) (by decide) (by decide)).andThen
    (countAll_touches cs _) (by decide) (by decide)

theorem unserved_touches (q : U32) (s : State) : Touches [.pos, .app, .insp] s (unserved q s) :=
  ((removalApp_touches q s).andThen (hs := [.pos, .app, .insp]) (removalInsp_touches q _) (by decide) (by decide)).trans
    ((withdraw_touches _ _).mono (by decide))

theorem liveOnly_unlisted (r : Record) (cs : List Counter) (s : State) : LiveOnly s (unlisted r cs s) :=
  liveOnly_countAll cs _

theorem liveOnly_removeRecord (r : Record) (cs : List Counter) (s : State) : LiveOnly s (removeRecord r cs s) :=
  liveOnly_trans (liveOnly_unlisted r cs s) (liveOnly_trans (liveOnly_of_touches (unserved_touches r.seq _) (by decide))
    (liveOnly_trans (liveOnly_of_touches (completionTest_touches r.tag _) (by decide))
      (liveOnly_of_touches (drainTest_touches _) (by decide))))

theorem liveOnly_closeWindow (s : State) : LiveOnly s (closeWindow s) := by
  unfold closeWindow
  split
  · split
    · rfl
    · unfold closeCapture
      split
      · dsimp only
        split <;> rfl
      · rfl
  · rfl

theorem respects_liveOnly : RespectsEnds LiveOnly where
  refl _ := rfl
  trans := liveOnly_trans
  offer n s := liveOnly_of_touches (offer_touches n s) (by decide)
  count := liveOnly_count
  withdraw p s := rfl
  unschedule _ _ := rfl
  switchTo src s := liveOnly_of_touches (switchTo_touches src s) (by decide)
  armWindow p s := liveOnly_of_touches (armWindow_touches p s) (by decide)
  closeWindow := liveOnly_closeWindow
  amendRecord _ _ _ _ := rfl
  modifyChannel _ _ _ _ := rfl
  setBlanks _ _ := rfl
  modifyInsp _ _ _ _ := rfl
  mapOrders _ _ _ := rfl
  setFeed _ _ _ := rfl
  setFeedGate _ _ := rfl
  removeOrder _ _ := rfl
  refDown _ _ := rfl
  setDeliv _ _ _ := rfl
  logBox _ _ _ := rfl
  report f s := liveOnly_of_touches (report_touches f s) (by decide)
  removeRecord := liveOnly_removeRecord
  schedule _ _ _ := rfl

end Sys2Proof.Removal
end

section
/-! SUPPORT. The Register Unit: corrections, window closes and switch events (chapter 04). -/

namespace Sys2Proof.RegisterRules

open Sys2Proof.Machine Sys2Proof.Overlay Sys2Proof.Ledger Sys2Proof.Removal

set_option Elab.async false

variable {s t u : State}

/-! ## The correction step -/

theorem roundAway_near (n : Int) : (256 * roundAway n 256 - n).natAbs ≤ 128 ∧
    ((256 * roundAway n 256 - n).natAbs = 128 → n.natAbs ≤ (256 * roundAway n 256).natAbs) := by
  unfold roundAway
  split <;> omega

theorem roundAway_le (n : Int) (h : n.natAbs ≤ 900 * 256) : (roundAway n 256).natAbs ≤ 900 := by
  unfold roundAway
  split <;> omega

theorem clampTo_le (limit : Nat) (x : Int) : (clampTo limit x).natAbs ≤ limit := by unfold clampTo; omega

theorem clampTo_inside {limit : Nat} {x : Int} (h : x.natAbs ≤ limit) : clampTo limit x = x := by unfold clampTo; omega

theorem clampTo_above {limit : Nat} {x : Int} (h : (limit : Int) < x) : clampTo limit x = limit := by unfold clampTo; omega

theorem clampTo_below {limit : Nat} {x : Int} (h : x < -(limit : Int)) : clampTo limit x = -(limit : Int) := by
  unfold clampTo
  omega

/-- Settles O35. -/
theorem correctionStep : Obligations.CorrectionStep := by
  refine ⟨fun d gain => ⟨(roundAway_near _).1, (roundAway_near _).2, fun hd hg => roundAway_le _ ?_⟩,
    fun smax => ⟨rfl, rfl, rfl, rfl⟩, fun g st t d => ⟨?_, fun h => ?_, fun h => ?_, fun h => ?_⟩⟩
  · rw [Int.natAbs_mul, Int.natAbs_natCast]
    exact Nat.mul_le_mul hd hg
  · rw [trimSum, add_sub_cancel_left]
    exact clampTo_le _ _
  · rw [trimSum, clampTo_inside h]
  · rw [trimSum, clampTo_above h]
  · rw [trimSum, clampTo_below h]
    rfl

/-! ## Window events -/

theorem exec_fired (e : Recurring) (hh : s.resetHeld = false) : exec (firedCommand e) s = .next (takeCommanded e s) := by
  rw [Ledger.exec_firedCommand, event_free hh]

theorem movedUnit_kept (g : RegisterSettings) (c : Option Bool) (r : RegisterUnit) :
    (movedUnit g c r).trim = r.trim ∧ (movedUnit g c r).window = r.window ∧ (movedUnit g c r).last = r.last ∧
    (movedUnit g c r).source = r.source := by
  unfold movedUnit
  split <;> first | exact ⟨rfl, rfl, rfl, rfl⟩ | (split <;> exact ⟨rfl, rfl, rfl, rfl⟩)

/-- What a window close with a capture makes of the Register Unit. -/
def corrected (g : RegisterSettings) (w : CaptureWindow) (c : Nat) (r : RegisterUnit) : RegisterUnit :=
  { movedUnit g (some (!decide (g.tol < ((c : Int) - w.m).natAbs))) r with
    trim := clampTo g.tlim (trimSum g r.state r.trim ((c : Int) - w.m))
    last := some ⟨w.pitch, (c : Int) - w.m, decide (g.tol < ((c : Int) - w.m).natAbs)⟩
    window := none }

theorem closeCapture_some (g : RegisterSettings) {w : CaptureWindow} {c : Nat} (hc : w.capture = some c) (s : State) :
    closeCapture g w s = if clampTo g.tlim (trimSum g s.reg.state s.reg.trim ((c : Int) - w.m)) =
        trimSum g s.reg.state s.reg.trim ((c : Int) - w.m) then { s with reg := corrected g w c s.reg }
      else count .trimClamped { s with reg := corrected g w c s.reg } := by
  unfold closeCapture
  rw [hc]
  rfl

theorem closeCapture_none (g : RegisterSettings) {w : CaptureWindow} (hc : w.capture = none) (s : State) :
    closeCapture g w s = count .marksMissing { s with reg := { movedUnit g none s.reg with window := none } } := by
  unfold closeCapture
  rw [hc]

theorem closeWindow_open {w : CaptureWindow} {g : RegisterSettings} (hw : s.reg.window = some w)
    (hg : sectionInForce s = some g) (ho : s.reg.state ≠ .off) : closeWindow s = closeCapture g w s := by
  unfold closeWindow
  rw [hw, hg]
  exact if_neg ho

theorem closeWindow_ignored (h : s.reg.window = none ∨ sectionInForce s = none) : closeWindow s = s := by
  unfold closeWindow
  rcases h with h | h <;> rw [h]
  cases s.reg.window <;> rfl

theorem closeWindow_frame (u : State) : closeWindow u =
    { u with reg := (closeWindow u).reg, counters := { u.counters with live := (closeWindow u).counters.live } } := by
  have hlive := respects_liveOnly.closeWindow u
  unfold LiveOnly at hlive
  rw [← hlive]
  exact frame_of_touches (closeWindow_touches u)

/-- A taken window close on an open window under a section in force. -/
theorem exec_windowClose {x : Pos} (hh : s.resetHeld = false) (hu : takeFired .windowClose s = some (x, u)) :
    exec .windowClose s = .next (closeWindow u) := by
  refine congrArg _ ((event_free hh _).trans ?_)
  unfold windowClose
  rw [hu]

theorem exec_captureArm {x : Pos} (hh : s.resetHeld = false) (hu : takeFired .captureArm s = some (x, u)) :
    exec .captureArm s = .next (armWindow (posPitch x) u) := by
  refine congrArg _ ((event_free hh _).trans ?_)
  unfold captureArm
  rw [hu]

theorem closeCapture_reg (g : RegisterSettings) {w : CaptureWindow} {c : Nat} (hc : w.capture = some c) (s : State) :
    (closeCapture g w s).reg = corrected g w c s.reg := by
  rw [closeCapture_some g hc]
  split <;> rfl

theorem counter_closeCapture (g : RegisterSettings) {w : CaptureWindow} {c : Nat} (hc : w.capture = some c) (s : State)
    (k : Counter) : counter (closeCapture g w s) k = counter s k + (if k = .trimClamped ∧
      clampTo g.tlim (trimSum g s.reg.state s.reg.trim ((c : Int) - w.m)) ≠ trimSum g s.reg.state s.reg.trim ((c : Int) - w.m)
      then 1#32 else 0#32) := by
  rw [closeCapture_some g hc]
  split
  · next h => rw [if_neg (fun hk => hk.2 h), BitVec.add_zero]; rfl
  · next h =>
    rw [counter_count]
    by_cases hk : k = .trimClamped
    · rw [if_pos hk, if_pos ⟨hk, h⟩]; rfl
    · rw [if_neg hk, if_neg (fun hk' => hk hk'.1), BitVec.add_zero]; rfl

theorem takeFired_touches {e : Recurring} {x : Pos} (h : takeFired e s = some (x, u)) : Touches [.pos] s u := by
  obtain ⟨_, rfl⟩ := takeFired_some h
  intro f hf; cases f <;> first | exact absurd (by decide) hf | rfl

theorem sectionOf_congr (h : t.store = s.store) (src : Option (Fin 8)) : sectionOf t src = sectionOf s src := by
  unfold sectionOf recipeOf
  rw [h]

theorem sectionInForce_congr (hr : t.reg = s.reg) (h : t.store = s.store) : sectionInForce t = sectionInForce s := by
  unfold sectionInForce
  rw [hr, sectionOf_congr h]

theorem counter_congr (h : t.counters = s.counters) (k : Counter) : counter t k = counter s k := by
  unfold counter
  rw [h]

/-- Settles O33: the close is `corrected`, case by case over state and tolerance. -/
theorem windowCloseWithCapture : Obligations.WindowCloseWithCapture := by
  intro s u x w g c hh hu hw hc hg ho
  have htaken := takeFired_touches hu
  have hureg : u.reg = s.reg := htaken.reg
  have hclose : closeWindow u = closeCapture g w u := closeWindow_open (hureg ▸ hw)
    ((sectionInForce_congr hureg htaken.store).trans hg) (hureg ▸ ho)
  have hreg : (closeWindow u).reg = corrected g w c s.reg := by rw [hclose, closeCapture_reg g hc, hureg]
  have hcount (k : Counter) : counter (closeWindow u) k = counter s k + (if k = .trimClamped ∧ clampTo g.tlim
      (trimSum g s.reg.state s.reg.trim ((c : Int) - w.m)) ≠ trimSum g s.reg.state s.reg.trim ((c : Int) - w.m)
      then 1#32 else 0#32) := by
    rw [hclose, counter_closeCapture g hc, hureg, counter_congr htaken.counters]
  have hframe := closeWindow_frame u
  have hucount : u.counters = s.counters := htaken.counters
  refine ⟨_, exec_windowClose hh hu, ?_, ?_, ?_, ?_, ?_, fun k hk => ?_, fun hin => ?_, fun hout => ?_, ?_⟩
  · rw [hreg]; rfl
  · rw [hreg]; rfl
  · rw [hreg]; exact (movedUnit_kept g _ s.reg).2.2.2
  · rw [hreg]; rfl
  · have htrim : (corrected g w c s.reg).trim = clampTo g.tlim (trimSum g s.reg.state s.reg.trim ((c : Int) - w.m)) := rfl
    rw [hreg, hcount, htrim]
    by_cases h : clampTo g.tlim (trimSum g s.reg.state s.reg.trim ((c : Int) - w.m)) =
        trimSum g s.reg.state s.reg.trim ((c : Int) - w.m)
    · rw [if_neg (fun h' => h'.2 h), if_pos h]
    · rw [if_pos ⟨rfl, h⟩, if_neg h]
  · rw [hcount, if_neg (fun h => hk h.1), BitVec.add_zero]
  · rw [hreg, corrected, decide_eq_false (Nat.not_lt.mpr hin)]
    refine ⟨fun h => ?_, fun h => ?_, fun h => ?_, fun h => ?_⟩
    · simp only [movedUnit, h, Bool.not_false]
      split <;> exact ⟨rfl, rfl, rfl, rfl⟩
    · simp only [movedUnit, h, Bool.not_false, and_self]
    · simp only [movedUnit, h, Bool.not_false, and_self]
    · simp only [movedUnit, h, Bool.not_false]
      split <;> exact ⟨rfl, rfl, rfl, rfl⟩
  · rw [hreg, corrected, decide_eq_true hout]
    refine ⟨fun h => ?_, fun h => ?_, fun h => ?_, fun h => ?_⟩
    · simp only [movedUnit, h, Bool.not_true, and_self]
    · simp only [movedUnit, h, Bool.not_true]
      split <;> exact ⟨rfl, rfl, rfl, rfl⟩
    · simp only [movedUnit, h, Bool.not_true]
      split <;> exact ⟨rfl, rfl, rfl, rfl⟩
    · simp only [movedUnit, h, Bool.not_true, and_self]
  · rw [← hucount]
    exact hframe

theorem armWindow_none (h : sectionInForce s = none) (p : U32) : armWindow p s = s := by
  unfold armWindow
  rw [h]

theorem armWindow_some {g : RegisterSettings} (h : sectionInForce s = some g) (p : U32) : armWindow p s =
    { s with reg := { s.reg with window := some ⟨p, posSub (posAt p g.m) g.w, posAt p (g.m + g.w), g.m, g.w,
      g.markLine, none⟩ } } := by
  unfold armWindow
  rw [h]

/-- Settles O34: the arm, and the close without a capture, case by case over the state. -/
theorem captureArmAndEmptyClose : Obligations.CaptureArmAndEmptyClose := by
  refine ⟨fun s u x hh hu => ⟨fun hg => ?_, fun g hg => ?_⟩, fun s u x hh hu => ⟨fun h => ?_, fun w g hw hc hg ho => ?_⟩⟩
  · rw [exec_captureArm hh hu, armWindow_none]
    rw [sectionInForce_congr (takeFired_touches hu).reg (takeFired_touches hu).store, hg]
  · rw [exec_captureArm hh hu, armWindow_some]
    rw [sectionInForce_congr (takeFired_touches hu).reg (takeFired_touches hu).store, hg]
  · rw [exec_windowClose hh hu, closeWindow_ignored]
    rwa [sectionInForce_congr (takeFired_touches hu).reg (takeFired_touches hu).store, (takeFired_touches hu).reg]
  · have htaken := takeFired_touches hu
    have hureg : u.reg = s.reg := htaken.reg
    have hclose : closeWindow u = count .marksMissing { u with reg := { movedUnit g none u.reg with window := none } } :=
      (closeWindow_open (hureg ▸ hw) ((sectionInForce_congr hureg htaken.store).trans hg) (hureg ▸ ho)).trans
        (closeCapture_none g hc u)
    have hreg : (closeWindow u).reg = { movedUnit g none s.reg with window := none } := by rw [hclose, ← hureg]; rfl
    have hcount (k : Counter) : counter (closeWindow u) k =
        if k = .marksMissing then counter s k + 1#32 else counter s k := by
      rw [hclose, counter_count, ← counter_congr htaken.counters]
      rfl
    have hframe := closeWindow_frame u
    have hucount : u.counters = s.counters := htaken.counters
    refine ⟨_, exec_windowClose hh hu, ?_, fun k hk => ?_, ?_, ?_, ?_, ?_, ?_, ?_, by rw [← hucount]; exact hframe⟩
    · rw [hcount, if_pos rfl]
    · rw [hcount, if_neg hk]
    all_goals rw [hreg]; intro h
    · simp only [movedUnit, h]
    · intro hk; simp only [movedUnit, h, if_neg hk]
    · intro hk; simp only [movedUnit, h, if_pos hk]
    · intro hk; simp only [movedUnit, h, if_neg hk]
    · intro hk; simp only [movedUnit, h, if_pos hk]
    · simp only [movedUnit, h]

/-! ## Switch events -/

theorem sameGeometry_iff (a b : RegisterSettings) : sameGeometry a b = true ↔ a.m = b.m ∧ a.w = b.w ∧ a.markLine = b.markLine := by
  simp [sameGeometry, and_assoc]

theorem switchTo_reg (src : Option (Fin 8)) (s : State) :
    (switchTo src s).reg = { switchedUnit (sectionInForce s) (sectionOf s src) s.reg with source := src } := by
  unfold switchTo
  dsimp only
  split <;> rfl

theorem switchTo_due (src : Option (Fin 8)) (s : State) : (switchTo src s).pos.due =
    if keepsWindowEvents (sectionInForce s) (sectionOf s src) then s.pos.due
    else s.pos.due.filter (fun f => decide (f.event ≠ .captureArm ∧ f.event ≠ .windowClose)) := by
  have hp : (fun f : Fired => !isWindowEvent f.event) = (fun f => decide (f.event ≠ .captureArm ∧ f.event ≠ .windowClose)) := by
    funext f
    cases f.event <;> rfl
  unfold switchTo
  dsimp only
  split
  · rfl
  · rw [← hp]
    rfl

theorem switchTo_frame (src : Option (Fin 8)) (s : State) : switchTo src s =
    { s with reg := (switchTo src s).reg, pos := { s.pos with due := (switchTo src s).pos.due } } := by
  unfold switchTo
  dsimp only
  split <;> rfl

theorem switchedUnit_kept (a b : Option RegisterSettings) (r : RegisterUnit) :
    (switchedUnit a b r).trim = r.trim ∧ (switchedUnit a b r).last = r.last := by
  unfold switchedUnit
  split
  · exact ⟨rfl, rfl⟩
  · exact ⟨rfl, rfl⟩
  · exact ⟨rfl, rfl⟩
  · split <;> exact ⟨rfl, rfl⟩

theorem keepsWindowEvents_other {a b : Option RegisterSettings} (h : a = none ∨ b = none ∨ (∃ x y, a = some x ∧ b = some y ∧
    (x.m ≠ y.m ∨ x.w ≠ y.w ∨ x.markLine ≠ y.markLine))) : keepsWindowEvents a b = false := by
  rcases h with rfl | rfl | ⟨x, y, rfl, rfl, h⟩
  · rfl
  · cases a <;> rfl
  · rw [keepsWindowEvents, Bool.eq_false_iff]
    intro hs
    obtain ⟨hm, hw, hl⟩ := (sameGeometry_iff x y).mp hs
    rcases h with h | h | h <;> contradiction

theorem activeOrder_iff (s : State) (o : Order) : activeOrder s = some o ↔ ∃ before behind,
    s.orders.list = before ++ o :: behind ∧ o.state = .active ∧ ∀ y, y ∈ before → y.state ≠ .active := by
  rw [activeOrder, List.find?_eq_some_iff_append]
  simp only [beq_iff_eq, Bool.not_eq_true', beq_eq_false_iff_ne]
  exact ⟨fun ⟨ho, b, c, hl, hb⟩ => ⟨b, c, hl, ho, hb⟩, fun ⟨b, c, hl, ho, hb⟩ => ⟨ho, b, c, hl, hb⟩⟩

/-- Settles O36. -/
theorem switchEvent : Obligations.SwitchEvent := by
  refine ⟨fun src s => ⟨?_, ?_, ?_, fun a ha hb => ?_, fun b ha hb => ?_, fun a b ha hb => ⟨fun hne => ?_, fun hm hw hl => ?_⟩,
    fun ha hb => ?_, switchTo_frame src s, fun a b ha hb hm hw hl => ?_, fun h => ?_, fun h => ?_, fun h => ?_⟩,
    fun s o => ⟨activeOrder_iff s o, fun h => ?_, fun h hn => ?_, fun h hn => ?_⟩, fun s k => ⟨rfl, rfl, rfl⟩⟩
  · rw [switchTo_reg]
  · rw [switchTo_reg]; exact (switchedUnit_kept _ _ _).1
  · rw [switchTo_reg]; exact (switchedUnit_kept _ _ _).2
  · rw [switchTo_reg, ha, hb]; rfl
  · rw [switchTo_reg, ha, hb]; rfl
  · have hgeo : sameGeometry a b = false := keepsWindowEvents_other (.inr (.inr ⟨a, b, rfl, rfl, hne⟩))
    simp only [switchTo_reg, ha, hb, switchedUnit, hgeo]
    rfl
  · have hgeo : sameGeometry a b = true := (sameGeometry_iff a b).mpr ⟨hm, hw, hl⟩
    simp only [switchTo_reg, ha, hb, switchedUnit, hgeo]
    rfl
  · rw [switchTo_reg, ha, hb]; rfl
  · have hgeo : keepsWindowEvents (some a) (some b) = true := (sameGeometry_iff a b).mpr ⟨hm, hw, hl⟩
    rw [switchTo_due, ha, hb, hgeo, if_pos rfl]
  · rw [switchTo_due, keepsWindowEvents_other h, if_neg Bool.false_ne_true]
  · exact if_pos h
  · exact if_neg h
  · rw [wantedSource, h]
  · rw [wantedSource, h, hn]; rfl
  · rw [wantedSource, h, hn]; rfl

end Sys2Proof.RegisterRules
end

section
/-! SUPPORT. Events taken at the stations: applications, inspections and the ends of outputs (chapters 05, 06 and 08). -/

namespace Sys2Proof.StationRules

open Sys2Proof.Machine Sys2Proof.Overlay Sys2Proof.Passes Sys2Proof.Ledger Sys2Proof.Removal Sys2Proof.RegisterRules

set_option Elab.async false

variable {s t u : State}

/-! ## Taking an event -/

theorem erase_middle {α : Type} [DecidableEq α] {before behind : List α} {p : α} (h : p ∉ before) :
    (before ++ p :: behind).erase p = before ++ behind := by
  rw [List.erase_append_right _ h, List.erase_cons_head]

theorem takeScheduled_iff (e : Scheduled) (s u : State) (p : Pending) : takeScheduled e s = some (p, u) ↔
    ∃ before behind, s.pos.schedule = before ++ p :: behind ∧ p.event = e ∧ posDist s.pos.hwm p.pos ≤ 0 ∧
      (∀ y, y ∈ before → y.event = e → 0 < posDist s.pos.hwm y.pos) ∧
      u = { s with pos := { s.pos with schedule := before ++ behind } } := by
  have hpred (q : Pending) : (q.event == e && isDue s.pos.hwm q) = true ↔ q.event = e ∧ posDist s.pos.hwm q.pos ≤ 0 := by
    simp [isDue]
  constructor
  · intro h
    unfold takeScheduled at h
    split at h
    · cases h
    next q hq =>
      obtain ⟨rfl, rfl⟩ : q = p ∧ { s with pos := { s.pos with schedule := s.pos.schedule.erase q } } = u := by simpa using h
      obtain ⟨hp, before, behind, hl, hb⟩ := List.find?_eq_some_iff_append.mp hq
      obtain ⟨he, hd⟩ := (hpred q).mp hp
      have hbefore (y) (hy : y ∈ before) (hye : y.event = e) : 0 < posDist s.pos.hwm y.pos := by
        by_contra hle
        have hno := hb y hy
        rw [(hpred y).mpr ⟨hye, not_lt.mp hle⟩] at hno
        cases hno
      have hq' : q ∉ before := fun hmem => absurd (hbefore q hmem he) (not_lt.mpr hd)
      exact ⟨before, behind, hl, he, hd, hbefore, by rw [hl, erase_middle hq']⟩
  · rintro ⟨before, behind, hl, he, hd, hb, rfl⟩
    have hfind : s.pos.schedule.find? (fun q => q.event == e && isDue s.pos.hwm q) = some p := by
      refine List.find?_eq_some_iff_append.mpr ⟨(hpred p).mpr ⟨he, hd⟩, before, behind, hl, fun y hy => ?_⟩
      rw [Bool.not_eq_true', Bool.eq_false_iff]
      intro hy'
      obtain ⟨hye, hyd⟩ := (hpred y).mp hy'
      exact absurd (hb y hy hye) (not_lt.mpr hyd)
    have hp : p ∉ before := fun hmem => absurd (hb p hmem he) (not_lt.mpr hd)
    have herase : s.pos.schedule.erase p = before ++ behind := by rw [hl, erase_middle hp]
    unfold takeScheduled
    rw [hfind, ← herase]

theorem takeFired_iff (e : Recurring) (s u : State) (x : Pos) : takeFired e s = some (x, u) ↔
    ∃ before behind, s.pos.due = before ++ ⟨e, x⟩ :: behind ∧ (∀ y, y ∈ before → y.event ≠ e) ∧
      u = { s with pos := { s.pos with due := before ++ behind } } := by
  constructor
  · intro h
    unfold takeFired at h
    split at h
    · cases h
    next q hq =>
      obtain ⟨rfl, rfl⟩ : q.pos = x ∧ { s with pos := { s.pos with due := s.pos.due.erase q } } = u := by simpa using h
      obtain ⟨hp, before, behind, hl, hb⟩ := List.find?_eq_some_iff_append.mp hq
      have he : q.event = e := by simpa using hp
      have hbefore (y) (hy : y ∈ before) : y.event ≠ e := by simpa using hb y hy
      have hq' : q ∉ before := fun hmem => hbefore q hmem he
      subst he
      exact ⟨before, behind, hl, hbefore, by rw [hl, erase_middle hq']⟩
  · rintro ⟨before, behind, hl, hb, rfl⟩
    have hfind : s.pos.due.find? (fun q => q.event == e) = some ⟨e, x⟩ :=
      List.find?_eq_some_iff_append.mpr ⟨by simp, before, behind, hl, fun y hy => by simpa using hb y hy⟩
    have hp : (⟨e, x⟩ : Fired) ∉ before := fun hmem => hb _ hmem rfl
    have herase : s.pos.due.erase ⟨e, x⟩ = before ++ behind := by rw [hl, erase_middle hp]
    unfold takeFired
    rw [hfind, ← herase]

theorem posDist_bounds (x y : Pos) : (posDist x y - ((y.val : Int) - x.val)) % 15461882265600 = 0 ∧
    -7730941132800 ≤ posDist x y ∧ posDist x y < 7730941132800 := by
  have hx := x.isLt
  have hy := y.isLt
  unfold posDist
  rw [Fin.sub_def]
  dsimp only
  split <;> omega

theorem exec_scheduled (z : Int) (e : Scheduled) (hh : s.resetHeld = false) :
    exec (dueCommand z e) s = .next (takeCommandedDue z e s) := by
  rw [exec_dueCommand, event_free hh]

theorem takeScheduled_touches {e : Scheduled} {p : Pending} (h : takeScheduled e s = some (p, u)) : Touches [.pos] s u := by
  obtain ⟨_, _, _, rfl⟩ := takeScheduled_some h
  intro f hf; cases f <;> first | exact absurd (by decide) hf | rfl

theorem exec_taken {z : Int} {e : Scheduled} {p : Pending} (hh : s.resetHeld = false) (h : takeScheduled e s = some (p, u)) :
    exec (dueCommand z e) s = .next (firePending { p with event := e } z u) := by
  rw [exec_scheduled z e hh, takeCommandedDue, h]

theorem exec_firing {e : Recurring} {x : Pos} (hh : s.resetHeld = false) (h : takeFired e s = some (x, u)) :
    exec (firedCommand e) s = .next (fireRecurring e x u) := by
  rw [exec_fired e hh, takeCommanded, h]

theorem event_none {g : State → State} (h : g s = s) : event g s = s := by
  unfold event
  split
  · rfl
  · exact h

/-! ## Ends of outputs -/

theorem judgeOff_serving {q : U32} {k : Fin 12} {i dot : Nat} {v : Serving} (h : (getAt s.app.channels k).serving = some v) :
    judgeOff q k i dot s = if v.seq = q ∧ v.entry = i ∧ v.dot = dot then idleChannel k s else s := by
  unfold judgeOff
  rw [h]

theorem judgeOff_other {q : U32} {k : Fin 12} {i dot : Nat}
    (h : ∀ v, (getAt s.app.channels k).serving = some v → v.seq ≠ q ∨ v.entry ≠ i ∨ v.dot ≠ dot) : judgeOff q k i dot s = s := by
  cases hv : (getAt s.app.channels k).serving with
  | none => unfold judgeOff; rw [hv]
  | some v =>
    rw [judgeOff_serving hv]
    refine if_neg fun ⟨hq, hi, hd⟩ => ?_
    rcases h v hv with h | h | h <;> contradiction

/-- Settles O38: the events that end an output, and which events can be taken. -/
theorem outputsEnd : Obligations.OutputsEnd := by
  refine ⟨fun q k i dot s u p hh hu => ⟨fun v hv hq hi hd => ?_, fun h => ?_⟩, fun s u p hh => ⟨fun hu => ?_, fun hu => ?_⟩,
    takeScheduled_iff, takeFired_iff, posDist_bounds, fun s => ⟨fun e h => ?_, fun e r h => ?_⟩⟩
  · rw [← (takeScheduled_touches hu).app] at hv
    exact (exec_taken (z := 0) hh hu).trans (congrArg _ ((judgeOff_serving hv).trans (if_pos ⟨hq, hi, hd⟩)))
  · rw [← (takeScheduled_touches hu).app] at h
    exact (exec_taken (z := 0) hh hu).trans (congrArg _ (judgeOff_other h))
  · exact exec_taken (z := 0) hh hu
  · exact exec_taken (z := 0) hh hu
  · rw [exec_firedCommand, event_none]
    rw [takeCommanded, h]
  · rw [exec_dueCommand, event_none]
    rw [takeCommandedDue, h]

/-! ## Watches and windows that open -/

theorem watchOpenAt_closed {j : Fin 8} (h : isPresence s j = false ∨ s.line.run = .idle) (p : U32) : watchOpenAt j p s = s := by
  unfold watchOpenAt
  rcases h with h | h <;> simp [h]

theorem watchOpenAt_opens {j : Fin 8} (h : isPresence s j = true) (hr : s.line.run ≠ .idle) (p : U32) : watchOpenAt j p s =
    { s with insp := put s.insp j { inspChannel s j with watch := some ⟨p, digitalRead s (inspOf s j).line⟩ } } := by
  unfold watchOpenAt
  rw [h, if_pos (by simpa using hr)]
  rfl

theorem openMeasurement_some {j : Fin 8} {q : U32} {r : Record} (h : findRecord s q = some r) (x : Pos) :
    openMeasurement j q x s = { s with insp := put s.insp j { inspChannel s j with
      measurement := some ⟨q, r.cutPitch, x,
        posAt (r.cutPitch + BitVec.ofNat 32 (inspOf s j).station) (settingOf s r j).off, 0,
        if digitalRead s (inspOf s j).line && (inspOf s j).kind == .span then some x else none⟩ } } := by
  unfold openMeasurement
  rw [h]
  rfl

/-! ## What a derived quantity reads -/

theorem inspOf_congr (h : t.store = s.store) (j : Fin 8) : inspOf t j = inspOf s j := by rw [inspOf, h]; rfl

theorem isPresence_congr (h : t.store = s.store) (j : Fin 8) : isPresence t j = isPresence s j := by
  rw [isPresence, inspOf_congr h]; rfl

theorem settingOf_congr (h : t.store = s.store) (r : Record) (j : Fin 8) : settingOf t r j = settingOf s r j := by
  rw [settingOf, recipeOf, h]; rfl

theorem inspChannel_congr (h : t.insp = s.insp) (j : Fin 8) : inspChannel t j = inspChannel s j := by rw [inspChannel, h]; rfl

theorem digitalRead_congr (h : t.lines = s.lines) (l : Fin 16) : digitalRead t l = digitalRead s l := by
  rw [digitalRead, h]; rfl

theorem findRecord_congr (h : t.track = s.track) (q : U32) : findRecord t q = findRecord s q := by rw [findRecord, h]; rfl

/-- Settles O39. -/
theorem inspectionOpens : Obligations.InspectionOpens := by
  refine ⟨fun j s u x hh hu => ?_, fun j q s u p r hh hu hr => ?_⟩
  · have hpos := takeFired_touches hu
    have hpresence : isPresence u j = isPresence s j := isPresence_congr hpos.store j
    have hline : u.line = s.line := hpos.line
    rw [← hpresence, ← hline, ← inspChannel_congr hpos.insp, ← inspOf_congr hpos.store, ← digitalRead_congr hpos.lines]
    exact ⟨fun h => (exec_firing hh hu).trans (congrArg _ (watchOpenAt_closed (.inl h) _)),
      fun h => (exec_firing hh hu).trans (congrArg _ (watchOpenAt_closed (.inr h) _)),
      fun h hr => (exec_firing hh hu).trans (congrArg _ (watchOpenAt_opens h hr _))⟩
  · have hpos := takeScheduled_touches hu
    rw [← inspChannel_congr hpos.insp, ← inspOf_congr hpos.store, ← digitalRead_congr hpos.lines, ← settingOf_congr hpos.store]
    rw [← findRecord_congr hpos.track] at hr
    exact (exec_taken (z := 0) hh hu).trans (congrArg _ (openMeasurement_some hr _))

end Sys2Proof.StationRules
end

section
/-! SUPPORT. What an added defect gives up, on events, and measurements that complete (05 R83 to R86, 06 R104 to R109). -/

namespace Sys2Proof.BlankRules

open Sys2Proof.Machine Sys2Proof.Overlay Sys2Proof.Passes Sys2Proof.Ledger Sys2Proof.Removal Sys2Proof.RegisterRules
  Sys2Proof.StationRules

set_option Elab.async false

variable {s t u : State} {q : U32} {r : Record}

/-! ## Records amended -/

theorem seq_of_findRecord (h : findRecord s q = some r) : r.seq = q := by
  simpa using List.find?_some h

theorem amendRecord_track (q : U32) (f : Record → Record) (s : State) : (amendRecord q f s).track = amended s q f := rfl

theorem findRecord_amendRecord {f : Record → Record} (hf : ∀ x, (f x).seq = x.seq) (h : findRecord s q = some r) :
    findRecord (amendRecord q f s) q = some (f r) := by
  have hcomp : (fun x : Record => (if x.seq == q then f x else x).seq == q) = fun x => x.seq == q := by
    funext x
    split <;> simp [hf]
  show (s.track.records.map _).find? _ = _
  rw [List.find?_map]
  simp only [Function.comp_def, hcomp]
  rw [show s.track.records.find? (fun x => x.seq == q) = some r from h, Option.map_some, seq_of_findRecord h, beq_self_eq_true,
    if_pos rfl]

theorem amended_amended {f g : Record → Record} (hf : ∀ x, (f x).seq = x.seq) (h : t.track = amended s q f) :
    amended t q g = amended s q (fun x => g (f x)) := by
  have hcomp : (fun x => if x.seq == q then g x else x) ∘ (fun x => if x.seq == q then f x else x) =
      fun x => if x.seq == q then g (f x) else x := by
    funext x
    by_cases hx : x.seq = q <;> simp [hx, hf]
  unfold amended at *
  rw [h, List.map_map, hcomp]

/-! ## The hand-over of an added defect (05 R86) -/

theorem skipsEntry_eq (p : Recipe) (i : Nat) : skipsEntry p i = (p.cams[i]?).any CamEntry.skip := by
  unfold skipsEntry
  cases p.cams[i]? <;> rfl

theorem cutAt_congr {x : Record} (hs : t.store = s.store) (hq : x.seq = r.seq) (hd : x.defects = r.defects)
    (hl : x.slot = r.slot) : cutAt t x = cutAt s r := by
  have hreject : isRejectable t x = isRejectable s r := by
    simp only [isRejectable, rejectClasses, effectiveReject, recipeOf, hs, hd, hl]
  funext q i
  rw [cutAt, cutAt, hreject, hq, hl, recipeOf, recipeOf, hs]

theorem entriesCut_of_eq {cut : U32 → Nat → Bool} (happ : t.app = s.app) (hpos : t.pos = s.pos) (h : EntriesCut cut t u) :
    EntriesCut cut s u := by
  unfold EntriesCut at *
  rwa [happ, hpos] at h

theorem entriesCut_refl {cut : U32 → Nat → Bool} (h : ∀ q i, cut q i = false) (s : State) : EntriesCut cut s s := by
  refine ⟨fun k => ?_, ?_⟩
  · have hserving : (getAt s.app.channels k).serving.filter (fun v => !cut v.seq v.entry) = (getAt s.app.channels k).serving := by
      cases (getAt s.app.channels k).serving <;> simp [h]
    rw [hserving]
  · rw [List.filter_eq_self.mpr]
    intro e _
    cases e.event <;> simp [h]

theorem defectHandOver_cut (h : findRecord s q = some r) : EntriesCut (cutAt s r) s (defectHandOver q s) := by
  have hq := seq_of_findRecord h
  unfold defectHandOver
  rw [h]
  dsimp only
  by_cases hr : isRejectable s r = true
  · rw [if_pos hr]
    have hcut : cutAt s r = fun q' i => q' == q && skipsEntry (recipeOf s r.slot) i := by
      funext q' i
      rw [cutAt, hr, hq, Bool.and_true, skipsEntry_eq]
    refine ⟨fun k => ?_, ?_⟩
    · rw [channel_endApplications, hcut]
      rfl
    · rw [(endApplications_touches q _ _).pos, withdraw_pos, hcut]
      refine congrArg (fun l => { s.pos with schedule := l }) (List.filter_congr fun e _ => ?_)
      cases e.event <;> simp [appEventOf]
  · rw [if_neg hr]
    refine entriesCut_refl (fun q' i => ?_) s
    rw [cutAt, Bool.eq_false_iff.mpr hr]
    simp

theorem defectHandOver_blanks (q : U32) (s : State) : (defectHandOver q s).app.blanks = s.app.blanks := by
  unfold defectHandOver
  split
  · rfl
  · split
    · rw [blanks_endApplications]; rfl
    · rfl

/-- What a record gains with a defect class. -/
def withDefect (c : DefectClass) (x : Record) : Record := { x with defects := x.defects ||| oneDefect c }

theorem addDefect_found (c : DefectClass) (h : findRecord s q = some r) :
    addDefect q c s = defectHandOver q (amendRecord q (withDefect c) s) := by
  unfold addDefect
  rw [h]
  rfl

theorem addDefect_track (c : DefectClass) (h : findRecord s q = some r) :
    (addDefect q c s).track = amended s q (withDefect c) := by
  rw [addDefect_found c h, (defectHandOver_touches q _).track]
  rfl

theorem addDefect_cut (c : DefectClass) (h : findRecord s q = some r) :
    EntriesCut (cutAt s { r with defects := r.defects ||| oneDefect c }) s (addDefect q c s) := by
  have hfind : findRecord (amendRecord q (withDefect c) s) q = some (withDefect c r) :=
    findRecord_amendRecord (fun _ => rfl) h
  have hcut := defectHandOver_cut hfind
  rw [addDefect_found c h]
  exact entriesCut_of_eq rfl rfl hcut

theorem addDefect_blanks (c : DefectClass) (q : U32) (s : State) : (addDefect q c s).app.blanks = s.app.blanks := by
  unfold addDefect
  split
  · rfl
  · rw [defectHandOver_blanks]; rfl

/-! ## Measurements that complete (06 R107, R109) -/

theorem completeMeasurement_pass {j : Fin 8} {v : Nat} (h : within (settingOf s r j).low (settingOf s r j).high v = true) :
    completeMeasurement j r v s = modifyInsp j (fun c => { c with measurement := none })
      (makeResult j ⟨some r.seq, r.cutPitch, v, .pass⟩ (setValue r.seq j v s)) := by
  simp only [completeMeasurement, h, if_true]

theorem completeMeasurement_fail {j : Fin 8} {v : Nat} (h : within (settingOf s r j).low (settingOf s r j).high v = false) :
    completeMeasurement j r v s = modifyInsp j (fun c => { c with measurement := none })
      (makeResult j ⟨some r.seq, r.cutPitch, v, .fail⟩ (addDefect r.seq (settingOf s r j).cls (setValue r.seq j v s))) := by
  simp only [completeMeasurement, h, Bool.false_eq_true, if_false]

/-- The channel that completes a measurement. -/
theorem inspChannel_completed (j : Fin 8) (x : InspResult) (s : State) (j' : Fin 8) :
    inspChannel (modifyInsp j (fun c => { c with measurement := none }) (makeResult j x s)) j' =
      if j' = j then { inspChannel s j with
        measurement := none, ready := true, overrun := (inspChannel s j).overrun || (inspChannel s j).ready,
        result := some x } else inspChannel s j' := by
  rw [makeResult, inspChannel_modifyInsp, inspChannel_modifyInsp]
  by_cases hj : j' = j
  · subst hj
    simp
  · simp [hj]

/-- What a completed measurement leaves. -/
theorem completeMeasurement_spec (j : Fin 8) (v : Nat) (h : findRecord s q = some r) (ht : t = completeMeasurement j r v s) :
    t.track = amended s q (fun x => { x with
        values := put x.values j (some v),
        defects := if (settingOf s r j).low ≤ v ∧ v ≤ (settingOf s r j).high then x.defects
          else x.defects ||| oneDefect (settingOf s r j).cls }) ∧
    inspChannel t j = { inspChannel s j with
        measurement := none, ready := true, overrun := (inspChannel s j).overrun || (inspChannel s j).ready,
        result := some ⟨some q, r.cutPitch, v,
          if (settingOf s r j).low ≤ v ∧ v ≤ (settingOf s r j).high then .pass else .fail⟩ } ∧
    (∀ j', j' ≠ j → inspChannel t j' = inspChannel s j') ∧
    ((settingOf s r j).low ≤ v ∧ v ≤ (settingOf s r j).high → t.app = s.app ∧ t.pos = s.pos) ∧
    (v < (settingOf s r j).low ∨ (settingOf s r j).high < v →
      EntriesCut (cutAt s { r with defects := r.defects ||| oneDefect (settingOf s r j).cls }) s t) ∧
    t.app.blanks = s.app.blanks := by
  have hq := seq_of_findRecord h
  have hwithin : within (settingOf s r j).low (settingOf s r j).high v = true ↔
      (settingOf s r j).low ≤ v ∧ v ≤ (settingOf s r j).high := by simp [within]
  by_cases hok : (settingOf s r j).low ≤ v ∧ v ≤ (settingOf s r j).high
  · rw [completeMeasurement_pass (hwithin.mpr hok), hq] at ht
    subst ht
    simp only [if_pos hok]
    refine ⟨rfl, ?_, fun j' hj => ?_, fun _ => ⟨rfl, rfl⟩, fun hno => by omega, rfl⟩
    · rw [inspChannel_completed, if_pos rfl]
      rfl
    · rw [inspChannel_completed, if_neg hj]
      rfl
  · have hfind : findRecord (setValue q j v s) q = some { r with values := put r.values j (some v) } :=
      findRecord_amendRecord (fun _ => rfl) h
    have htouch := addDefect_touches q (settingOf s r j).cls (setValue q j v s)
    rw [completeMeasurement_fail (by rw [Bool.eq_false_iff]; exact fun hw => hok (hwithin.mp hw)), hq] at ht
    subst ht
    simp only [if_neg hok]
    refine ⟨?_, ?_, fun j' hj => ?_, fun hyes => absurd hyes hok, fun _ => ?_, addDefect_blanks _ _ _⟩
    · exact (addDefect_track _ hfind).trans (amended_amended (f := fun x => { x with values := put x.values j (some v) }) (fun _ => rfl) rfl)
    · rw [inspChannel_completed, if_pos rfl, inspChannel_congr htouch.insp]
      rfl
    · rw [inspChannel_completed, if_neg hj, inspChannel_congr htouch.insp]
      rfl
    · have hcut : cutAt (setValue q j v s) (withDefect (settingOf s r j).cls { r with values := put r.values j (some v) }) =
          cutAt s (withDefect (settingOf s r j).cls r) := cutAt_congr rfl rfl rfl rfl
      show EntriesCut (cutAt s (withDefect (settingOf s r j).cls r)) s _
      rw [← hcut]
      exact entriesCut_of_eq rfl rfl (addDefect_cut (settingOf s r j).cls hfind)

theorem endMeasurement_some {j : Fin 8} {m : Measurement} (hm : (inspChannel s j).measurement = some m) (hq : m.seq = q)
    (h : findRecord s q = some r) : endMeasurement j q s = completeMeasurement j r (finalValue m) s := by
  unfold endMeasurement
  rw [hm, h]
  exact if_pos hq

theorem sampleMeasurement_some {j : Fin 8} (h : findRecord s q = some r) (z : Int) :
    sampleMeasurement j q z s = completeMeasurement j r (analogRead s (inspOf s j).line z) s := by
  unfold sampleMeasurement
  rw [h]

theorem finalValue_eq (m : Measurement) : finalValue m =
    m.value + (match m.segment with | some b => (posDist b m.finish).toNat | none => 0) := by
  unfold finalValue
  cases m.segment <;> rfl

theorem analogRead_eq (s : State) (l : Fin 16) (z : Int) : analogRead s l z =
    if s.lines.modes.getLsbD l.val then (min (max z 0) 4095).toNat else if s.lines.levels.getLsbD l.val then 4095 else 0 := rfl

theorem pos_taken {e : Scheduled} {p : Pending} (hu : takeScheduled e s = some (p, u)) {l : List Pending}
    (ht : t.pos = { u.pos with schedule := l }) : t.pos = { s.pos with schedule := t.pos.schedule } := by
  obtain ⟨_, _, _, rfl⟩ := takeScheduled_some hu
  rw [ht]

theorem app_of_blanks (h : t.app.blanks = s.app.blanks) : t.app = { s.app with channels := t.app.channels } := by
  show t.app = ⟨t.app.channels, s.app.blanks⟩
  rw [← h]

/-- Settles O41: both events complete their measurement on the state without the event. -/
theorem measurementsComplete : Obligations.MeasurementsComplete := by
  intro j q reading s u p r v i hh hr hcase
  obtain ⟨e, hu, hexec⟩ : ∃ e, takeScheduled e s = some (p, u) ∧ exec i s = .next (completeMeasurement j r v u) := by
    rcases hcase with ⟨rfl, hu, m, hm, hq, rfl⟩ | ⟨rfl, hu, rfl⟩
    · have hpos := takeScheduled_touches hu
      rw [← findRecord_congr hpos.track] at hr
      rw [← inspChannel_congr hpos.insp] at hm
      exact ⟨_, hu, (exec_taken (z := 0) hh hu).trans ((congrArg _ (endMeasurement_some hm hq hr)).trans
        (congrArg (fun v => Host.Outcome.next (completeMeasurement j r v u)) (finalValue_eq m)))⟩
    · have hpos := takeScheduled_touches hu
      rw [← findRecord_congr hpos.track] at hr
      rw [← hpos.lines, ← inspOf_congr hpos.store, ← analogRead_eq]
      exact ⟨_, hu, (exec_taken (z := reading) hh hu).trans (congrArg _ (sampleMeasurement_some hr reading))⟩
  have hpos := takeScheduled_touches hu
  have hru : findRecord u q = some r := by rw [findRecord_congr hpos.track, hr]
  obtain ⟨htrack, hchannel, hothers, hpass, hcut, hblanks⟩ := completeMeasurement_spec j v hru rfl
  rw [settingOf_congr hpos.store] at htrack hchannel hpass hcut
  rw [inspChannel_congr hpos.insp] at hchannel
  refine ⟨_, hexec, ?_, hchannel, fun j' hj => (hothers j' hj).trans (inspChannel_congr hpos.insp j'), fun hok => ?_,
    fun hno => ?_, ?_⟩
  · rw [htrack, amended, hpos.track]
    rfl
  · rw [(hpass hok).1, hpos.app]
    exact ⟨rfl, (hpass hok).2⟩
  · rw [← cutAt_congr hpos.store (r := { r with defects := r.defects ||| oneDefect (settingOf s r j).cls }) rfl rfl rfl]
    exact hcut hno
  · have hsame : ∃ l, (completeMeasurement j r v u).pos = { u.pos with schedule := l } := by
      by_cases hok : (settingOf s r j).low ≤ v ∧ v ≤ (settingOf s r j).high
      · exact ⟨u.pos.schedule, (hpass hok).2⟩
      · exact ⟨_, (hcut (by omega)).2⟩
    obtain ⟨l, hl⟩ := hsame
    rw [← pos_taken hu hl, ← app_of_blanks (hblanks.trans (congrArg _ hpos.app))]
    exact frame_of_touches ((hpos.mono (by decide)).trans (completeMeasurement_touches j r v u))

/-! ## On events (05 R83, R84) -/

/-- What a suppression of channel `k` with class `cls` makes of a record. -/
def suppressedBy (k : Fin 12) (cls : Option DefectClass) (x : Record) : Record :=
  { x with suppressed := x.suppressed ||| oneChannel k, defects := x.defects ||| (cls.map oneDefect).getD 0#7 }

theorem suppress_none {k : Fin 12} (hk : suppressionClass (appOf s k).kind = none) : suppress q k s =
    amendRecord q (suppressedBy k none) s := by
  have hsame : (fun x : Record => { x with suppressed := x.suppressed ||| oneChannel k }) = suppressedBy k none := by
    funext x
    simp [suppressedBy]
  unfold suppress
  rw [hk, hsame]

theorem suppress_some {k : Fin 12} {c : DefectClass} (hk : suppressionClass (appOf s k).kind = some c) : suppress q k s =
    addDefect q c (amendRecord q (fun x => { x with suppressed := x.suppressed ||| oneChannel k }) s) := by
  unfold suppress
  rw [hk]

theorem suppress_track (k : Fin 12) (h : findRecord s q = some r) : (suppress q k s).track =
    amended s q (suppressedBy k (suppressionClass (appOf s k).kind)) := by
  cases hk : suppressionClass (appOf s k).kind with
  | none => rw [suppress_none hk]; rfl
  | some c =>
    have hfind : findRecord (amendRecord q (fun x => { x with suppressed := x.suppressed ||| oneChannel k }) s) q = some _ :=
      findRecord_amendRecord (fun _ => rfl) h
    rw [suppress_some hk, addDefect_track c hfind]
    exact amended_amended (f := fun x => { x with suppressed := x.suppressed ||| oneChannel k }) (fun _ => rfl) rfl

theorem suppress_cut {k : Fin 12} {c : DefectClass} (hk : suppressionClass (appOf s k).kind = some c)
    (h : findRecord s q = some r) : EntriesCut (cutAt s (withDefect c r)) s (suppress q k s) := by
  have hfind : findRecord (amendRecord q (fun x => { x with suppressed := x.suppressed ||| oneChannel k }) s) q =
      some { r with suppressed := r.suppressed ||| oneChannel k } := findRecord_amendRecord (fun _ => rfl) h
  have hcut : cutAt (amendRecord q (fun x => { x with suppressed := x.suppressed ||| oneChannel k }) s)
      (withDefect c { r with suppressed := r.suppressed ||| oneChannel k }) = cutAt s (withDefect c r) :=
    cutAt_congr rfl rfl rfl rfl
  rw [suppress_some hk, ← hcut]
  exact entriesCut_of_eq rfl rfl (addDefect_cut c hfind)

theorem suppress_blanks (q : U32) (k : Fin 12) (s : State) : (suppress q k s).app.blanks = s.app.blanks := by
  cases hk : suppressionClass (appOf s k).kind with
  | none => rw [suppress_none hk]; rfl
  | some c => rw [suppress_some hk, addDefect_blanks]; rfl

/-- The blanks with the mark of blank `q` set (05 R89). -/
def gumMark (q : U32) (bs : List BlankEntry) : List BlankEntry :=
  bs.map (fun b => if b.seq == q then { b with gumInhibited := true } else b)

theorem countGum_marked (h : gumMarked s q = true) : countGum q s = s := if_pos h

theorem countGum_unmarked (h : gumMarked s q = false) : countGum q s =
    count .gumInhibited { s with app := { s.app with blanks := gumMark q s.app.blanks } } := if_neg (by simp [h])

/-- What a suppression leaves, with GUM_INHIBITED counted where `counts` says so (05 R83, R89). -/
def suppressing (q : U32) (k : Fin 12) (counts : Bool) (s : State) : State :=
  if counts then countGum q (suppress q k s) else suppress q k s

theorem suppressing_channels (q : U32) (k : Fin 12) (counts : Bool) (s : State) :
    (suppressing q k counts s).track = (suppress q k s).track ∧
    (suppressing q k counts s).app.channels = (suppress q k s).app.channels ∧
    (suppressing q k counts s).pos = (suppress q k s).pos := by
  unfold suppressing countGum
  split
  · split <;> exact ⟨rfl, rfl, rfl⟩
  · exact ⟨rfl, rfl, rfl⟩

theorem gumMarked_congr (h : t.app.blanks = s.app.blanks) (q : U32) : gumMarked t q = gumMarked s q := by
  rw [gumMarked, h]; rfl

theorem suppressing_marks (q : U32) (k : Fin 12) (counts : Bool) (s : State) :
    (suppressing q k counts s).app.blanks = (if counts = true ∧ gumMarked s q = false then gumMark q s.app.blanks
      else s.app.blanks) ∧
    ∀ c, counter (suppressing q k counts s) c = counter s c +
      (if c = .gumInhibited ∧ counts = true ∧ gumMarked s q = false then 1#32 else 0#32) := by
  have hblanks := suppress_blanks q k s
  have hcounters := counter_congr (suppress_touches q k s).counters
  have hmark := gumMarked_congr hblanks q
  unfold suppressing
  cases counts with
  | false => simp [hblanks, hcounters]
  | true =>
    cases hm : gumMarked s q with
    | true =>
      rw [if_pos rfl, countGum_marked (hmark.trans hm)]
      simp [hblanks, hcounters]
    | false =>
      rw [if_pos rfl, countGum_unmarked (hmark.trans hm)]
      refine ⟨by simp [hblanks], fun c => ?_⟩
      rw [counter_count]
      by_cases hc : c = .gumInhibited
      · simp only [hc, if_true, and_self]
        exact congrArg (· + 1#32) (hcounters _)
      · simp only [hc, if_false, false_and]
        exact (hcounters c).trans (by simp)

theorem suppressing_touches (q : U32) (k : Fin 12) (counts : Bool) (s : State) :
    Touches [.track, .pos, .app, .counters] s (suppressing q k counts s) := by
  unfold suppressing
  split
  · exact (suppress_touches q k s).andThen (countGum_touches q _) (by decide) (by decide)
  · exact (suppress_touches q k s).mono (by decide)

theorem liveOnly_suppressing (q : U32) (k : Fin 12) (counts : Bool) (s : State) : LiveOnly s (suppressing q k counts s) := by
  unfold suppressing
  split
  · exact liveOnly_trans (respects_liveOnly.suppress q k s) (respects_liveOnly.countGum q _)
  · exact respects_liveOnly.suppress q k s

/-! ### The judgement -/

theorem judgeOn_found {k : Fin 12} {i dot : Nat} {e : CamEntry} (h : findRecord s q = some r)
    (he : (recipeOf s r.slot).cams[i]? = some e) : judgeOn q k i dot s =
      if e.skip && isRejectable s r then s
      else if s.line.run = .halted then suppress q k s
      else if (appOf s k).kind = .gum ∧ hasFault s .gumSupply then countGum q (suppress q k s)
      else applyPair r k i e dot s := by
  unfold judgeOn
  rw [h]
  dsimp only
  rw [he]

theorem judgeOn_suppresses {k : Fin 12} {i dot : Nat} {e : CamEntry} (h : findRecord s q = some r)
    (he : (recipeOf s r.slot).cams[i]? = some e) (hs : e.skip = false ∨ isRejectable s r = false)
    (hc : s.line.run = .halted ∨ ((appOf s k).kind = .gum ∧ hasFault s .gumSupply = true)) :
    judgeOn q k i dot s = suppressing q k (decide (s.line.run ≠ .halted)) s := by
  rw [judgeOn_found h he, if_neg (by rcases hs with hs | hs <;> simp [hs])]
  by_cases hr : s.line.run = .halted
  · simp [hr, suppressing]
  · rw [if_neg hr, if_pos (hc.resolve_left hr)]
    simp [hr, suppressing]

theorem judgeOn_applies {k : Fin 12} {i dot : Nat} {e : CamEntry} (h : findRecord s q = some r)
    (he : (recipeOf s r.slot).cams[i]? = some e) (hs : e.skip = false ∨ isRejectable s r = false)
    (hr : s.line.run ≠ .halted) (hk : (appOf s k).kind ≠ .gum ∨ hasFault s .gumSupply = false) :
    judgeOn q k i dot s = applyPair r k i e dot s := by
  rw [judgeOn_found h he, if_neg (by rcases hs with hs | hs <;> simp [hs]), if_neg hr, if_neg]
  rintro ⟨hg, hf⟩
  rcases hk with hk | hk
  · exact hk hg
  · rw [hk] at hf
    cases hf

/-- The schedule without the pending events of an earlier blank on channel `k` (05 R84). -/
theorem displace_pos (q : U32) (k : Fin 12) (s : State) : (displace q k s).pos = { s.pos with
    schedule := match (getAt s.app.channels k).serving with
      | some v => s.pos.schedule.filter (fun x => match x.event with
        | .appOn q' k' _ _ => !(v.seq != q && q' == v.seq && k' == k)
        | .appOff q' k' _ _ => !(v.seq != q && q' == v.seq && k' == k)
        | _ => true)
      | none => s.pos.schedule } := by
  unfold displace
  cases (getAt s.app.channels k).serving with
  | none => rfl
  | some v =>
    by_cases hv : v.seq = q
    · dsimp only
      rw [if_pos hv, List.filter_eq_self.mpr]
      intro x _
      cases x.event <;> simp [hv]
    · dsimp only
      rw [if_neg hv, withdraw_pos]
      refine congrArg (fun l => { s.pos with schedule := l }) (List.filter_congr fun x _ => ?_)
      have hne : (v.seq != q) = true := by simpa using hv
      cases x.event <;> simp [appEventOf, hne]

/-- A channel serving a pair keeps its leads. -/
theorem offLead_serving (k k' : Fin 12) (v : Option Serving) (s : State) :
    (getAt (modifyChannel k (fun c => { c with serving := v }) s).app.channels k').offLead =
      (getAt s.app.channels k').offLead := by
  rw [modifyChannel_app]
  by_cases h : k' = k
  · subst h; simp
  · simp [getAt_put_other _ h]

theorem applyPair_eq (k : Fin 12) (i : Nat) (e : CamEntry) (dot : Nat) (s : State) (off : Pending)
    (hevent : off.event = .appOff r.seq e.channel i dot) (hfloor : off.floor = some (posAdd s.pos.hwm 1))
    (hnominal : off.nominal = posAt (r.cutPitch + BitVec.ofNat 32 (appOf s e.channel).station) (pairOff e dot))
    (hpos : off.pos = posLater (posSub off.nominal (getAt s.app.channels e.channel).offLead) (posAdd s.pos.hwm 1)) :
    applyPair r k i e dot s = schedule off (amendRecord r.seq (fun x => { x with applied := x.applied ||| oneChannel k })
      (modifyChannel k (fun c => { c with serving := some ⟨r.seq, i, dot, s.pos.hwm⟩ }) (displace r.seq k s))) := by
  have hoff : off = offPending (modifyChannel k (fun c => { c with serving := some ⟨r.seq, i, dot, s.pos.hwm⟩ })
      (displace r.seq k s)) r.seq r.cutPitch i e dot := by
    have hdis := displace_touches r.seq k s
    have hhwm : (displace r.seq k s).pos.hwm = s.pos.hwm := by rw [displace_pos]
    have hstation : appOf (displace r.seq k s) e.channel = appOf s e.channel := by rw [appOf, hdis.store]; rfl
    unfold offPending
    rw [offLead_serving, hdis.app]
    obtain ⟨x, v, y, z⟩ := off
    simp only at hevent hfloor hnominal hpos
    subst hevent hfloor hpos hnominal
    show _ = Pending.mk (posLater (posSub (nominalAt (displace r.seq k s) _ _ _) _) (posAdd (displace r.seq k s).pos.hwm 1)) _
      (nominalAt (displace r.seq k s) _ _ _) (some (posAdd (displace r.seq k s).pos.hwm 1))
    rw [hhwm, nominalAt, hstation]
  unfold applyPair
  rw [hoff]

/-- Settles O37: a fired on event is skipped, suppressed or applied, on the state without the event. -/
theorem onEvent : Obligations.OnEvent := by
  rintro q k i dot s u p r e marked cls off hh hu hr he rfl rfl hevent hfloor hnominal hpos
  have htaken := takeScheduled_touches hu
  have hru : findRecord u q = some r := by rw [findRecord_congr htaken.track, hr]
  have heu : (recipeOf u r.slot).cams[i]? = some e := by rw [recipeOf, htaken.store]; exact he
  have hreject : isRejectable u r = isRejectable s r := by
    simp only [isRejectable, rejectClasses, effectiveReject, recipeOf, htaken.store]
  have hkind : appOf u k = appOf s k := by rw [appOf, htaken.store]; rfl
  have hfault : hasFault u .gumSupply = hasFault s .gumSupply := by rw [hasFault, htaken.line]; rfl
  have hexec : exec (.onEvent q k i dot) s = .next (judgeOn q k i dot u) := exec_taken (z := 0) hh hu
  refine ⟨fun hs hj => ?_, fun hs => ⟨fun hc => ?_, fun hrun hk => ?_⟩⟩
  · rw [hexec, judgeOn_found hru heu, if_pos]
    rw [hs, hreject, hj, Bool.and_self]
  · rw [← hreject] at hs
    rw [← hkind, ← hfault, ← htaken.line] at hc
    have hsup := judgeOn_suppresses (dot := dot) hru heu hs hc
    obtain ⟨htrack, hchannels, hsched⟩ := suppressing_channels q k (decide (u.line.run ≠ .halted)) u
    obtain ⟨hblanks, hcount⟩ := suppressing_marks q k (decide (u.line.run ≠ .halted)) u
    have hmarked : gumMarked u q = gumMarked s q := gumMarked_congr (congrArg _ htaken.app) q
    have hrun : u.line.run = s.line.run := congrArg _ htaken.line
    have hclass : suppressionClass (appOf u k).kind = suppressionClass (appOf s k).kind := by rw [hkind]
    simp only [hmarked, htaken.app, hrun, decide_eq_true_eq] at hblanks
    simp only [hmarked, counter_congr htaken.counters, hrun, decide_eq_true_eq] at hcount
    rw [hrun] at hsup htrack hchannels hsched
    refine ⟨_, hexec.trans (congrArg _ hsup), ?_, fun hcls => ?_, fun c hcls => ?_, hblanks, ?_, fun c hne => ?_, ?_⟩
    · rw [htrack, suppress_track k hru, amended, htaken.track, hkind]
      rfl
    · have hnone := suppress_none (q := q) (s := u) (k := k) (hclass.trans hcls)
      rw [hchannels, hsched, hnone]
      exact ⟨congrArg _ htaken.app, rfl⟩
    · have hsome := suppress_cut (k := k) (hclass.trans hcls) hru
      have hcut : cutAt u (withDefect c r) = cutAt s (withDefect c r) := cutAt_congr htaken.store rfl rfl rfl
      rw [hcut] at hsome
      unfold EntriesCut
      rw [hchannels, hsched]
      exact hsome
    · rw [hcount]
      simp only [true_and]
      rfl
    · rw [hcount, if_neg (fun h => hne h.1), BitVec.add_zero]
    · have hlive := liveOnly_suppressing q k (decide (s.line.run ≠ .halted)) u
      rw [LiveOnly, htaken.counters] at hlive
      dsimp only
      rw [← hlive]
      exact frame_of_touches ((htaken.mono (by decide)).trans (suppressing_touches q k (decide (s.line.run ≠ .halted)) u))
  · rw [← hreject] at hs
    rw [← htaken.line] at hrun
    rw [← hkind, ← hfault] at hk
    have hq := seq_of_findRecord hr
    have happly := judgeOn_applies (dot := dot) hru heu hs hrun hk
    have hhwm : u.pos.hwm = s.pos.hwm := by
      obtain ⟨_, _, _, rfl⟩ := takeScheduled_some hu
      rfl
    have hchannels : u.app.channels = s.app.channels := congrArg _ htaken.app
    have hpair := applyPair_eq k i e dot u off (hq ▸ hevent) (hhwm ▸ hfloor)
      (by rw [hnominal, appOf, appOf, htaken.store]) (by rw [hpos, hhwm, hchannels])
    have htouch : Touches [.track, .pos, .app] s (applyPair r k i e dot u) :=
      (htaken.mono (by decide)).trans (applyPair_touches r k i e dot u)
    rw [hpair, hq] at happly htouch
    refine ⟨_, hexec.trans (congrArg _ happly), ?_, ?_, fun k' hk' => ?_, ?_, ?_⟩
    · show amended (displace q k u) q _ = _
      rw [amended, (displace_touches q k u).track, htaken.track]
      rfl
    · show getAt (put (displace q k u).app.channels k _) k = _
      rw [getAt_put_same, (displace_touches q k u).app, htaken.app, hhwm]
    · show getAt (put (displace q k u).app.channels k _) k' = _
      rw [getAt_put_other _ hk', (displace_touches q k u).app, htaken.app]
    · show { (displace q k u).pos with schedule := (displace q k u).pos.schedule ++ [off] } = _
      rw [displace_pos, htaken.app] <;> rfl
    · rw [← app_of_blanks (s := s)]
      · exact frame_of_touches htouch
      · show (displace q k u).app.blanks = _
        rw [(displace_touches q k u).app, htaken.app]

end Sys2Proof.BlankRules
end

section
/-! SUPPORT. The shared operations of the Order Unit: what they read, what they leave, and their effects (07 R119 to R131, 04
R58). -/

namespace Sys2Proof.OrderRules

open Sys2Proof.Machine Sys2Proof.Overlay Sys2Proof.RegisterRules Sys2Proof.StationRules

set_option Elab.async false

variable {s t u : State}

/-! ## What the operations on orders read -/

/-- `s` and `t` agree in all that an activation, a selection or a completion test reads. -/
structure SameView (s t : State) : Prop where
  orders : s.orders = t.orders
  notices : s.notices = t.notices
  reg : s.reg = t.reg
  due : s.pos.due = t.pos.due
  records : s.track.records = t.track.records
  recipes : ∀ k, recipeOf s k = recipeOf t k

namespace SameView

theorem symm (h : SameView s t) : SameView t s :=
  ⟨h.orders.symm, h.notices.symm, h.reg.symm, h.due.symm, h.records.symm, fun k => (h.recipes k).symm⟩

theorem trans (h : SameView s t) (k : SameView t u) : SameView s u :=
  ⟨h.orders.trans k.orders, h.notices.trans k.notices, h.reg.trans k.reg, h.due.trans k.due, h.records.trans k.records,
    fun i => (h.recipes i).trans (k.recipes i)⟩

theorem findOrder (h : SameView s t) (tag : Nat) : findOrder s tag = findOrder t tag := by
  unfold Machine.findOrder; rw [h.orders]

theorem nextOrder (h : SameView s t) : nextOrder s = nextOrder t := by
  unfold Machine.nextOrder; rw [h.orders]

theorem activeOrder (h : SameView s t) : activeOrder s = activeOrder t := by
  unfold Machine.activeOrder; rw [h.orders]

theorem nextTag (h : SameView s t) : nextTag s = nextTag t := by
  unfold Machine.nextTag; rw [h.nextOrder]

theorem wantedSource (h : SameView s t) : wantedSource s = wantedSource t := by
  unfold Machine.wantedSource; rw [h.activeOrder, h.nextOrder]

theorem formatClassOf (h : SameView s t) (o : Order) : formatClassOf s o = formatClassOf t o := by
  unfold Machine.formatClassOf; rw [h.recipes]

theorem classFits (h : SameView s t) (o : Order) : classFits s o = classFits t o := by
  unfold Machine.classFits; rw [h.orders, h.formatClassOf]

theorem passedOf (h : SameView s t) (o : Order) : passedOf s o = passedOf t o := by
  unfold Machine.passedOf Machine.committedOf; rw [h.records]

theorem inTransit (h : SameView s t) (tag : Nat) : inTransit s tag = inTransit t tag := by
  unfold Machine.inTransit; rw [h.records]

theorem sectionOf (h : SameView s t) (src : Option (Fin 8)) : sectionOf s src = sectionOf t src := by
  cases src with
  | none => rfl
  | some k => unfold Machine.sectionOf; simp only [h.recipes]

theorem sectionInForce (h : SameView s t) : sectionInForce s = sectionInForce t := by
  unfold Machine.sectionInForce; rw [h.reg, h.sectionOf]

/-! ## Operations on states that agree -/

theorem setOrders (h : SameView s t) (x : OrderUnit) : SameView { s with orders := x } { t with orders := x } :=
  ⟨rfl, h.notices, h.reg, h.due, h.records, h.recipes⟩

theorem setFeed (h : SameView s t) (f : FeedState) : SameView (setFeed f s) (setFeed f t) := by
  unfold Machine.setFeed
  rw [h.orders]
  exact h.setOrders _

theorem modifyOrder (h : SameView s t) (tag : Nat) (f : Order → Order) :
    SameView (modifyOrder tag f s) (modifyOrder tag f t) := by
  unfold Machine.modifyOrder
  rw [h.orders]
  exact h.setOrders _

theorem removeOrder (h : SameView s t) (tag : Nat) : SameView (removeOrder tag s) (removeOrder tag t) := by
  unfold Machine.removeOrder
  rw [h.orders]
  exact h.setOrders _

theorem offer (h : SameView s t) (n : Notice) : SameView (offer n s) (offer n t) where
  orders := by rw [(offer_touches n s).orders, (offer_touches n t).orders, h.orders]
  notices := by
    unfold Machine.offer
    rw [h.notices]
    split <;> rfl
  reg := by rw [(offer_touches n s).reg, (offer_touches n t).reg, h.reg]
  due := by rw [(offer_touches n s).pos, (offer_touches n t).pos, h.due]
  records := by rw [(offer_touches n s).track, (offer_touches n t).track, h.records]
  recipes k := by
    have hk := h.recipes k
    unfold recipeOf at *
    rwa [(offer_touches n s).store, (offer_touches n t).store]

theorem recipeOf_refDown (k i : Fin 8) (s : State) : recipeOf (refDown k s) i = recipeOf s i := by
  rw [refDown, TrimLaw.recipeOf_modifySlot]
  split
  · next h => subst h; rfl
  · rfl

theorem refDown (h : SameView s t) (k : Fin 8) : SameView (refDown k s) (refDown k t) where
  orders := h.orders
  notices := h.notices
  reg := h.reg
  due := h.due
  records := h.records
  recipes i := by rw [recipeOf_refDown, recipeOf_refDown, h.recipes]

theorem switchTo (h : SameView s t) (src : Option (Fin 8)) : SameView (switchTo src s) (switchTo src t) where
  orders := by rw [(switchTo_touches _ _).orders, (switchTo_touches _ _).orders, h.orders]
  notices := by rw [(switchTo_touches _ _).notices, (switchTo_touches _ _).notices, h.notices]
  reg := by rw [switchTo_reg, switchTo_reg, h.sectionInForce, h.sectionOf, h.reg]
  due := by rw [switchTo_due, switchTo_due, h.sectionInForce, h.sectionOf, h.due]
  records := by rw [(switchTo_touches _ _).track, (switchTo_touches _ _).track, h.records]
  recipes k := by
    have hs := h.recipes k
    unfold recipeOf at *
    rwa [(switchTo_touches _ _).store, (switchTo_touches _ _).store]

theorem updateSource (h : SameView s t) : SameView (updateSource s) (updateSource t) := by
  unfold Machine.updateSource
  rw [h.wantedSource, h.reg]
  split
  · exact h
  · exact h.switchTo _

theorem earlyTest (h : SameView s t) (tag : Nat) : SameView (earlyTest tag s) (earlyTest tag t) := by
  unfold Machine.earlyTest
  rw [h.findOrder]
  split
  · exact h
  · simp only [h.passedOf]
    split
    · exact (h.offer _).modifyOrder _ _
    · exact h

theorem activate (h : SameView s t) (o : Order) : SameView (activate o s) (activate o t) := by
  have hactive := (h.modifyOrder o.tag (fun x => { x with state := .active }))
  unfold Machine.activate
  dsimp only
  rw [h.formatClassOf, hactive.orders]
  exact (hactive.setOrders _).updateSource.earlyTest _

theorem select (h : SameView s t) : SameView (select s) (select t) := by
  unfold Machine.select
  rw [h.nextOrder]
  split
  · exact h.setFeed _
  · rw [h.classFits]
    split
    · exact h.activate _
    · exact (h.setFeed _).offer _

theorem reexamine (h : SameView s t) : SameView (reexamine s) (reexamine t) := by
  unfold Machine.reexamine
  rw [h.orders, h.nextOrder]
  split
  · split
    · exact h.setFeed _
    · rw [h.formatClassOf]
      split
      · exact h.activate _
      · exact h
  · exact h

theorem afterActive (h : SameView s t) (b : Bool) : SameView (afterActive b s) (afterActive b t) := by
  unfold Machine.afterActive
  rw [h.nextTag]
  cases b
  · exact h.select.updateSource
  · exact ((h.setFeed _).offer _).updateSource

theorem depart (h : SameView s t) (o : Order) (e : EndState) : SameView (depart o e s) (depart o e t) := by
  have hleft := ((h.removeOrder o.tag).refDown o.slot).offer (.orderEnd o.tag e o.delivered o.boxesClosed (shortfallOf o e))
  unfold Machine.depart
  dsimp only
  split
  · exact (hleft.afterActive _).updateSource.reexamine
  · exact hleft.updateSource.reexamine

theorem completionTest (h : SameView s t) (tag : Nat) : SameView (completionTest tag s) (completionTest tag t) := by
  unfold Machine.completionTest
  rw [h.findOrder]
  split
  · exact h
  · rw [h.inTransit]
    split
    · exact h
    · split
      · exact h
      · exact h.depart _ _

end SameView

/-! ## What the operations on orders leave -/

/-- What lies outside the orders, the fired events, the register's state and the slots' reference counts is as before. -/
structure OrdersMove (s t : State) : Prop where
  pos : t.pos = { s.pos with due := t.pos.due }
  store : t.store = { s.store with slots := t.store.slots }
  recipes : ∀ k, recipeOf t k = recipeOf s k
  trim : t.reg.trim = s.reg.trim
  last : t.reg.last = s.reg.last
  orders : t.orders = { s.orders with
    list := t.orders.list, feedState := t.orders.feedState, runningClass := t.orders.runningClass }

namespace OrdersMove

theorem refl (s : State) : OrdersMove s s := ⟨rfl, rfl, fun _ => rfl, rfl, rfl, rfl⟩

theorem trans (h : OrdersMove s t) (k : OrdersMove t u) : OrdersMove s u where
  pos := k.pos.trans (by rw [h.pos])
  store := k.store.trans (by rw [h.store])
  recipes i := (k.recipes i).trans (h.recipes i)
  trim := k.trim.trans h.trim
  last := k.last.trans h.last
  orders := k.orders.trans (by rw [h.orders])

theorem of_touches (h : Touches [.orders, .notices] s t) (ho : t.orders = { s.orders with
    list := t.orders.list, feedState := t.orders.feedState, runningClass := t.orders.runningClass }) : OrdersMove s t where
  pos := by rw [h.pos]
  store := by rw [h.store]
  recipes k := by unfold recipeOf; rw [h.store]
  trim := by rw [h.reg]
  last := by rw [h.reg]
  orders := ho

theorem offer (n : Notice) (s : State) : OrdersMove s (offer n s) :=
  of_touches ((offer_touches n s).mono (by decide)) (by rw [(offer_touches n s).orders])

theorem setFeed (f : FeedState) (s : State) : OrdersMove s (setFeed f s) :=
  of_touches ((setFeed_touches f s).mono (by decide)) rfl

theorem modifyOrder (tag : Nat) (f : Order → Order) (s : State) : OrdersMove s (modifyOrder tag f s) :=
  of_touches ((modifyOrder_touches tag f s).mono (by decide)) rfl

theorem removeOrder (tag : Nat) (s : State) : OrdersMove s (removeOrder tag s) :=
  of_touches ((removeOrder_touches tag s).mono (by decide)) rfl

theorem refDown (k : Fin 8) (s : State) : OrdersMove s (refDown k s) where
  pos := rfl
  store := rfl
  recipes i := SameView.recipeOf_refDown k i s
  trim := rfl
  last := rfl
  orders := rfl

theorem switchTo (src : Option (Fin 8)) (s : State) : OrdersMove s (switchTo src s) where
  pos := by rw [switchTo_frame]
  store := by rw [(switchTo_touches src s).store]
  recipes k := by unfold recipeOf; rw [(switchTo_touches src s).store]
  trim := by rw [switchTo_reg]; exact (switchedUnit_kept _ _ _).1
  last := by rw [switchTo_reg]; exact (switchedUnit_kept _ _ _).2
  orders := by rw [(switchTo_touches src s).orders]

theorem updateSource (s : State) : OrdersMove s (updateSource s) := by
  unfold Machine.updateSource
  split
  · exact refl s
  · exact switchTo _ s

theorem earlyTest (tag : Nat) (s : State) : OrdersMove s (earlyTest tag s) := by
  unfold Machine.earlyTest
  split
  · exact refl s
  · dsimp only
    split
    · exact (offer _ s).trans (modifyOrder _ _ _)
    · exact refl s

theorem activate (o : Order) (s : State) : OrdersMove s (activate o s) := by
  have hactive : OrdersMove s { Machine.modifyOrder o.tag (fun x => { x with state := .active }) s with
      orders := { (Machine.modifyOrder o.tag (fun x => { x with state := .active }) s).orders with
        feedState := .feeding, runningClass := some (formatClassOf s o) } } := ⟨rfl, rfl, fun _ => rfl, rfl, rfl, rfl⟩
  exact (hactive.trans (updateSource _)).trans (earlyTest _ _)

theorem select (s : State) : OrdersMove s (select s) := by
  unfold Machine.select
  split
  · exact setFeed _ s
  · split
    · exact activate _ s
    · exact (setFeed _ s).trans (offer _ _)

theorem reexamine (s : State) : OrdersMove s (reexamine s) := by
  unfold Machine.reexamine
  split
  · split
    · exact setFeed _ s
    · split
      · exact activate _ s
      · exact refl s
  · exact refl s

theorem afterActive (b : Bool) (s : State) : OrdersMove s (afterActive b s) := by
  unfold Machine.afterActive
  cases b
  · exact (select s).trans (updateSource _)
  · exact ((setFeed _ s).trans (offer _ _)).trans (updateSource _)

theorem depart (o : Order) (e : EndState) (s : State) : OrdersMove s (depart o e s) := by
  have hleft := ((removeOrder o.tag s).trans (refDown o.slot _)).trans
    (offer (.orderEnd o.tag e o.delivered o.boxesClosed (shortfallOf o e)) _)
  unfold Machine.depart
  dsimp only
  split
  · exact ((hleft.trans (afterActive _ _)).trans (updateSource _)).trans (reexamine _)
  · exact (hleft.trans (updateSource _)).trans (reexamine _)

theorem completionTest (tag : Nat) (s : State) : OrdersMove s (completionTest tag s) := by
  unfold Machine.completionTest
  split
  · exact refl s
  · split
    · exact refl s
    · split
      · exact refl s
      · exact depart _ _ s

end OrdersMove

end Sys2Proof.OrderRules
end

section
/-! SUPPORT. What the removal of a record leaves in every unit (03 R50), and the events that remove records: gate, delivery, watch
end and purge. -/

namespace Sys2Proof.Leaving

open Sys2Proof.Machine Sys2Proof.Overlay Sys2Proof.Passes Sys2Proof.Removal Sys2Proof.RegisterRules Sys2Proof.StationRules
  Sys2Proof.BlankRules Sys2Proof.OrderRules

set_option Elab.async false

variable {s t u : State}

/-! ## Blanks that leave -/

theorem contains_singleton (q x : U32) : [q].contains x = (x == q) := by
  rw [List.contains_cons, List.contains_nil, Bool.or_false]

theorem removalApp_app (q : U32) (s : State) : (removalApp q s).app =
    { (endApplications q (fun _ => true) (withdraw (appEventOf q fun _ _ => true) s)).app with
      blanks := (endApplications q (fun _ => true) (withdraw (appEventOf q fun _ _ => true) s)).app.blanks.filter
        (fun b => b.seq != q) } := by
  unfold removalApp
  rfl

theorem removalApp_pos (q : U32) (s : State) : (removalApp q s).pos = (withdraw (appEventOf q fun _ _ => true) s).pos := by
  unfold removalApp
  dsimp only
  rw [(endApplications_touches q _ _).pos]

theorem pos_foldl {α : Type} {g : State → α → State} (h : ∀ t x, (g t x).pos = t.pos) :
    ∀ (l : List α) (s : State), (l.foldl g s).pos = s.pos
  | [], _ => rfl
  | x :: l, s => (pos_foldl h l (g s x)).trans (h s x)

theorem removalInsp_pos (q : U32) (s : State) : (removalInsp q s).pos = (withdraw (inspEventOf q) s).pos := by
  unfold removalInsp
  refine pos_foldl (fun t j => ?_) allInsps _
  split
  · rw [modifyInsp_pos]
  · rfl

theorem unserved_app (q : U32) (s : State) : (unserved q s).app = (removalApp q s).app := by
  rw [unserved, withdraw_app, (removalInsp_touches q _).app]

theorem unserved_channel (q : U32) (s : State) (k : Fin 12) : getAt (unserved q s).app.channels k =
    { getAt s.app.channels k with serving := (getAt s.app.channels k).serving.filter (fun v => !(v.seq == q)) } := by
  rw [unserved_app, removalApp_app]
  dsimp only
  rw [channel_endApplications, withdraw_app]
  simp only [Bool.and_true]

theorem unserved_blanks (q : U32) (s : State) : (unserved q s).app.blanks = s.app.blanks.filter (fun b => b.seq != q) := by
  rw [unserved_app, removalApp_app]
  dsimp only
  rw [blanks_endApplications, withdraw_app]

theorem unserved_insp (q : U32) (s : State) (j : Fin 8) : inspChannel (unserved q s) j =
    { inspChannel s j with measurement := (inspChannel s j).measurement.filter (fun m => m.seq != q) } := by
  have h : inspChannel (unserved q s) j = inspChannel (removalInsp q (removalApp q s)) j :=
    inspChannel_congr (withdraw_touches _ _).insp j
  rw [h, inspChannel_removalInsp, inspChannel_congr (removalApp_touches q s).insp]

theorem unserved_pos (q : U32) (s : State) : (unserved q s).pos = { s.pos with schedule := eventsLeft [q] s.pos.schedule } := by
  rw [unserved, withdraw_pos, removalInsp_pos, withdraw_pos, removalApp_pos, withdraw_pos, eventsLeft, List.filter_filter,
    List.filter_filter]
  refine congrArg (fun l => { s.pos with schedule := l }) (List.filter_congr fun e _ => ?_)
  cases e.event <;>
    simp [appEventOf, inspEventOf, deliveryEventOf, isInspEvent, isDeliveryEvent, eventBlank, beq_eq_decide]

theorem blanksLeft_unserved (q : U32) (s : State) : BlanksLeft [q] s (unserved q s) := by
  refine ⟨?_, fun k => ?_, fun j => ?_⟩
  · rw [unserved_blanks]
    simp only [contains_singleton]
    rfl
  · rw [unserved_channel]
    simp only [contains_singleton]
  · rw [unserved_insp]
    simp only [contains_singleton]
    rfl

theorem blanksLeft_congr {qs : List U32} {s' t' : State} (hs : s'.app = s.app) (hsi : s'.insp = s.insp) (ht : t'.app = t.app)
    (hti : t'.insp = t.insp) (h : BlanksLeft qs s t) : BlanksLeft qs s' t' := by
  unfold BlanksLeft inspChannel at *
  rwa [hs, hsi, ht, hti]

/-! ## The removal of a record -/

/-- The state in which the completion test of a removal is made. -/
def gone (r : Record) (cs : List Counter) (s : State) : State := unserved r.seq (unlisted r cs s)

theorem removeRecord_gone (r : Record) (cs : List Counter) (s : State) :
    removeRecord r cs s = drainTest (completionTest r.tag (gone r cs s)) := rfl

theorem gone_touches (r : Record) (cs : List Counter) (s : State) :
    Touches [.track, .store, .counters, .pos, .app, .insp] s (gone r cs s) :=
  (unlisted_touches r cs s).andThen (unserved_touches r.seq _) (by decide) (by decide)

theorem recipeOf_unlisted (r : Record) (cs : List Counter) (s : State) (k : Fin 8) :
    recipeOf (unlisted r cs s) k = recipeOf s k := by
  unfold unlisted
  rw [recipeOf, (countAll_touches cs _).store]
  exact SameView.recipeOf_refDown r.slot k _

theorem unlisted_store (r : Record) (cs : List Counter) (s : State) :
    (unlisted r cs s).store = { s.store with slots := (unlisted r cs s).store.slots } := by
  unfold unlisted
  rw [(countAll_touches cs _).store]
  rfl

theorem gone_store (r : Record) (cs : List Counter) (s : State) : (gone r cs s).store = (unlisted r cs s).store :=
  (unserved_touches r.seq _).store

theorem recipeOf_gone (r : Record) (cs : List Counter) (s : State) (k : Fin 8) : recipeOf (gone r cs s) k = recipeOf s k := by
  rw [recipeOf, gone_store]
  exact recipeOf_unlisted r cs s k

theorem unlisted_track (r : Record) (cs : List Counter) (s : State) : (unlisted r cs s).track =
    { s.track with records := s.track.records.eraseP (fun x => x.seq == r.seq) } := by
  unfold unlisted
  rw [(countAll_touches cs _).track]
  rfl

theorem gone_track (r : Record) (cs : List Counter) (s : State) : (gone r cs s).track =
    { s.track with records := s.track.records.eraseP (fun x => x.seq == r.seq) } := by
  rw [gone, (unserved_touches r.seq _).track, unlisted_track]

theorem gone_pos (r : Record) (cs : List Counter) (s : State) : (gone r cs s).pos =
    { s.pos with schedule := eventsLeft [r.seq] s.pos.schedule } := by
  rw [gone, unserved_pos, (unlisted_touches r cs s).pos]

theorem gone_insp (r : Record) (cs : List Counter) (s : State) (j : Fin 8) : inspChannel (gone r cs s) j =
    { inspChannel s j with measurement := (inspChannel s j).measurement.filter (fun m => m.seq != r.seq) } := by
  rw [gone, unserved_insp, inspChannel_congr (unlisted_touches r cs s).insp]

theorem blanksLeft_gone (r : Record) (cs : List Counter) (s : State) : BlanksLeft [r.seq] s (gone r cs s) :=
  blanksLeft_congr (unlisted_touches r cs s).app.symm (unlisted_touches r cs s).insp.symm rfl rfl
    (blanksLeft_unserved r.seq (unlisted r cs s))

/-- What a removal of a record leaves in every unit but the Tracking Unit and the counters. -/
structure Removed (r : Record) (s t : State) : Prop where
  blanks : BlanksLeft [r.seq] s t
  insp : ∀ j, inspChannel t j =
    { inspChannel s j with measurement := (inspChannel s j).measurement.filter (fun m => m.seq != r.seq) }
  pos : t.pos = { s.pos with schedule := eventsLeft [r.seq] s.pos.schedule, due := t.pos.due }
  line : t.line = { s.line with run := if s.line.run = .draining ∧ t.track.records = [] then .idle else s.line.run }
  test : AfterTest r.tag s t t.notices
  store : t.store = { s.store with slots := t.store.slots }
  recipes : ∀ k, recipeOf t k = recipeOf s k
  trim : t.reg.trim = s.reg.trim
  last : t.reg.last = s.reg.last
  orders : t.orders = { s.orders with
    list := t.orders.list, feedState := t.orders.feedState, runningClass := t.orders.runningClass }

theorem drainTest_line (s : State) : (drainTest s).line =
    { s.line with run := if s.line.run = .draining ∧ s.track.records = [] then .idle else s.line.run } := by
  unfold drainTest
  by_cases h : s.track.records = [] ∧ s.line.run = .draining
  · rw [if_pos h, if_pos h.symm]
    rfl
  · rw [if_neg h, if_neg (fun hc => h hc.symm)]

theorem removeRecord_removed (r : Record) (cs : List Counter) (s : State) : Removed r s (removeRecord r cs s) := by
  have htest := completionTest_touches r.tag (gone r cs s)
  have hdrain := drainTest_touches (completionTest r.tag (gone r cs s))
  have hmove := OrdersMove.completionTest r.tag (gone r cs s)
  have hgone := gone_touches r cs s
  have hrecipes (k : Fin 8) : recipeOf (removeRecord r cs s) k = recipeOf s k := by
    rw [recipeOf, removeRecord_gone, hdrain.store]
    exact (hmove.recipes k).trans (recipeOf_gone r cs s k)
  have happ : (removeRecord r cs s).app = (gone r cs s).app := hdrain.app.trans htest.app
  have hinsp : (removeRecord r cs s).insp = (gone r cs s).insp := hdrain.insp.trans htest.insp
  refine ⟨blanksLeft_congr rfl rfl happ hinsp (blanksLeft_gone r cs s), fun j => ?_, ?_, ?_, ⟨hrecipes, gone r cs s, hgone.orders,
    hgone.notices, hgone.reg, ?_, ?_, recipeOf_gone r cs s, hdrain.orders, hdrain.reg, ?_, hdrain.notices⟩, ?_, hrecipes, ?_, ?_, ?_⟩
  · rw [inspChannel_congr hinsp, gone_insp]
  · rw [removeRecord_gone, hdrain.pos, hmove.pos, gone_pos]
  · rw [removeRecord_gone, drainTest_line, hdrain.track, htest.line, hgone.line]
  · rw [gone_pos]
  · rw [removeRecord_gone, hdrain.track, htest.track]
  · rw [removeRecord_gone, hdrain.pos]
  · rw [removeRecord_gone, hdrain.store, hmove.store, gone_store, unlisted_store]
  · rw [removeRecord_gone, hdrain.reg, hmove.trim, hgone.reg]
  · rw [removeRecord_gone, hdrain.reg, hmove.last, hgone.reg]
  · rw [removeRecord_gone, hdrain.orders, hmove.orders, hgone.orders]

/-! ## Rejects at the gate (08 R138) -/

theorem causeOrder_split (d : DefectClass) : causeOrder = causeOrder.take (defectBit d) ++ d :: causeOrder.drop (defectBit d + 1) ∧
    ∀ y ∈ causeOrder.take (defectBit d), defectBit y < defectBit d := by
  cases d <;> decide

theorem primaryCause_first {v : BitVec 7} {d : DefectClass} (h : hasDefect v d = true)
    (hlow : ∀ d', defectBit d' < defectBit d → hasDefect v d' = false) : primaryCause v = some d := by
  obtain ⟨hsplit, hbefore⟩ := causeOrder_split d
  refine List.find?_eq_some_iff_append.mpr ⟨h, _, _, hsplit, fun y hy => ?_⟩
  rw [hlow y (hbefore y hy)]
  rfl

theorem primaryCause_zero : primaryCause 0#7 = none := by decide

theorem causeCounter_ne_rejected (d : DefectClass) : causeCounter d ≠ .rejected := by cases d <;> decide

theorem gateCause_class {r : Record} {o : Order} {d : DefectClass} (h : hasDefect (rejectClasses s r) d = true)
    (hlow : ∀ d', defectBit d' < defectBit d → hasDefect (rejectClasses s r) d' = false) :
    gateCause s r o = some (causeCounter d) := by
  unfold gateCause
  rw [primaryCause_first h hlow]

theorem gateCause_clean {r : Record} (h : rejectClasses s r = 0#7) (o : Order) : gateCause s r o =
    if o.delivered + committedOf s o.tag = o.quantity then some .rejectSurplus
    else if hasRoom s o then none else some .rejectNoRoom := by
  unfold gateCause
  rw [h, primaryCause_zero, passedOf]

theorem gateAt_found {q : U32} {r : Record} {o : Order} (h : findRecord s q = some r) (ho : findOrder s r.tag = some o)
    (x : Pos) : gateAt q x s = match gateCause s r o with
      | some c => gateReject r c x s
      | none => gatePass r o s := by
  unfold gateAt
  rw [h]
  dsimp only
  rw [ho] <;> rfl

theorem gateReject_pos (r : Record) (c : Counter) (x : Pos) (s : State) : (gateReject r c x s).pos =
    { (removeRecord r [.rejected, c] s).pos with
      schedule := ((removeRecord r [.rejected, c] s).pos.schedule.filter (fun e => decide (e.event ≠ .rejectGateEnd)))
        ++ [plainEvent (posAdd x 3600) .rejectGateEnd] } := by
  have hfilter (l : List Pending) : l.filter (fun e => !(e.event == .rejectGateEnd)) =
      l.filter (fun e => decide (e.event ≠ .rejectGateEnd)) := by
    refine List.filter_congr fun e _ => ?_
    cases e.event <;> rfl
  unfold gateReject
  rw [schedule_pos, withdraw_pos]
  dsimp only
  rw [hfilter]

theorem gateReject_deliv (r : Record) (c : Counter) (x : Pos) (s : State) : (gateReject r c x s).deliv =
    { (removeRecord r [.rejected, c] s).deliv with rejectGate := true } := by
  unfold gateReject
  rw [schedule_deliv, withdraw_deliv]

theorem gateReject_touches (r : Record) (c : Counter) (x : Pos) (s : State) :
    Touches [.pos, .deliv] (removeRecord r [.rejected, c] s) (gateReject r c x s) := by
  unfold gateReject
  exact ((setDeliv_touches _ _).andThen (hs := [.pos, .deliv]) (withdraw_touches _ _) (by decide) (by decide)).trans
    ((schedule_touches _ _).mono (by decide))

theorem afterTest_congr {tag : Nat} {t' : State} {ns : NoticeQueue} (hstore : t'.store = t.store) (htrack : t'.track = t.track)
    (horders : t'.orders = t.orders) (hreg : t'.reg = t.reg) (hdue : t'.pos.due = t.pos.due) (h : AfterTest tag s t ns) :
    AfterTest tag s t' ns := by
  obtain ⟨hr, v, ho, hn, hg, hd, htr, hv, hto, htg, htd, hns⟩ := h
  refine ⟨fun k => ?_, v, ho, hn, hg, hd, htr.trans htrack.symm, hv, horders.trans hto, hreg.trans htg, hdue.trans htd, hns⟩
  rw [recipeOf, hstore]
  exact hr k

theorem mem_eventsLeft {q : U32} {es : List Pending} {e : Pending} (h : e ∈ eventsLeft [q] es) :
    eventBlank e.event ≠ some q := by
  intro hq
  have hkeep := (List.mem_filter.mp h).2
  rw [hq] at hkeep
  simp at hkeep

theorem afterTest_source {tag : Nat} {ns : NoticeQueue} (hstore : u.store = s.store) (horders : u.orders = s.orders)
    (hnotices : u.notices = s.notices) (hreg : u.reg = s.reg) (hdue : u.pos.due = s.pos.due) (h : AfterTest tag u t ns) :
    AfterTest tag s t ns := by
  have hrec (k : Fin 8) : recipeOf u k = recipeOf s k := by rw [recipeOf, hstore]; rfl
  obtain ⟨hr, v, ho, hn, hg, hd, htr, hv, htest⟩ := h
  exact ⟨fun k => (hr k).trans (hrec k), v, ho.trans horders, hn.trans hnotices, hg.trans hreg, hd.trans hdue, htr,
    fun k => (hv k).trans (hrec k), htest⟩

theorem due_taken {e : Scheduled} {p : Pending} (hu : takeScheduled e s = some (p, u)) : u.pos.due = s.pos.due := by
  obtain ⟨_, _, _, rfl⟩ := takeScheduled_some hu
  rfl

theorem rejectClasses_congr (h : t.store = s.store) (r : Record) : rejectClasses t r = rejectClasses s r := by
  simp only [rejectClasses, effectiveReject, recipeOf, h]

theorem committedOf_congr (h : t.track = s.track) (tag : Nat) : committedOf t tag = committedOf s tag := by
  rw [committedOf, h]; rfl

theorem findOrder_congr (h : t.orders = s.orders) (tag : Nat) : findOrder t tag = findOrder s tag := by
  rw [findOrder, h]; rfl

theorem passClosesOf_congr (ht : t.track = s.track) (hd : t.deliv = s.deliv) (o : Order) :
    passClosesOf t o = passClosesOf s o := by
  rw [passClosesOf, passedOf, committedOf_congr ht, hd]; rfl

theorem gateCause_congr (hu : Touches [.pos] s u) (r : Record) (o : Order) : gateCause u r o = gateCause s r o := by
  unfold gateCause hasRoom passedOf
  rw [rejectClasses_congr hu.store, committedOf_congr hu.track, passClosesOf_congr hu.track hu.deliv, hu.deliv]

/-- Settles O48: whatever the cause, the record is removed and the gate output starts. -/
theorem gateRejects : Obligations.GateRejects := by
  intro q s u p r o c hh hu hr ho hcause
  have hpos := takeScheduled_touches hu
  have hq := seq_of_findRecord hr
  have hcause' : gateCause s r o = some c ∧ c ≠ .rejected := by
    rcases hcause with ⟨d, rfl, hd, hlow⟩ | ⟨hclean, rfl, hfull⟩ | ⟨hclean, rfl, hnot, hroom⟩
    · exact ⟨gateCause_class hd hlow, causeCounter_ne_rejected d⟩
    · rw [gateCause_clean hclean, if_pos hfull]
      exact ⟨rfl, by decide⟩
    · rw [gateCause_clean hclean, if_neg hnot, if_neg (by rw [hasRoom, decide_eq_true_eq]; omega)]
      exact ⟨rfl, by decide⟩
  obtain ⟨hcause, hne⟩ := hcause'
  have hexec : exec (.gateEvent q) s = .next (gateReject r c p.pos u) := by
    refine (exec_taken (z := 0) hh hu).trans (congrArg _ ?_)
    show gateAt q p.pos u = _
    rw [gateAt_found ((findRecord_congr hpos.track q).trans hr) ((findOrder_congr hpos.orders r.tag).trans ho),
      gateCause_congr hpos, hcause]
  have hremoved := removeRecord_removed r [.rejected, c] u
  have htouch := gateReject_touches r c p.pos u
  have htrack : (gateReject r c p.pos u).track = { s.track with records := s.track.records.eraseP (fun x => x.seq == q) } := by
    rw [htouch.track, removeRecord_track, hpos.track, hq]
  have hgatepos := gateReject_pos r c p.pos u
  have hschedule : (gateReject r c p.pos u).pos.schedule = (eventsLeft [q] u.pos.schedule).filter
      (fun e => decide (e.event ≠ .rejectGateEnd)) ++ [plainEvent (posAdd p.pos 3600) .rejectGateEnd] := by
    rw [hgatepos, hremoved.pos, hq]
  have hcount (k : Counter) : counter (gateReject r c p.pos u) k = counter s k + BitVec.ofNat 32 ([Counter.rejected, c].count k) := by
    rw [counter_congr htouch.counters, counter_removeRecord, counter_congr hpos.counters]
  refine ⟨_, hexec, htrack, ?_, ?_, fun k hk hkc => ?_, ?_, ⟨plainEvent (posAdd p.pos 3600) .rejectGateEnd, ?_, rfl, rfl⟩,
    fun e he hblank => ?_, ?_, fun j => ?_, ?_, ?_, ?_, ?_, ?_⟩
  · rw [hcount, List.count_cons_self, List.count_cons_of_ne hne]
    rfl
  · rw [hcount, List.count_cons_of_ne hne.symm, List.count_singleton_self]
  · rw [hcount, List.count_cons_of_ne hk.symm, List.count_cons_of_ne hkc.symm, List.count_nil, BitVec.add_zero]
  · rw [gateReject_deliv, (removeRecord_touches _ _ _).deliv, hpos.deliv]
  · rw [hschedule]
    exact List.mem_append_right _ (List.mem_singleton_self _)
  · rw [hschedule, List.mem_append, List.mem_singleton] at he
    rcases he with he | rfl
    · exact mem_eventsLeft (List.mem_of_mem_filter he) hblank
    · cases hblank
  · rw [← hq]
    exact blanksLeft_congr hpos.app.symm hpos.insp.symm htouch.app htouch.insp hremoved.blanks
  · rw [inspChannel_congr htouch.insp, hremoved.insp, inspChannel_congr hpos.insp]
  · rw [← hschedule, hgatepos, hremoved.pos]
  · rw [htouch.notices]
    exact afterTest_source hpos.store hpos.orders hpos.notices hpos.reg (due_taken hu)
      (afterTest_congr htouch.store htouch.track htouch.orders htouch.reg (by rw [hgatepos]) hremoved.test)
  · rw [htouch.line, htouch.track, hremoved.line, hpos.line]
  · rw [htouch.lines, (removeRecord_touches _ _ _).lines, hpos.lines]
  · rw [htouch.reg, hremoved.trim, hpos.reg]

end Sys2Proof.Leaving
end

section
/-! SUPPORT. Passes at the gate (08 R139 to R141) and the early notice that they may bring (07 R131). -/

namespace Sys2Proof.GateRules

open Sys2Proof.Machine Sys2Proof.Overlay Sys2Proof.Removal Sys2Proof.RegisterRules Sys2Proof.StationRules Sys2Proof.BlankRules
  Sys2Proof.OrderRules Sys2Proof.Leaving

set_option Elab.async false

variable {s t u : State}

theorem tag_of_findOrder {tag : Nat} {o : Order} (h : findOrder s tag = some o) : o.tag = tag := by
  simpa using List.find?_some h

/-! ## The early notice -/

theorem earlyTest_found {tag : Nat} {o : Order} (h : findOrder s tag = some o) : earlyTest tag s =
    if 0 < o.early ∧ o.earlySent = false ∧ (o.quantity : Int) - passedOf s o ≤ o.early then
      modifyOrder tag (fun x => { x with earlySent := true })
        (offer (.earlyEnd tag ((o.quantity : Int) - passedOf s o).toNat) s)
    else s := by
  unfold earlyTest
  rw [h]

theorem earlyTest_silent {tag : Nat} {o : Order} (h : findOrder s tag = some o)
    (hno : o.early = 0 ∨ o.earlySent = true ∨ o.early + passedOf s o < o.quantity) : earlyTest tag s = s := by
  rw [earlyTest_found h, if_neg]
  rintro ⟨hpos, hsent, hle⟩
  rcases hno with h0 | h1 | h2
  · omega
  · rw [hsent] at h1
    cases h1
  · omega

theorem earlyTest_sends {tag : Nat} {o : Order} (h : findOrder s tag = some o) (hpos : 0 < o.early) (hsent : o.earlySent = false)
    (hle : o.quantity ≤ o.early + passedOf s o) : earlyTest tag s = modifyOrder tag (fun x => { x with earlySent := true })
        (offer (.earlyEnd tag (o.quantity - passedOf s o)) s) := by
  rw [earlyTest_found h, if_pos ⟨hpos, hsent, by omega⟩]
  congr 3
  omega

/-! ## The record that is passed -/

theorem countP_commit {q : U32} {r : Record} {tag : Nat} : ∀ {l : List Record}, (l.map Record.seq).Nodup →
    l.find? (fun x => x.seq == q) = some r → r.tag = tag → r.stage = .opened →
    (l.map (fun x => if x.seq == q then { x with stage := .committed } else x)).countP
      (fun x => x.tag == tag && x.stage == .committed) = l.countP (fun x => x.tag == tag && x.stage == .committed) + 1
  | [], _, h, _, _ => by cases h
  | x :: l, hnd, h, ht, ho => by
    rw [List.map_cons, List.nodup_cons] at hnd
    by_cases hx : x.seq = q
    · have hrest : l.map (fun x => if x.seq == q then { x with stage := .committed } else x) = l := by
        refine (List.map_congr_left fun y hy => ?_).trans (List.map_id l)
        have hne : y.seq ≠ q := fun hyq => hnd.1 (hx.trans hyq.symm ▸ List.mem_map_of_mem hy)
        rw [if_neg (by simpa using hne)]
        rfl
      rw [List.find?_cons_of_pos (by simpa using hx)] at h
      obtain rfl : x = r := by simpa using h
      rw [List.map_cons, hrest, List.countP_cons, List.countP_cons]
      simp [hx, ht, ho]
    · have hfind : l.find? (fun x => x.seq == q) = some r := by
        rwa [List.find?_cons_of_neg (by simpa using hx)] at h
      have ih := countP_commit hnd.2 hfind ht ho
      rw [List.map_cons, if_neg (by simpa using hx), List.countP_cons, List.countP_cons, ih]
      omega

theorem committedOf_amended {q : U32} {r : Record} (hnd : (s.track.records.map Record.seq).Nodup)
    (h : findRecord s q = some r) (ho : r.stage = .opened) (ht : t.track = amended s q (fun x => { x with stage := .committed })) :
    committedOf t r.tag = committedOf s r.tag + 1 := by
  unfold committedOf
  rw [ht]
  exact countP_commit hnd h rfl ho

/-! ## A pass at the gate -/

theorem gateCause_pass {r : Record} {o : Order} (hclean : rejectClasses s r = 0#7)
    (hnot : o.delivered + committedOf s o.tag ≠ o.quantity)
    (hroom : s.deliv.waiting + s.deliv.committedCloses + (passClosesOf s o).1 ≤ 4) : gateCause s r o = none := by
  rw [gateCause_clean hclean, if_neg hnot, if_pos (by rw [hasRoom, decide_eq_true_eq]; exact hroom)]

/-- A pass before the early notice. -/
def committing (r : Record) (o : Order) (s : State) : State :=
  let t := amendRecord r.seq (fun x => { x with stage := .committed }) s
  let u := { t with deliv := { t.deliv with
    committedCloses := s.deliv.committedCloses + (passClosesOf s o).1, projected := (passClosesOf s o).2 } }
  if r.defects = 0#7 then u else count .passedMasked u

theorem gatePass_eq (r : Record) (o : Order) (s : State) : gatePass r o s = earlyTest o.tag (committing r o s) := rfl

theorem committing_touches (r : Record) (o : Order) (s : State) : Touches [.track, .deliv, .counters] s (committing r o s) := by
  have hdeliv := (amendRecord_touches r.seq (fun x => { x with stage := .committed }) s).andThen (hs := [.track, .deliv])
    (setDeliv_touches { s.deliv with
      committedCloses := s.deliv.committedCloses + (passClosesOf s o).1, projected := (passClosesOf s o).2 } _)
    (by decide) (by decide)
  unfold committing
  dsimp only
  split
  · exact hdeliv.mono (by decide)
  · exact hdeliv.andThen (count_touches _ _) (by decide) (by decide)

theorem committing_track (r : Record) (o : Order) (s : State) :
    (committing r o s).track = amended s r.seq (fun x => { x with stage := .committed }) := by
  unfold committing
  dsimp only
  split <;> rfl

theorem committing_deliv (r : Record) (o : Order) (s : State) : (committing r o s).deliv = { s.deliv with
    committedCloses := s.deliv.committedCloses + (passClosesOf s o).1, projected := (passClosesOf s o).2 } := by
  unfold committing
  dsimp only
  split <;> rfl

theorem committing_counter (r : Record) (o : Order) (s : State) (k : Counter) : counter (committing r o s) k =
    counter s k + (if k = .passedMasked ∧ r.defects ≠ 0#7 then 1#32 else 0#32) := by
  unfold committing
  dsimp only
  split
  · next h => simp only [h, ne_eq, not_true, and_false, if_false, BitVec.add_zero]; rfl
  · next h =>
    rw [counter_count]
    by_cases hk : k = .passedMasked
    · simp only [hk, h, if_true, ne_eq, not_false_eq_true, and_self]; rfl
    · simp only [hk, if_false, false_and, BitVec.add_zero]; rfl

theorem project_eq (o : Order) (final : Bool) (p : Option ProjectedBox) (change n : Nat) :
    change = (match p with | some b => if b.order = o.id then 0 else 1 | none => 0) →
    n = (match p with | some b => if b.order = o.id then b.count + 1 else 1 | none => 1) →
    project o final p = (change + (if n = o.boxQuantity ∨ final = true then 1 else 0),
      if n = o.boxQuantity ∨ final = true then none else some ⟨o.id, o.tag, n⟩) := by
  intro hchange hn
  have hproject : project o final p =
      if n = o.boxQuantity ∨ final = true then (change + 1, none) else (change, some ⟨o.id, o.tag, n⟩) := by
    subst hchange hn
    rfl
  rw [hproject]
  split <;> rfl

theorem project_cases (o : Order) (final : Bool) (b : ProjectedBox) :
    project o final none = (if 1 = o.boxQuantity ∨ final = true then (1, none) else (0, some ⟨o.id, o.tag, 1⟩)) ∧
    (b.order = o.id → project o final (some b) = (if b.count + 1 = o.boxQuantity ∨ final = true then (1, none)
      else (0, some ⟨o.id, o.tag, b.count + 1⟩))) ∧
    (b.order ≠ o.id → project o final (some b) = (if 1 = o.boxQuantity ∨ final = true then (2, none)
      else (1, some ⟨o.id, o.tag, 1⟩))) := by
  refine ⟨rfl, fun h => ?_, fun h => ?_⟩
  · simp only [project, h, if_true]
  · simp only [project, h, if_false]

/-- Settles O49: the pass is made on the state without the gate event; the early notice then reads one COMMITTED record more. -/
theorem gatePasses : Obligations.GatePasses := by
  refine ⟨fun q s u p r o change n c box hh hu hr ho hchange hn hc hbox hclean hnot hroom => ?_, fun _ _ => rfl, project_cases⟩
  have hpos := takeScheduled_touches hu
  have hq := seq_of_findRecord hr
  have htag : r.tag = o.tag := (tag_of_findOrder ho).symm
  have hproject : passClosesOf s o = (c, box) := by
    rw [passClosesOf, project_eq o _ _ change n hchange hn, hc, hbox]
    simp only [beq_iff_eq]
    rfl
  have hcause : gateCause u r o = none := by
    rw [gateCause_congr hpos]
    exact gateCause_pass hclean hnot (by rw [hproject]; exact hroom)
  have hexec : exec (.gateEvent q) s = .next (earlyTest o.tag (committing r o u)) := by
    refine (exec_taken (z := 0) hh hu).trans (congrArg _ ?_)
    show gateAt q p.pos u = _
    rw [gateAt_found ((findRecord_congr hpos.track q).trans hr) ((findOrder_congr hpos.orders r.tag).trans ho), hcause,
      gatePass_eq]
  have hcommit := committing_touches r o u
  have hearly := earlyTest_touches o.tag (committing r o u)
  have hfind : findOrder (committing r o u) o.tag = some o :=
    (findOrder_congr (hcommit.orders.trans hpos.orders) o.tag).trans (htag ▸ ho)
  have horders : (committing r o u).orders = s.orders := hcommit.orders.trans hpos.orders
  have hnotices : (committing r o u).notices = s.notices := hcommit.notices.trans hpos.notices
  have hamended : (committing r o u).track = amended s q (fun x => { x with stage := .committed }) := by
    rw [committing_track, amended, hpos.track, hq]
    rfl
  refine ⟨_, hexec, ?_, ?_, ?_, fun k hk => ?_, fun hno => ?_, fun hpos hsent hnd hopen => ?_, ?_, ?_, ?_, ?_, ?_, ?_, ?_⟩
  · rw [hearly.track, hamended]
  · rw [hearly.deliv, committing_deliv, passClosesOf_congr hpos.track hpos.deliv, hproject, hpos.deliv]
  · rw [counter_congr hearly.counters, committing_counter, counter_congr hpos.counters]
    by_cases hd : r.defects = 0#7 <;> simp [hd]
  · rw [counter_congr hearly.counters, committing_counter, counter_congr hpos.counters, if_neg (fun h => hk h.1),
      BitVec.add_zero]
  · rw [earlyTest_silent hfind (hno.imp_right .inl)]
    exact ⟨horders, hnotices⟩
  · have hcount : passedOf (committing r o u) o = o.delivered + committedOf s o.tag + 1 := by
      rw [passedOf, ← htag, committedOf_amended hnd hr hopen hamended, Nat.add_assoc]
    refine ⟨fun hle => ?_, fun hlt => ?_⟩
    · rw [earlyTest_sends hfind hpos hsent (by omega), hcount]
      refine ⟨offer_notices _ hnotices, fun y hy htag => ?_⟩
      obtain ⟨x, -, rfl⟩ := List.mem_map.mp hy
      by_cases hx : x.tag = o.tag
      · simp [hx]
      · simp [hx] at htag
    · rw [earlyTest_silent hfind (.inr (.inr (by omega)))]
      exact ⟨horders, hnotices⟩
  · rw [hearly.line, hcommit.line, hpos.line]
  · rw [hearly.reg, hcommit.reg, hpos.reg]
  · rw [hearly.app, hcommit.app, hpos.app]
  · rw [hearly.insp, hcommit.insp, hpos.insp]
  · rw [hearly.lines, hcommit.lines, hpos.lines]
  · rw [hearly.store, hcommit.store, hpos.store]
  · rw [hearly.pos, hcommit.pos]

end Sys2Proof.GateRules
end

section
/-! SUPPORT. The end of a watch and its judgements (06 R101, R102). -/

namespace Sys2Proof.WatchRules

open Sys2Proof.Machine Sys2Proof.Overlay Sys2Proof.Removal Sys2Proof.RegisterRules Sys2Proof.StationRules Sys2Proof.BlankRules
  Sys2Proof.LineRules Sys2Proof.Leaving

set_option Elab.async false

variable {s t u : State}

/-! ## A report of TRACKING -/

/-- TRACKING is reported where `b` says so. -/
def trackingIf (b : Bool) (s : State) : State := if b then report .tracking s else s

/-- Whether that report latches the fault. -/
def latches (b : Bool) (s : State) : Bool := b && !hasFault s .tracking

/-- Whether it halts the line. -/
def haltsLine (b : Bool) (s : State) : Bool := latches b s && decide (s.line.run = .running ∨ s.line.run = .draining)

theorem trackingIf_touches (b : Bool) (s : State) : Touches [.line, .lines, .notices] s (trackingIf b s) := by
  unfold trackingIf
  split
  · exact report_touches _ _
  · exact .refl _ s

theorem trackingIf_silent {b : Bool} (h : latches b s = false) : trackingIf b s = s := by
  unfold trackingIf
  split
  · next hb =>
    subst hb
    exact report_latched (by simpa [latches] using h)
  · rfl

theorem latches_true {b : Bool} (h : latches b s = true) : b = true ∧ hasFault s .tracking = false := by
  simpa [latches] using h

/-- A report of TRACKING, as one latching with or without the halt. -/
theorem trackingIf_latches {b : Bool} (h : latches b s = true) : trackingIf b s =
    if haltsLine b s then enterHalted (offer (.fault .tracking) (latch .tracking s))
    else offer (.fault .tracking) (latch .tracking s) := by
  obtain ⟨hb, hnot⟩ := latches_true h
  have hmark : haltsLine b s = true ↔ isHalting .tracking = true ∧ canHalt s.line.run = true := by
    rw [haltsLine, h, canHalt_iff]
    simp [isHalting]
  rw [trackingIf, if_pos hb]
  by_cases hh : haltsLine b s = true
  · rw [if_pos hh, report_halts hnot (hmark.mp hh)]
  · rw [if_neg hh, report_stays hnot (fun hc => hh (hmark.mpr hc))]

theorem haltsLine_latches {b : Bool} (h : latches b s = false) : haltsLine b s = false := by rw [haltsLine, h]; rfl

theorem trackingIf_line (b : Bool) (s : State) : (trackingIf b s).line = { s.line with
    run := if haltsLine b s then .halted else s.line.run,
    faults := if latches b s then s.line.faults ||| 16#6 else s.line.faults } := by
  cases hl : latches b s with
  | false => simp [trackingIf_silent hl, haltsLine_latches hl]
  | true =>
    rw [trackingIf_latches hl]
    cases hh : haltsLine b s with
    | true =>
      rw [if_pos rfl, enterHalted_line, latched_frame]
      rfl
    | false =>
      rw [if_neg (by simp), latched_frame]
      rfl

theorem trackingIf_notices (b : Bool) (s : State) : (trackingIf b s).notices =
    if latches b s then (offer (.fault .tracking) s).notices else s.notices := by
  cases hl : latches b s with
  | false => simp [trackingIf_silent hl]
  | true =>
    rw [trackingIf_latches hl, if_pos rfl, ← latched_notices]
    split
    · exact (enterHalted_touches _).notices
    · rfl

theorem trackingIf_lines (b : Bool) (s : State) : (trackingIf b s).lines = { s.lines with outs := (trackingIf b s).lines.outs } := by
  cases hl : latches b s with
  | false => rw [trackingIf_silent hl]
  | true =>
    rw [trackingIf_latches hl]
    split
    · rw [enterHalted_lines, latched_frame]
    · rw [latched_frame]

theorem trackingIf_outs (b : Bool) (s : State) (i : Fin 16) : getAt (trackingIf b s).lines.outs i =
    { getAt s.lines.outs i with
      held := if haltsLine b s then (if followsSafeMode (getAt s.lines.outs i).function then some (drivenState s i) else none)
        else (getAt s.lines.outs i).held } := by
  cases hl : latches b s with
  | false => simp [trackingIf_silent hl, haltsLine_latches hl]
  | true =>
    rw [trackingIf_latches hl]
    cases hh : haltsLine b s with
    | true =>
      rw [if_pos rfl, enterHalted_outs, drivenState_latched, latched_frame]
      rfl
    | false =>
      rw [if_neg (by simp), latched_frame]
      rfl

theorem hasFault_trackingIf (b : Bool) (s : State) : hasFault (trackingIf b s) .tracking = (hasFault s .tracking || b) := by
  cases hl : latches b s with
  | false =>
    rw [trackingIf_silent hl]
    revert hl
    unfold latches
    cases b <;> cases hasFault s .tracking <;> decide
  | true =>
    obtain ⟨rfl, hnot⟩ := latches_true hl
    rw [hasFault, trackingIf_line, hl]
    simp [faultBit]

/-- The driven state of a line that follows its safe mode, in a run state that can halt. -/
theorem drivenState_running (h : s.line.run ≠ .halted) (i : Fin 16) :
    (if followsSafeMode (getAt s.lines.outs i).function then some (drivenState s i) else none) =
      match (getAt s.lines.outs i).function with
      | .manual => some (getAt s.lines.outs i).manual
      | .channel k => some (getAt s.app.channels k).serving.isSome
      | _ => none := by
  have hrun : (s.line.run == .halted) = false := by simpa using h
  cases hf : (getAt s.lines.outs i).function <;> simp [followsSafeMode, drivenState, hf, hrun, channelActive]

/-! ## The end of a watch -/

theorem watchEndAt_ignored {j : Fin 8} (h : isPresence s j = false ∨ (inspChannel s j).watch = none) (p : U32) :
    watchEndAt j p s = s := by
  unfold watchEndAt
  rcases h with h | h
  · rw [h, if_neg (by simp)]
  · rw [h, ite_self]

theorem watchEndAt_ended {j : Fin 8} {w : Watch} {p : U32} (h : isPresence s j = true) (hw : (inspChannel s j).watch = some w)
    (hno : s.line.run = .idle ∨ w.pitch ≠ p) : watchEndAt j p s = endWatch j s := by
  unfold watchEndAt
  rw [if_pos h, hw]
  exact if_pos hno

theorem watchEndAt_judges {j : Fin 8} {w : Watch} (h : isPresence s j = true) (hw : (inspChannel s j).watch = some w)
    (hrun : s.line.run ≠ .idle) : watchEndAt j w.pitch s =
      match s.track.records.find? (fun r => r.cutPitch == soughtPitch s j w.pitch), w.seen with
        | some r, true => watchPass j r (endWatch j s)
        | some r, false => watchLost j r (endWatch j s)
        | none, true => watchUnexpected j (soughtPitch s j w.pitch) (endWatch j s)
        | none, false => endWatch j s := by
  unfold watchEndAt
  rw [if_pos h, hw]
  dsimp only
  rw [if_neg (by simpa using hrun)] <;> rfl

theorem endWatch_eq (j : Fin 8) (s : State) :
    endWatch j s = { s with insp := put s.insp j { inspChannel s j with watch := none } } := rfl

/-- Channel `j` after its judgement `x`, with losses `n`. -/
def judged (j : Fin 8) (x : InspResult) (n : Nat) (s : State) : InspChannel :=
  { inspChannel s j with
    watch := none, losses := n, result := some x, ready := true,
    overrun := (inspChannel s j).overrun || (inspChannel s j).ready }

theorem inspChannel_judged (j : Fin 8) (x : InspResult) (f : Nat → Nat) (s : State) (j' : Fin 8) :
    inspChannel (makeResult j x (modifyInsp j (fun c => { c with losses := f c.losses }) (endWatch j s))) j' =
      if j' = j then judged j x (f (inspChannel s j).losses) s else inspChannel s j' := by
  rw [makeResult, endWatch, inspChannel_modifyInsp, inspChannel_modifyInsp, inspChannel_modifyInsp]
  by_cases hj : j' = j
  · subst hj
    simp [judged]
  · simp [hj]

/-! ### PASS -/

theorem watchPass_spec (j : Fin 8) (r : Record) (u : State) (ht : t = watchPass j r (endWatch j u)) :
    t.track = amended u r.seq (fun a => { a with values := put a.values j (some 1) }) ∧
    inspChannel t j = judged j ⟨some r.seq, r.cutPitch, 1, .pass⟩ 0 u ∧
    (∀ j', j' ≠ j → inspChannel t j' = inspChannel u j') ∧ t = { u with track := t.track, insp := t.insp } := by
  subst ht
  have hinsp (j' : Fin 8) := inspChannel_judged j ⟨some r.seq, r.cutPitch, 1, .pass⟩ (fun _ => 0)
    (setValue r.seq j 1 u) j'
  refine ⟨rfl, (hinsp j).trans (if_pos rfl), fun j' hj => (hinsp j').trans (if_neg hj), rfl⟩

/-! ### LOST -/

/-- The state in which a LOST judgement removes its record. -/
def lostFrom (j : Fin 8) (r : Record) (u : State) : State :=
  makeResult j ⟨some r.seq, r.cutPitch, 0, .lost⟩
    (modifyInsp j (fun c => { c with losses := min (c.losses + 1) 255 }) (endWatch j u))

theorem lostFrom_touches (j : Fin 8) (r : Record) (u : State) : Touches [.insp] u (lostFrom j r u) :=
  ((modifyInsp_touches j _ u).trans (modifyInsp_touches j _ _)).trans (makeResult_touches j _ _)

theorem lostFrom_channel (j : Fin 8) (r : Record) (u : State) (j' : Fin 8) : inspChannel (lostFrom j r u) j' =
    if j' = j then judged j ⟨some r.seq, r.cutPitch, 0, .lost⟩ (min ((inspChannel u j).losses + 1) 255) u
    else inspChannel u j' := inspChannel_judged j _ (fun n => min (n + 1) 255) u j'

theorem watchLost_eq (j : Fin 8) (r : Record) (u : State) : watchLost j r (endWatch j u) =
    trackingIf (decide (1 ≤ (inspChannel u j).losses)) (removeRecord r [.lost] (lostFrom j r u)) := by
  have hlosses : 2 ≤ (inspChannel (lostFrom j r u) j).losses ↔ 1 ≤ (inspChannel u j).losses := by
    rw [lostFrom_channel, if_pos rfl]
    simp only [judged]
    omega
  have heq : watchLost j r (endWatch j u) = if 2 ≤ (inspChannel (lostFrom j r u) j).losses
      then report .tracking (removeRecord r [.lost] (lostFrom j r u)) else removeRecord r [.lost] (lostFrom j r u) := by
    unfold watchLost lostFrom
    rfl
  rw [heq, trackingIf]
  by_cases h : 1 ≤ (inspChannel u j).losses
  · rw [if_pos (hlosses.mpr h), decide_eq_true h, if_pos rfl]
  · rw [if_neg (fun hc => h (hlosses.mp hc)), decide_eq_false h, if_neg Bool.false_ne_true]

/-! ### UNEXPECTED -/

theorem watchUnexpected_eq (j : Fin 8) (cut : U32) (u : State) : watchUnexpected j cut (endWatch j u) = report .tracking
    { u with insp := put u.insp j (judged j ⟨none, cut, 1, .unexpected⟩ (inspChannel u j).losses u) } := by
  unfold watchUnexpected
  congr 1
  rw [endWatch_eq, makeResult, modifyInsp]
  simp only [inspChannel, getAt_put_same, RecipeRules.put_put]
  rfl

theorem setInsp_touches (x : Vector InspChannel 8) (s : State) : Touches [.insp] s { s with insp := x } := by
  intro f hf; cases f <;> first | exact absurd (by decide) hf | rfl

theorem hasFault_congr (h : t.line = s.line) (f : FaultKind) : hasFault t f = hasFault s f := by rw [hasFault, h]; rfl

theorem drivenState_congr (hlines : t.lines = s.lines) (hline : t.line = s.line) (happ : t.app = s.app)
    (horders : t.orders = s.orders) (hdeliv : t.deliv = s.deliv) (i : Fin 16) : drivenState t i = drivenState s i := by
  unfold drivenState channelActive
  rw [hlines, hline, happ, horders, hdeliv]

/-! ### What LOST leaves -/

/-- What a LOST judgement leaves. -/
theorem watchLost_spec (j : Fin 8) (r : Record) (u : State) : ∃ (t : State) (ns : NoticeQueue) (run : RunState) (reports halts : Bool),
    watchLost j r (endWatch j u) = t ∧
    run = (if u.line.run = .draining ∧ t.track.records = [] then .idle else u.line.run) ∧
    reports = (decide (1 ≤ (inspChannel u j).losses) && !hasFault u .tracking) ∧
    halts = (reports && decide (run = .running ∨ run = .draining)) ∧
    t.line = { u.line with run := if halts then .halted else run,
                           faults := if reports then u.line.faults ||| 16#6 else u.line.faults } ∧
    t.lines = { u.lines with outs := t.lines.outs } ∧
    (∀ i : Fin 16, getAt t.lines.outs i = { getAt u.lines.outs i with
      held := if halts then (match (getAt u.lines.outs i).function with
          | .manual => some (getAt u.lines.outs i).manual
          | .channel k => some (getAt t.app.channels k).serving.isSome
          | _ => none)
        else (getAt u.lines.outs i).held }) ∧
    t.track = { u.track with records := u.track.records.eraseP (fun a => a.seq == r.seq) } ∧
    (∀ c, counter t c = counter u c + BitVec.ofNat 32 ([Counter.lost].count c)) ∧
    inspChannel t j = { judged j ⟨some r.seq, r.cutPitch, 0, .lost⟩ (min ((inspChannel u j).losses + 1) 255) u with
      measurement := (inspChannel t j).measurement } ∧
    (∀ j', j' ≠ j → inspChannel t j' = { inspChannel u j' with measurement := (inspChannel t j').measurement }) ∧
    BlanksLeft [r.seq] u t ∧
    t.pos = { u.pos with schedule := eventsLeft [r.seq] u.pos.schedule, due := t.pos.due } ∧
    hasFault t .tracking = (hasFault u .tracking || decide (1 ≤ (inspChannel u j).losses)) ∧
    AfterTest r.tag u t ns ∧ t.deliv = u.deliv ∧
    t.notices = (if reports then (offer (.fault .tracking) { u with notices := ns }).notices else ns) ∧
    t = { u with track := t.track, counters := { u.counters with live := t.counters.live }, insp := t.insp,
                 app := t.app, pos := t.pos, orders := t.orders, notices := t.notices, reg := t.reg,
                 store := { u.store with slots := t.store.slots }, line := t.line, lines := t.lines } := by
  have hbase := lostFrom_touches j r u
  have hchannel := lostFrom_channel j r u
  have hremoved := removeRecord_removed r [.lost] (lostFrom j r u)
  have hremove := removeRecord_touches r [.lost] (lostFrom j r u)
  have htrack := removeRecord_track r [.lost] (lostFrom j r u)
  have hcount := counter_removeRecord r [.lost] (lostFrom j r u)
  have hlive := liveOnly_removeRecord r [.lost] (lostFrom j r u)
  rw [watchLost_eq]
  generalize lostFrom j r u = v at *
  generalize removeRecord r [.lost] v = w at *
  generalize decide (1 ≤ (inspChannel u j).losses) = b
  have hreport := trackingIf_touches b w
  have hfault : hasFault w .tracking = hasFault u .tracking := by
    rw [hasFault, hremoved.line, hbase.line]
    rfl
  refine ⟨trackingIf b w, w.notices, w.line.run, latches b w, haltsLine b w, rfl, ?_, ?_, rfl, ?_, ?_, fun i => ?_, ?_, fun c => ?_,
    ?_, fun j' hj => ?_, ?_, ?_, ?_, ?_, ?_, ?_, ?_⟩
  · rw [hreport.track, hremoved.line, hbase.line]
  · rw [latches, hfault]
  · rw [trackingIf_line, hremoved.line, hbase.line]
  · rw [trackingIf_lines, hremove.lines, hbase.lines]
  · rw [trackingIf_outs, hreport.app, hremove.lines, hbase.lines]
    cases hh : haltsLine b w with
    | false => rfl
    | true =>
      have hrun : w.line.run ≠ .halted := by
        intro hc
        rw [haltsLine, hc] at hh
        simp at hh
      have hdriven := drivenState_running hrun i
      rw [hremove.lines, hbase.lines] at hdriven
      simp only [if_true, hdriven]
  · rw [hreport.track, htrack, hbase.track]
  · rw [counter_congr hreport.counters, hcount, counter_congr hbase.counters]
  · rw [inspChannel_congr hreport.insp, hremoved.insp, hchannel, if_pos rfl]
  · rw [inspChannel_congr hreport.insp, hremoved.insp, hchannel, if_neg hj]
  · refine ⟨?_, fun k => ?_, fun j' => ?_⟩
    · rw [hreport.app, hremoved.blanks.1, hbase.app]
    · rw [hreport.app, hremoved.blanks.2.1, hbase.app]
    · rw [inspChannel_congr hreport.insp, hremoved.blanks.2.2, hchannel]
      split
      · next h => rw [h]; rfl
      · rfl
  · rw [hreport.pos, hremoved.pos, hbase.pos]
  · rw [hasFault_trackingIf, hfault]
  · exact afterTest_source hbase.store hbase.orders hbase.notices hbase.reg (by rw [hbase.pos])
      (afterTest_congr hreport.store hreport.track hreport.orders hreport.reg (by rw [hreport.pos]) hremoved.test)
  · rw [hreport.deliv, hremove.deliv, hbase.deliv]
  · rw [trackingIf_notices]
    congr 1
    exact offer_notices _ rfl
  · have hstore : (trackingIf b w).store = { u.store with slots := (trackingIf b w).store.slots } := by
      rw [hreport.store, hremoved.store, hbase.store]
    have hcounters : (trackingIf b w).counters = { u.counters with live := (trackingIf b w).counters.live } := by
      rw [hreport.counters, hlive, hbase.counters]
    rw [← hstore, ← hcounters]
    exact frame_of_touches (((hbase.mono (by decide)).trans (hremove.mono (by decide))).trans (hreport.mono (by decide)) :
      Touches [.track, .store, .counters, .pos, .app, .insp, .orders, .reg, .notices, .line, .lines] u _)

/-- Settles O40: the judgement is made on the state without the event; a LOST one is a removal and then a report. -/
theorem watchEnd : Obligations.WatchEnd := by
  refine ⟨fun j s u x hh hu => ?_, fun j s u x w hh hu hpresence hw hpitch => ?_⟩
  · have hdue := takeFired_touches hu
    rw [← isPresence_congr hdue.store, ← inspChannel_congr hdue.insp]
    exact ⟨fun h => (exec_firing hh hu).trans (congrArg _ (watchEndAt_ignored h _)),
      fun w h hw hp => (exec_firing hh hu).trans (congrArg _ (watchEndAt_ended h hw (.inr hp)))⟩
  have hdue := takeFired_touches hu
  have hrun : u.line.run = s.line.run := congrArg _ hdue.line
  have hinsp := inspChannel_congr hdue.insp
  have hpu : isPresence u j = true := (isPresence_congr hdue.store j).trans hpresence
  have hwu : (inspChannel u j).watch = some w := by rw [hinsp, hw]
  have hsought : soughtPitch u j w.pitch = w.pitch - BitVec.ofNat 32 (inspOf s j).station := by
    rw [soughtPitch, inspOf_congr hdue.store]
  have hexec : exec (.watchEnd j) s = .next (watchEndAt j w.pitch u) := by
    rw [hpitch]
    exact exec_firing hh hu
  refine ⟨fun hidle => ?_, fun hidle => ?_⟩
  · rw [hexec, watchEndAt_ended hpu hwu (.inl (hrun.trans hidle)), endWatch_eq, hinsp]
  have hjudge := watchEndAt_judges hpu hwu (hrun ▸ hidle)
  rw [hsought, hdue.track] at hjudge
  rw [hexec, hjudge]
  refine ⟨fun r hr => ⟨fun hseen => ?_, fun hseen => ?_⟩, fun hr => ⟨fun hseen => ?_, fun hseen => ?_⟩⟩
  · rw [hr, hseen]
    obtain ⟨htrack, hj, hother, hframe⟩ := watchPass_spec j r u rfl
    refine ⟨_, rfl, ?_, ?_, fun j' hj' => ?_, hframe⟩
    · rw [htrack, amended, hdue.track]; rfl
    · rw [hj, judged, hinsp]
    · rw [hother j' hj', hinsp]
  · rw [hr, hseen]
    obtain ⟨t, ns, run, reports, halts, ht, hnewRun, hreports, hhalts, hline, hlines, houts, htrack, hcount, hchannel, hmoved,
      hblanks, hpos, hfault, htest, hdeliv, hnotices, hframe⟩ := watchLost_spec j r u
    have hfaultu : hasFault u .tracking = hasFault s .tracking := by rw [hasFault, hdue.line]; rfl
    rw [hdue.line] at hnewRun hline
    rw [hfaultu, hinsp] at hreports hfault
    rw [hdue.lines] at hlines houts
    rw [judged, hinsp] at hchannel
    refine ⟨t, ns, run, reports, halts, congrArg _ ht, hnewRun, hreports, hhalts, hline, hlines, houts, ?_, ?_, fun c hc => ?_,
      hchannel, fun j' hj' => ?_, ?_, hpos, hfault, htest, ?_, ?_, ?_⟩
    · rw [htrack, hdue.track]
    · rw [hcount, counter_congr hdue.counters]
      rfl
    · rw [hcount, counter_congr hdue.counters, List.count_cons_of_ne hc.symm, List.count_nil, BitVec.add_zero]
    · rw [hmoved j' hj', hinsp]
    · exact blanksLeft_congr hdue.app.symm hdue.insp.symm rfl rfl hblanks
    · rw [hdeliv, hdue.deliv]
    · have hcond : (1 ≤ (inspChannel s j).losses ∧ hasFault s .tracking = false) ↔ reports = true := by
        rw [hreports]
        simp
      simp only [hcond, hnotices]
      congr 1
      exact offer_notices _ rfl
    · rw [← hdue.counters, ← hdue.store]
      exact hframe
  · rw [hr, hseen]
    dsimp only
    rw [endWatch_eq, hinsp]
  · rw [hr, hseen]
    dsimp only
    rw [watchUnexpected_eq, judged, hinsp]
    refine ⟨_, _, rfl, rfl, rfl, fun hf => report_latched ?_, fun hf => ?_⟩
    · rw [← hf]
      exact hasFault_congr hdue.line .tracking
    · generalize hv : ({ u with insp := _ } : State) = v
      have hunit : Touches [.pos, .insp] s v := by
        rw [← hv]
        exact (hdue.mono (by decide)).trans ((setInsp_touches _ u).mono (by decide))
      have hlatch : latches true v = true := by
        rw [latches, hasFault_congr hunit.line, hf]
        rfl
      have hhalt : haltsLine true v = decide (s.line.run = .running ∨ s.line.run = .draining) := by
        rw [haltsLine, hlatch, hunit.line, Bool.true_and]
      have hreport := trackingIf_touches true v
      have hnotices := trackingIf_notices true v
      have hline := trackingIf_line true v
      have hlines := trackingIf_lines true v
      have houts := trackingIf_outs true v
      rw [show trackingIf true v = report .tracking v from rfl] at *
      rw [hlatch, if_pos rfl] at hnotices
      rw [hlatch, hhalt, hunit.line] at hline
      rw [hunit.lines] at hlines
      simp only [decide_eq_true_eq, if_true] at hline
      refine ⟨hline, hnotices.trans (offer_notices _ hunit.notices), hlines, fun i => ?_, frame_of_touches hreport⟩
      rw [houts, hhalt, hunit.lines, drivenState_congr hunit.lines hunit.line hunit.app hunit.orders hunit.deliv]
      simp only [decide_eq_true_eq]

end Sys2Proof.WatchRules
end

section
/-! SUPPORT. What a box close leaves (08 R143, R144), and the replay of R140. -/

namespace Sys2Proof.BoxRules

open Sys2Proof.Machine Sys2Proof.Overlay Sys2Proof.Passes Sys2Proof.Removal Sys2Proof.RegisterRules Sys2Proof.Leaving
  Sys2Proof.GateRules

set_option Elab.async false

variable {s t u : State}

/-! ## The close of a box -/

/-- The Box Log with one entry more. -/
def logged (l : List BoxEntry) (e : BoxEntry) : List BoxEntry := (if l.length < 32 then l else l.drop 1) ++ [e]

/-- The log entry of a close. -/
def closeEntry (b : Box) (why : CloseReason) (s : State) : BoxEntry :=
  ⟨s.deliv.nextBox, b.tag, b.number, b.count, why, pitchNumber s⟩

/-- The order of a box whose close it is credited with (08 R143). -/
def credited (b : Box) (o : Order) : Order := if o.id == b.order then { o with boxesClosed := o.boxesClosed + 1 } else o

/-- The separator end of a pulse that starts at the high-water mark (08 R144). -/
def separatorAfter (s : State) : Pending :=
  plainEvent (posAdd s.pos.hwm s.store.inForce.general.separatorLength) .separatorEnd

theorem closeOpenBox_deliv (b : Box) (why : CloseReason) (d : Bool) (s : State) : (closeOpenBox b why d s).deliv = { s.deliv with
    openBox := none, waiting := s.deliv.waiting + 1, separator := true, nextBox := s.deliv.nextBox + 1#32,
    committedCloses := if d then s.deliv.committedCloses - 1 else s.deliv.committedCloses,
    log := logged s.deliv.log (closeEntry b why s) } := by
  unfold closeOpenBox
  dsimp only
  split
  · rfl
  · rw [(offer_touches _ _).deliv]
    rfl

theorem closeOpenBox_orders (b : Box) (why : CloseReason) (d : Bool) (s : State) :
    (closeOpenBox b why d s).orders = { s.orders with list := s.orders.list.map (credited b) } := by
  unfold closeOpenBox
  dsimp only
  split
  · rfl
  · rw [(offer_touches _ _).orders]
    rfl

theorem closeOpenBox_notices (b : Box) (why : CloseReason) (d : Bool) (s : State) : (closeOpenBox b why d s).notices =
    if b.quiet then s.notices else (offer (.boxClosed s.deliv.nextBox) s).notices := by
  unfold closeOpenBox
  dsimp only
  split
  · rfl
  · exact offer_notices _ rfl

theorem closeOpenBox_pos (b : Box) (why : CloseReason) (d : Bool) (s : State) : (closeOpenBox b why d s).pos = { s.pos with
    schedule := s.pos.schedule.filter (fun e => decide (e.event ≠ .separatorEnd)) ++ [separatorAfter s] } := by
  have hfilter (l : List Pending) : l.filter (fun e => !(e.event == .separatorEnd)) =
      l.filter (fun e => decide (e.event ≠ .separatorEnd)) := by
    refine List.filter_congr fun e _ => ?_
    cases e.event <;> rfl
  have hstart : (closeOpenBox b why d s).pos = { s.pos with
      schedule := s.pos.schedule.filter (fun e => !(e.event == .separatorEnd)) ++ [separatorAfter s] } := by
    unfold closeOpenBox
    dsimp only
    split
    · rfl
    · rw [(offer_touches _ _).pos]
      rfl
  rw [hstart, hfilter]

theorem counter_closeOpenBox (b : Box) (why : CloseReason) (d : Bool) (s : State) (c : Counter) :
    counter (closeOpenBox b why d s) c = if c = .boxesClosed then counter s c + 1#32 else counter s c := by
  rw [counter_congr (Ledger.closeOpenBox_counters b why d s), counter_count]

/-! ## The replay -/

/-- The COMMITTED records of a list, in its order. -/
def committedOnes (l : List Record) : List Record := l.filter (fun r => r.stage == .committed)

/-- The replay of the COMMITTED records of a list, from box `p`. -/
def replayed (s : State) (p : Option ProjectedBox) (l : List Record) : Nat × Option ProjectedBox × List Nat :=
  (committedOnes l).foldl (replayOne s) (0, p, [])

theorem replay_eq (s : State) : replay s =
    ((replayed s (s.deliv.openBox.map projectedOf) s.track.records).1,
      (replayed s (s.deliv.openBox.map projectedOf) s.track.records).2.1) := rfl

theorem replayOne_found {r : Record} {o : Order} (h : findOrder s r.tag = some o) (acc : Nat × Option ProjectedBox × List Nat) :
    replayOne s acc r =
      (acc.1 + (project o (o.delivered + acc.2.2.count r.tag + 1 == o.quantity) acc.2.1).1,
        (project o (o.delivered + acc.2.2.count r.tag + 1 == o.quantity) acc.2.1).2, r.tag :: acc.2.2) := by
  unfold replayOne
  rw [h]

theorem replayOne_unlisted {r : Record} (h : findOrder s r.tag = none) (acc : Nat × Option ProjectedBox × List Nat) :
    replayOne s acc r = acc := by
  unfold replayOne
  rw [h]

/-- The deliveries replayed of an order in the list are those of its COMMITTED records. -/
theorem replayed_count {tag : Nat} {o : Order} (h : findOrder s tag = some o) : ∀ (l : List Record)
    (acc : Nat × Option ProjectedBox × List Nat), ((l.foldl (replayOne s) acc).2.2).count tag =
      acc.2.2.count tag + l.countP (fun r => r.tag == tag)
  | [], _ => rfl
  | r :: l, acc => by
    rw [List.foldl_cons, replayed_count h l, List.countP_cons]
    by_cases hr : r.tag = tag
    · rw [replayOne_found (hr ▸ h)]
      simp [hr]
      omega
    · cases ho : findOrder s r.tag with
      | none => rw [replayOne_unlisted ho]; simp [hr]
      | some o' => rw [replayOne_found ho]; simp [hr]

/-- What the replay reads of an order. -/
def SameOrder (o o' : Order) : Prop :=
  o'.id = o.id ∧ o'.tag = o.tag ∧ o'.boxQuantity = o.boxQuantity ∧ o'.quantity = o.quantity ∧ o'.delivered = o.delivered

theorem project_same {o o' : Order} (h : SameOrder o o') (f : Bool) (p : Option ProjectedBox) : project o' f p = project o f p := by
  obtain ⟨hid, htag, hbox, -, -⟩ := h
  unfold project
  rw [hid, htag, hbox]

theorem replayOne_same {r : Record} (h : Option.Rel SameOrder (findOrder s r.tag) (findOrder t r.tag))
    (acc : Nat × Option ProjectedBox × List Nat) : replayOne t acc r = replayOne s acc r := by
  cases hs : findOrder s r.tag with
  | none =>
    rw [hs] at h
    cases ht : findOrder t r.tag with
    | none => rw [replayOne_unlisted hs, replayOne_unlisted ht]
    | some o' => rw [ht] at h; cases h
  | some o =>
    rw [hs] at h
    cases ht : findOrder t r.tag with
    | none => rw [ht] at h; cases h
    | some o' =>
      rw [ht] at h
      obtain ⟨hsame⟩ := h
      rw [replayOne_found hs, replayOne_found ht, project_same hsame, hsame.2.2.2.1, hsame.2.2.2.2]

theorem replayed_same (h : ∀ tag, Option.Rel SameOrder (findOrder s tag) (findOrder t tag)) (p : Option ProjectedBox)
    (l : List Record) : replayed t p l = replayed s p l := by
  unfold replayed
  exact congrArg (fun f => (committedOnes l).foldl f (0, p, [])) (funext fun acc => funext fun r => replayOne_same (h r.tag) acc)

theorem find?_map_rel {α : Type} {R : α → α → Prop} {f : α → α} {p : α → Bool} (hp : ∀ x, p (f x) = p x) (hR : ∀ x, R x (f x)) :
    ∀ l : List α, Option.Rel R (l.find? p) ((l.map f).find? p)
  | [] => .none
  | x :: l => by
    rw [List.map_cons, List.find?_cons, List.find?_cons, hp]
    cases p x
    · exact find?_map_rel hp hR l
    · exact .some (hR x)

theorem sameOrder_credited (b : Box) (o : Order) : SameOrder o (credited b o) := by
  unfold credited
  split <;> exact ⟨rfl, rfl, rfl, rfl, rfl⟩

theorem findOrder_credited (b : Box) (ht : t.orders.list = s.orders.list.map (credited b)) (tag : Nat) :
    Option.Rel SameOrder (findOrder s tag) (findOrder t tag) := by
  unfold findOrder
  rw [ht]
  refine find?_map_rel (fun o => ?_) (sameOrder_credited b) _
  rw [(sameOrder_credited b o).2.1]

/-! ## A replay from a box and from none -/

/-- Box `x` holds what box `y` holds and maybe more, `y` being none or of the same order. -/
def Ahead (x y : Option ProjectedBox) : Prop :=
  ∀ b, y = some b → ∃ a, x = some a ∧ a.order = b.order ∧ b.count ≤ a.count

/-- The box lies below its B, where its order is in the list. -/
def Below (l : List Order) (x : Option ProjectedBox) : Prop :=
  ∀ b, x = some b → ∀ o ∈ l, o.id = b.order → b.count < o.boxQuantity ∨ o.boxQuantity = 0

/-- The count of the projected box once a blank of order `o` has entered. -/
def entering (o : Order) (x : Option ProjectedBox) : Nat :=
  match x with
  | some b => if b.order = o.id then b.count + 1 else 1
  | none => 1

/-- The closes that the entry of a blank of order `o` begins with. -/
def changing (o : Order) (x : Option ProjectedBox) : Nat :=
  match x with
  | some b => if b.order = o.id then 0 else 1
  | none => 0

theorem project_entering (o : Order) (f : Bool) (x : Option ProjectedBox) : project o f x =
    if entering o x = o.boxQuantity ∨ f = true then (changing o x + 1, none)
    else (changing o x, some ⟨o.id, o.tag, entering o x⟩) := rfl

theorem entering_pos (o : Order) (x : Option ProjectedBox) : 1 ≤ entering o x := by
  unfold entering
  split
  · split <;> omega
  · omega

theorem entering_le {l : List Order} {o : Order} {x : Option ProjectedBox} (ho : o ∈ l) (h : Below l x) :
    entering o x ≤ o.boxQuantity ∨ o.boxQuantity = 0 := by
  unfold entering
  split
  · next b =>
    split
    · next hb =>
      have := h b rfl o ho hb.symm
      omega
    · omega
  · omega

theorem below_project {l : List Order} {o : Order} {x : Option ProjectedBox} (hl : (l.map Order.id).Nodup) (ho : o ∈ l)
    (h : Below l x) (f : Bool) : Below l (project o f x).2 := by
  rw [project_entering]
  split
  · intro b hb
    cases hb
  · next hno =>
    rintro b hb o' ho' hid
    cases hb
    obtain rfl : o' = o := List.inj_on_of_nodup_map hl ho' ho hid
    have hne : entering o' x ≠ o'.boxQuantity := fun hc => hno (.inl hc)
    have hle := entering_le ho h
    dsimp only
    omega

theorem ahead_none (x : Option ProjectedBox) : Ahead x none := fun b hb => by cases hb

theorem ahead_refl (x : Option ProjectedBox) : Ahead x x := fun b hb => ⟨b, hb, rfl, le_rfl⟩

theorem ahead_entered {i j a b : Nat} (h : b ≤ a) : Ahead (some ⟨i, j, a⟩) (some ⟨i, j, b⟩) := by
  rintro c hc
  cases hc
  exact ⟨_, rfl, rfl, h⟩

theorem entering_ahead {x y : Option ProjectedBox} (h : Ahead x y) (o : Order) :
    (changing o x = changing o y ∧ entering o y ≤ entering o x) ∨
      (changing o x = changing o y + 1 ∧ entering o y = entering o x) := by
  cases y with
  | none =>
    cases x with
    | none => exact .inl ⟨rfl, le_rfl⟩
    | some a => by_cases ha : a.order = o.id <;> simp [changing, entering, ha]
  | some b =>
    obtain ⟨a, rfl, hab, hle⟩ := h b rfl
    by_cases hb : b.order = o.id <;> simp [changing, entering, hab, hb, hle]

/-- One more delivery keeps the box ahead, unless it closes there: then a close is gained, and the other box is ahead. -/
theorem project_ahead {l : List Order} {o : Order} {x y : Option ProjectedBox} (ho : o ∈ l) (hx : Below l x) (h : Ahead x y)
    (f : Bool) : ((project o f x).1 = (project o f y).1 ∧ Ahead (project o f x).2 (project o f y).2) ∨
      ((project o f x).1 = (project o f y).1 + 1 ∧ Ahead (project o f y).2 (project o f x).2) := by
  have hbound := entering_le ho hx
  have hpos := entering_pos o y
  rw [project_entering, project_entering]
  rcases entering_ahead h o with ⟨hsame, hle⟩ | ⟨hmore, heq⟩
  · by_cases hclose : entering o x = o.boxQuantity ∨ f = true
    · rw [if_pos hclose, hsame]
      split
      · exact .inl ⟨rfl, ahead_none none⟩
      · exact .inr ⟨rfl, ahead_none _⟩
    · have hopen : ¬ (entering o y = o.boxQuantity ∨ f = true) := by
        rintro (hc | hc)
        · exact hclose (.inl (by omega))
        · exact hclose (.inr hc)
      rw [if_neg hclose, if_neg hopen]
      exact .inl ⟨hsame, ahead_entered hle⟩
  · rw [heq, hmore]
    split
    · exact .inr ⟨rfl, ahead_none none⟩
    · exact .inr ⟨rfl, ahead_refl _⟩

/-- Of two replays one is level with the other, with its box ahead, or a close before it, with its box behind. -/
def Leads (a b : Nat × Option ProjectedBox × List Nat) : Prop :=
  a.2.2 = b.2.2 ∧ ((a.1 = b.1 ∧ Ahead a.2.1 b.2.1) ∨ (a.1 = b.1 + 1 ∧ Ahead b.2.1 a.2.1))

theorem replayOne_leads {a b : Nat × Option ProjectedBox × List Nat} (hl : (s.orders.list.map Order.id).Nodup)
    (ha : Below s.orders.list a.2.1) (hb : Below s.orders.list b.2.1) (h : Leads a b) (r : Record) :
    Leads (replayOne s a r) (replayOne s b r) ∧ Below s.orders.list (replayOne s a r).2.1 ∧
      Below s.orders.list (replayOne s b r).2.1 := by
  cases ho : findOrder s r.tag with
  | none =>
    rw [replayOne_unlisted ho, replayOne_unlisted ho]
    exact ⟨h, ha, hb⟩
  | some o =>
    have hmem : o ∈ s.orders.list := List.mem_of_find?_eq_some ho
    obtain ⟨hdone, hcase⟩ := h
    rw [replayOne_found ho, replayOne_found ho, hdone]
    generalize (o.delivered + b.2.2.count r.tag + 1 == o.quantity) = f
    refine ⟨⟨rfl, ?_⟩, below_project hl hmem ha f, below_project hl hmem hb f⟩
    dsimp only
    rcases hcase with ⟨hk, hahead⟩ | ⟨hk, hahead⟩
    · rcases project_ahead hmem ha hahead f with ⟨hd, h'⟩ | ⟨hd, h'⟩
      · exact .inl ⟨by omega, h'⟩
      · exact .inr ⟨by omega, h'⟩
    · rcases project_ahead hmem hb hahead f with ⟨hd, h'⟩ | ⟨hd, h'⟩
      · exact .inr ⟨by omega, h'⟩
      · exact .inl ⟨by omega, h'⟩

theorem foldl_leads (hl : (s.orders.list.map Order.id).Nodup) : ∀ (rs : List Record) {a b : Nat × Option ProjectedBox × List Nat},
    Below s.orders.list a.2.1 → Below s.orders.list b.2.1 → Leads a b →
      (rs.foldl (replayOne s) b).1 ≤ (rs.foldl (replayOne s) a).1
  | [], a, b, _, _, h => by
    rcases h.2 with ⟨hk, -⟩ | ⟨hk, -⟩
    · exact hk.ge
    · show b.1 ≤ a.1
      omega
  | r :: rs, a, b, ha, hb, h => by
    obtain ⟨h', ha', hb'⟩ := replayOne_leads hl ha hb h r
    exact foldl_leads hl rs ha' hb' h'

/-- A replay from no box has no more closes than one from a box below its B. -/
theorem replayed_none_le {p : Option ProjectedBox} (hl : (s.orders.list.map Order.id).Nodup) (hp : Below s.orders.list p)
    (l : List Record) : (replayed s none l).1 ≤ (replayed s p l).1 :=
  foldl_leads hl _ hp (fun b hb => by cases hb) ⟨rfl, .inl ⟨rfl, ahead_none p⟩⟩

/-! ## CLOSE_BOX -/

/-- The close that a request makes. -/
def requested (b : Box) (s : State) : State := rebuildProjection (closeOpenBox b .request false s)

theorem requested_replay (b : Box) (s : State) : replay (requested b s) =
    ((replayed s none s.track.records).1, (replayed s none s.track.records).2.1) := by
  have hbox : (requested b s).deliv.openBox = none := congrArg DeliveryUnit.openBox (closeOpenBox_deliv b .request false s)
  have hrecords : (requested b s).track.records = s.track.records := by
    show (closeOpenBox b .request false s).track.records = _
    rw [(closeOpenBox_touches b .request false s).track]
  have horders : (requested b s).orders.list = s.orders.list.map (credited b) :=
    congrArg OrderUnit.list (closeOpenBox_orders b .request false s)
  rw [replay_eq, hbox, hrecords, replayed_same (findOrder_credited b horders)]
  rfl

theorem requested_deliv (b : Box) (s : State) : (requested b s).deliv = { s.deliv with
    openBox := none, waiting := s.deliv.waiting + 1, separator := true, nextBox := s.deliv.nextBox + 1#32,
    committedCloses := (replay (requested b s)).1, projected := (replay (requested b s)).2,
    log := logged s.deliv.log (closeEntry b .request s) } := by
  have hreplay : replay (requested b s) = replay (closeOpenBox b .request false s) := rfl
  rw [hreplay, requested, rebuildProjection_deliv, closeOpenBox_deliv]

theorem requested_touches (b : Box) (s : State) :
    Touches [.deliv, .counters, .orders, .pos, .notices] s (requested b s) :=
  (closeOpenBox_touches b .request false s).trans ((rebuildProjection_touches _).mono (by decide))

/-- Where K was that of the replay and the box below its B, K does not rise. -/
theorem requested_closes {b : Box} (hk : s.deliv.committedCloses = (replay s).1) (hbox : s.deliv.openBox = some b)
    (hl : (s.orders.list.map Order.id).Nodup) (hb : ∀ o ∈ s.orders.list, o.id = b.order → b.count < o.boxQuantity) :
    (requested b s).deliv.committedCloses ≤ s.deliv.committedCloses := by
  have hbelow : Below s.orders.list (s.deliv.openBox.map projectedOf) := by
    rw [hbox]
    rintro p hp o ho hid
    cases hp
    exact .inl (hb o ho hid)
  have hreplay : (requested b s).deliv.committedCloses = (replay (requested b s)).1 :=
    congrArg DeliveryUnit.committedCloses (requested_deliv b s)
  rw [hreplay, requested_replay, hk, replay_eq]
  exact replayed_none_le hl hbelow _

theorem closeBox_requests {b : Box} (hb : s.deliv.openBox = some b) (hroom : s.deliv.waiting + s.deliv.committedCloses < 4) :
    Machine.closeBox s = (requested b s, ⟨.ok, le32 s.deliv.nextBox.toNat ++ le8 (requested b s).deliv.waiting
      ++ le8 (requested b s).deliv.committedCloses⟩) := by
  unfold Machine.closeBox
  rw [hb]
  exact if_neg (by omega)

theorem replay_last {v : State} {r : Record} {rs : List Record} (hr : s.track.records = rs ++ [r])
    (hv : v = { s with track := { s.track with records := rs } }) :
    (r.stage = .opened → replay s = replay v) ∧
    (∀ o, r.stage = .committed → findOrder s r.tag = some o → replay s
      = ((replay v).1 + (project o (o.delivered + committedOf v r.tag + 1 == o.quantity) (replay v).2).1,
        (project o (o.delivered + committedOf v r.tag + 1 == o.quantity) (replay v).2).2)) := by
  have hvr : replayed v = replayed s := by rw [hv]; rfl
  have hvrec : v.track.records = rs := by rw [hv]
  have hvbox : v.deliv.openBox = s.deliv.openBox := by rw [hv]
  rw [replay_eq s, replay_eq v, hvr, hvrec, hvbox, hr]
  refine ⟨fun ho => ?_, fun o hc ho => ?_⟩
  · have : committedOnes (rs ++ [r]) = committedOnes rs := by simp [committedOnes, ho]
    rw [replayed, this, replayed]
  · have happend : committedOnes (rs ++ [r]) = committedOnes rs ++ [r] := by simp [committedOnes, hc]
    have hdone : (replayed s (s.deliv.openBox.map projectedOf) rs).2.2.count r.tag = committedOf v r.tag := by
      rw [replayed, replayed_count ho, List.count_nil, Nat.zero_add, committedOf, hvrec, committedOnes, List.countP_filter]
    have hstep : replayed s (s.deliv.openBox.map projectedOf) (rs ++ [r]) =
        replayOne s (replayed s (s.deliv.openBox.map projectedOf) rs) r := by
      rw [replayed, happend, List.foldl_append]
      rfl
    rw [hstep, replayOne_found ho, hdone]

/-- Settles O51: one close by request, and K by the replay from no box. -/
theorem closeBox : Obligations.CloseBox := by
  refine ⟨fun args s ha => ⟨fun hnone => ?_, fun b hb => ⟨fun hfull => ?_, fun hroom => ?_⟩⟩, fun s hnil => ?_,
    fun s v r rs hr hv => replay_last hr hv⟩
  · exact congrArg _ ((request_accepted ha 50 _).trans (by rw [Machine.closeBox, hnone]; rfl))
  · exact congrArg _ ((request_accepted ha 50 _).trans (by rw [Machine.closeBox, hb]; dsimp only; rw [if_pos hfull]; rfl))
  · have htouch := requested_touches b s
    have hdeliv := requested_deliv b s
    have hpos : (requested b s).pos = { s.pos with
        schedule := s.pos.schedule.filter (fun e => decide (e.event ≠ .separatorEnd)) ++ [separatorAfter s] } :=
      closeOpenBox_pos b .request false s
    have hcount (c : Counter) : counter (requested b s) c = if c = .boxesClosed then counter s c + 1#32 else counter s c :=
      counter_closeOpenBox b .request false s c
    refine ⟨requested b s, ?_, ?_, ?_, ?_, ?_, ?_, ?_, ?_, fun k hk => ?_, ⟨separatorAfter s, ?_, rfl, rfl⟩, ?_, fun hk hl hbox => ?_,
      ?_, hpos, htouch.app, htouch.insp, htouch.track, htouch.line, htouch.reg, htouch.store, htouch.lines⟩
    · refine congrArg _ ((request_accepted ha 50 _).trans ?_)
      rw [closeBox_requests hb hroom, List.append_assoc]
      rfl
    · rw [hdeliv]
    · rw [hdeliv]
    · rw [hdeliv]
    · rw [hdeliv]
    · rw [hdeliv]
      exact List.getLast?_concat
    · rw [hdeliv]
    · rw [hcount, if_pos rfl]
    · rw [hcount, if_neg hk]
    · rw [hpos]
      exact List.mem_append_right _ (List.mem_singleton_self _)
    · exact closeOpenBox_notices b .request false s
    · have hle := requested_closes hk hb hl hbox
      have hwaiting : (requested b s).deliv.waiting = s.deliv.waiting + 1 := congrArg DeliveryUnit.waiting hdeliv
      exact ⟨hle, by omega⟩
    · refine (closeOpenBox_orders b .request false s).trans ?_
      simp [credited]
  · rw [replay_eq, hnil]
    rfl

end Sys2Proof.BoxRules
end

section
/-! SUPPORT. A delivery: the closes that it brings, the box that its blank enters, and the record that leaves (08 R142). -/

namespace Sys2Proof.DeliveryRules

open Sys2Proof.Machine Sys2Proof.Overlay Sys2Proof.Removal Sys2Proof.RegisterRules Sys2Proof.StationRules Sys2Proof.BlankRules
  Sys2Proof.Leaving Sys2Proof.GateRules Sys2Proof.BoxRules

set_option Elab.async false

variable {s t u : State}

/-! ## The Box Log -/

theorem length_logged {l : List BoxEntry} (h : l.length ≤ 32) (e : BoxEntry) : (logged l e).length ≤ 32 := by
  unfold logged
  split <;> simp <;> omega

theorem logged_eq {l : List BoxEntry} (h : l.length ≤ 32) (e : BoxEntry) : logged l e = (l ++ [e]).drop (l.length + 1 - 32) := by
  unfold logged
  by_cases hl : l.length < 32
  · rw [if_pos hl, show l.length + 1 - 32 = 0 by omega, List.drop_zero]
  · rw [if_neg hl, show l.length + 1 - 32 = 1 by omega, List.drop_append_of_le_length (by omega)]

/-- However many entries join, the last 32 are kept. -/
theorem foldl_logged : ∀ (es : List BoxEntry) {l : List BoxEntry}, l.length ≤ 32 →
    es.foldl logged l = (l ++ es).drop (l.length + es.length - 32)
  | [], l, h => by rw [List.foldl_nil, List.append_nil, List.length_nil, show l.length + 0 - 32 = 0 by omega, List.drop_zero]
  | e :: es, l, h => by
    rw [List.foldl_cons, foldl_logged es (length_logged h e), logged_eq h, ← List.drop_append_of_le_length (by simp; omega),
      List.drop_drop, List.append_assoc, List.singleton_append]
    congr 1
    simp
    omega

/-! ## Closes by delivery -/

/-- The close, if any, of a delivery's step. -/
def closing (c : Option (Box × CloseReason)) (s : State) : State :=
  match c with
  | some x => closeOpenBox x.1 x.2 true s
  | none => s

/-- The log entries of that close. -/
def closeEntries (c : Option (Box × CloseReason)) (s : State) : List BoxEntry := c.toList.map (fun x => closeEntry x.1 x.2 s)

/-- Its notices. -/
def closeBells (c : Option (Box × CloseReason)) (s : State) : List Notice :=
  (c.toList.filter (fun x => !x.1.quiet)).map (fun _ => .boxClosed s.deliv.nextBox)

/-- Its credit to an order. -/
def closeCredit (c : Option (Box × CloseReason)) (o : Order) : Nat := if c.any (fun x => o.id == x.1.order) then 1 else 0

theorem closing_touches (c : Option (Box × CloseReason)) (s : State) :
    Touches [.deliv, .counters, .orders, .pos, .notices] s (closing c s) := by
  cases c with
  | none => exact .refl _ s
  | some x => exact closeOpenBox_touches _ _ _ s

theorem closing_deliv (c : Option (Box × CloseReason)) (s : State) : (closing c s).deliv = { s.deliv with
    openBox := if c.isSome then none else s.deliv.openBox, waiting := s.deliv.waiting + c.toList.length,
    committedCloses := s.deliv.committedCloses - c.toList.length, nextBox := s.deliv.nextBox + BitVec.ofNat 32 c.toList.length,
    separator := s.deliv.separator || c.isSome, log := (closeEntries c s).foldl logged s.deliv.log } := by
  cases c with
  | none => simp [closing, closeEntries]
  | some x => rw [closing, closeOpenBox_deliv]; simp [closeEntries]

theorem closing_orders (c : Option (Box × CloseReason)) (s : State) : (closing c s).orders = { s.orders with
    list := s.orders.list.map (fun o => { o with boxesClosed := o.boxesClosed + closeCredit c o }) } := by
  cases c with
  | none => simp [closing, closeCredit]
  | some x =>
    have hcredit : credited x.1 = fun o => { o with boxesClosed := o.boxesClosed + closeCredit (some x) o } := by
      funext o
      by_cases h : o.id = x.1.order <;> simp [credited, closeCredit, h]
    rw [closing, closeOpenBox_orders, hcredit]

theorem closing_notices (c : Option (Box × CloseReason)) (s : State) :
    (closing c s).notices = ((closeBells c s).foldl (fun v b => offer b v) s).notices := by
  cases c with
  | none => rfl
  | some x =>
    rw [closing, closeOpenBox_notices]
    cases hq : x.1.quiet <;> simp [closeBells, hq]

theorem closing_schedule (c : Option (Box × CloseReason)) (s : State) : (closing c s).pos = { s.pos with
    schedule := if c.isSome then s.pos.schedule.filter (fun e => decide (e.event ≠ .separatorEnd)) ++ [separatorAfter s]
      else s.pos.schedule } := by
  cases c with
  | none => rfl
  | some x => rw [closing, closeOpenBox_pos]; rfl

theorem counter_closing (c : Option (Box × CloseReason)) (s : State) (k : Counter) : counter (closing c s) k =
    counter s k + BitVec.ofNat 32 (if k = .boxesClosed then c.toList.length else 0) := by
  cases c with
  | none => simp [closing]
  | some x =>
    rw [closing, counter_closeOpenBox]
    split <;> simp

theorem liveOnly_closing (c : Option (Box × CloseReason)) (s : State) : LiveOnly s (closing c s) := by
  cases c with
  | none => exact liveOnly_of_eq rfl
  | some x =>
    rw [closing, LiveOnly, Ledger.closeOpenBox_counters]
    rfl

/-! ## The blank in its box -/

/-- The box that a change of order closes (08 R142 step 1). -/
def oldBox (o : Order) (s : State) : Option Box :=
  match s.deliv.openBox with
  | some b => if b.order = o.id then none else some b
  | none => none

/-- The box with the blank in it (08 R142 step 2). -/
def filledBox (o : Order) (s : State) : Box :=
  match s.deliv.openBox with
  | some b => if b.order = o.id then { b with count := b.count + 1 } else ⟨o.id, o.tag, o.boxesClosed + 1, 1, o.boxQuantity, o.quiet⟩
  | none => ⟨o.id, o.tag, o.boxesClosed + 1, 1, o.boxQuantity, o.quiet⟩

theorem filledBox_order (o : Order) (s : State) : (filledBox o s).order = o.id := by
  unfold filledBox
  split
  · next b =>
    split
    · next hb => exact hb
    · rfl
  · rfl

/-- Why the box with the blank in it closes (08 R142 step 3). -/
def closeWhy (o : Order) (b : Box) : Option CloseReason :=
  if o.delivered + 1 = o.quantity then some .final else if b.count = b.boxQuantity then some .full else none

theorem deliverChange_eq (o : Order) (s : State) :
    deliverChange o s = closing ((oldBox o s).map (fun b => (b, .orderChange))) s := by
  cases hb : s.deliv.openBox with
  | none => simp only [deliverChange, oldBox, hb, Option.map_none, closing]
  | some b => by_cases h : b.order = o.id <;> simp [deliverChange, oldBox, hb, h, closing]

/-- The blank entered: the box as it then is, and one delivery more of its order. -/
def entered (o : Order) (b : Box) (s : State) : State :=
  modifyOrder o.tag (fun x => { x with delivered := x.delivered + 1 }) { s with deliv := { s.deliv with openBox := some b } }

theorem deliverEntry_eq (o : Order) (s : State) : deliverEntry o (closing ((oldBox o s).map (fun b => (b, .orderChange))) s) =
    entered o (filledBox o s) (closing ((oldBox o s).map (fun b => (b, .orderChange))) s) := by
  have hbox : (closing ((oldBox o s).map (fun b => (b, .orderChange))) s).deliv.openBox =
      if (oldBox o s).isSome then none else s.deliv.openBox := by
    rw [closing_deliv]
    simp
  have hfilled : filledBox o s = { ((if (oldBox o s).isSome then none else s.deliv.openBox).getD
      ⟨o.id, o.tag, o.boxesClosed + 1, 0, o.boxQuantity, o.quiet⟩) with
      count := ((if (oldBox o s).isSome then none else s.deliv.openBox).getD
        ⟨o.id, o.tag, o.boxesClosed + 1, 0, o.boxQuantity, o.quiet⟩).count + 1 } := by
    cases hb : s.deliv.openBox with
    | none => simp [filledBox, oldBox, hb]
    | some b => by_cases h : b.order = o.id <;> simp [filledBox, oldBox, hb, h]
  unfold deliverEntry
  rw [hbox, entered, hfilled]

theorem deliverClose_eq {o o' : Order} {b : Box} (hb : t.deliv.openBox = some b) (hd : o'.delivered = o.delivered + 1)
    (hq : o'.quantity = o.quantity) : deliverClose o' t = closing ((closeWhy o b).map (fun w => (b, w))) t := by
  unfold deliverClose closeWhy
  rw [hb]
  dsimp only
  rw [hd, hq]
  split
  · rfl
  · split <;> rfl

/-- What a delivery leaves before its record leaves the list. -/
def filled (o : Order) (s : State) : State :=
  closing ((closeWhy o (filledBox o s)).map (fun w => (filledBox o s, w)))
    (entered o (filledBox o s) (closing ((oldBox o s).map (fun b => (b, .orderChange))) s))

theorem findOrder_entered {o : Order} (h : findOrder s o.tag = some o) (c : Option (Box × CloseReason)) (b : Box) :
    ∃ o', findOrder (entered o b (closing c s)) o.tag = some o' ∧ o'.delivered = o.delivered + 1 ∧ o'.quantity = o.quantity := by
  have hlist : (entered o b (closing c s)).orders.list = s.orders.list.map (fun y =>
      if y.tag == o.tag then { y with boxesClosed := y.boxesClosed + closeCredit c y, delivered := y.delivered + 1 }
      else { y with boxesClosed := y.boxesClosed + closeCredit c y }) := by
    show (closing c s).orders.list.map _ = _
    rw [closing_orders, List.map_map]
    rfl
  have hp : (fun y : Order => (if y.tag == o.tag
      then { y with boxesClosed := y.boxesClosed + closeCredit c y, delivered := y.delivered + 1 }
      else { y with boxesClosed := y.boxesClosed + closeCredit c y }).tag == o.tag) = fun y => y.tag == o.tag := by
    funext y
    split <;> rfl
  refine ⟨{ o with boxesClosed := o.boxesClosed + closeCredit c o, delivered := o.delivered + 1 }, ?_, rfl, rfl⟩
  unfold findOrder at *
  rw [hlist, List.find?_map]
  simp only [Function.comp_def, hp]
  rw [h, Option.map_some, if_pos (by simp)]

theorem deliverAt_found {q : U32} {r : Record} {o : Order} (h : findRecord s q = some r) (ho : findOrder s r.tag = some o) :
    deliverAt q s = removeRecord r [.deliveredGood] (filled o s) := by
  have htag := tag_of_findOrder ho
  obtain ⟨o', ho', hd, hq⟩ := findOrder_entered (htag ▸ ho) ((oldBox o s).map (fun b => (b, .orderChange))) (filledBox o s)
  unfold deliverAt
  rw [h]
  dsimp only
  rw [ho]
  dsimp only
  rw [deliverChange_eq, deliverEntry_eq, ← htag, ho']
  dsimp only
  rw [deliverClose_eq (o := o) (b := filledBox o s) rfl hd hq]
  rfl

/-! ## What is filled -/

theorem entered_touches (o : Order) (b : Box) (s : State) : Touches [.deliv, .orders] s (entered o b s) :=
  (setDeliv_touches _ s).andThen (modifyOrder_touches _ _ _) (by decide) (by decide)

theorem filled_touches (o : Order) (s : State) : Touches [.deliv, .counters, .orders, .pos, .notices] s (filled o s) :=
  ((closing_touches _ s).trans ((entered_touches o _ _).mono (by decide))).trans (closing_touches _ _)

/-- The two closes of a delivery, and the blank between them. -/
def delivered (c d : Option (Box × CloseReason)) (o : Order) (b : Box) (s : State) : State :=
  closing d (entered o b (closing c s))

/-- The state that the second close finds, as far as its log entry and its notice read it. -/
def afterFirst (c : Option (Box × CloseReason)) (s : State) : State :=
  { s with deliv := { s.deliv with nextBox := s.deliv.nextBox + BitVec.ofNat 32 c.toList.length } }

theorem afterFirst_reads (c : Option (Box × CloseReason)) (o : Order) (b : Box) (s : State) :
    (entered o b (closing c s)).deliv.nextBox = (afterFirst c s).deliv.nextBox ∧
    pitchNumber (entered o b (closing c s)) = pitchNumber s ∧ separatorAfter (entered o b (closing c s)) = separatorAfter s := by
  have hdeliv := closing_deliv c s
  have hpos := closing_schedule c s
  refine ⟨?_, ?_, ?_⟩
  · show (closing c s).deliv.nextBox = _
    rw [hdeliv]
    rfl
  · show pitchNumber (closing c s) = _
    rw [pitchNumber, hpos]
    rfl
  · show separatorAfter (closing c s) = _
    rw [separatorAfter, hpos, (closing_touches c s).store]
    rfl

theorem closeEntries_second (c d : Option (Box × CloseReason)) (o : Order) (b : Box) (s : State) :
    closeEntries d (entered o b (closing c s)) = closeEntries d (afterFirst c s) := by
  obtain ⟨hnext, hpitch, -⟩ := afterFirst_reads c o b s
  unfold closeEntries closeEntry
  rw [hnext, hpitch]
  rfl

theorem closeBells_second (c d : Option (Box × CloseReason)) (o : Order) (b : Box) (s : State) :
    closeBells d (entered o b (closing c s)) = closeBells d (afterFirst c s) := by
  unfold closeBells
  rw [(afterFirst_reads c o b s).1]

theorem delivered_deliv (c d : Option (Box × CloseReason)) (o : Order) (b : Box) (s : State) :
    (delivered c d o b s).deliv = { s.deliv with
      openBox := if d.isSome then none else some b, waiting := s.deliv.waiting + (c.toList.length + d.toList.length),
      committedCloses := s.deliv.committedCloses - (c.toList.length + d.toList.length),
      nextBox := s.deliv.nextBox + BitVec.ofNat 32 (c.toList.length + d.toList.length),
      separator := s.deliv.separator || decide (0 < c.toList.length + d.toList.length),
      log := (closeEntries c s ++ closeEntries d (afterFirst c s)).foldl logged s.deliv.log } := by
  have hentered : (entered o b (closing c s)).deliv = { (closing c s).deliv with openBox := some b } := rfl
  rw [delivered, closing_deliv, closeEntries_second, hentered, closing_deliv, List.foldl_append, BitVec.ofNat_add,
    ← BitVec.add_assoc, ← Nat.add_assoc, Nat.sub_sub]
  cases c <;> cases d <;> simp

/-- What a delivery makes of an order (08 R142, R143). -/
def deliveredOrder (c d : Option (Box × CloseReason)) (o y : Order) : Order :=
  { y with
    delivered := if y.tag = o.tag then y.delivered + 1 else y.delivered
    boxesClosed := y.boxesClosed + closeCredit c y + closeCredit d y }

theorem delivered_orders (c d : Option (Box × CloseReason)) (o : Order) (b : Box) (s : State) :
    (delivered c d o b s).orders = { s.orders with list := s.orders.list.map (deliveredOrder c d o) } := by
  have hentered : (entered o b (closing c s)).orders = { (closing c s).orders with
      list := (closing c s).orders.list.map (fun x => if x.tag == o.tag then { x with delivered := x.delivered + 1 } else x) } := rfl
  have hcomp : (fun y : Order => { y with boxesClosed := y.boxesClosed + closeCredit d y }) ∘
      ((fun x : Order => if x.tag == o.tag then { x with delivered := x.delivered + 1 } else x) ∘
        fun y : Order => { y with boxesClosed := y.boxesClosed + closeCredit c y }) = deliveredOrder c d o := by
    funext y
    by_cases h : y.tag = o.tag <;> simp [deliveredOrder, h, closeCredit]
  rw [delivered, closing_orders, hentered, closing_orders]
  simp only [List.map_map, hcomp]

theorem foldl_offer_notices (h : s.notices = t.notices) : ∀ bells : List Notice,
    (bells.foldl (fun v b => offer b v) s).notices = (bells.foldl (fun v b => offer b v) t).notices := by
  intro bells
  induction bells generalizing s t with
  | nil => exact h
  | cons b bells ih => exact ih (offer_notices b h)

theorem delivered_notices (c d : Option (Box × CloseReason)) (o : Order) (b : Box) (s : State) : (delivered c d o b s).notices =
    ((closeBells c s ++ closeBells d (afterFirst c s)).foldl (fun v b => offer b v) s).notices := by
  rw [delivered, closing_notices, closeBells_second, List.foldl_append]
  have hfirst : (entered o b (closing c s)).notices = ((closeBells c s).foldl (fun v b => offer b v) s).notices :=
    closing_notices c s
  exact foldl_offer_notices hfirst _

theorem delivered_pos (c d : Option (Box × CloseReason)) (o : Order) (b : Box) (s : State) : (delivered c d o b s).pos =
    { s.pos with schedule := if 0 < c.toList.length + d.toList.length
      then s.pos.schedule.filter (fun e => decide (e.event ≠ .separatorEnd)) ++ [separatorAfter s] else s.pos.schedule } := by
  have hentered : (entered o b (closing c s)).pos = (closing c s).pos := rfl
  rw [delivered, closing_schedule, (afterFirst_reads c o b s).2.2, hentered, closing_schedule]
  cases c <;> cases d <;> simp [separatorAfter, plainEvent]

theorem counter_delivered (c d : Option (Box × CloseReason)) (o : Order) (b : Box) (s : State) (k : Counter) :
    counter (delivered c d o b s) k =
      counter s k + BitVec.ofNat 32 (if k = .boxesClosed then c.toList.length + d.toList.length else 0) := by
  have hentered : counter (entered o b (closing c s)) k = counter (closing c s) k := rfl
  rw [delivered, counter_closing, hentered, counter_closing]
  split
  · rw [BitVec.ofNat_add, BitVec.add_assoc]
  · simp

theorem eventsLeft_restarted (qs : List U32) (l : List Pending) (x : Pos) :
    eventsLeft qs (l.filter (fun e => decide (e.event ≠ .separatorEnd)) ++ [plainEvent x .separatorEnd]) =
      (eventsLeft qs l).filter (fun e => decide (e.event ≠ .separatorEnd)) ++ [plainEvent x .separatorEnd] := by
  unfold eventsLeft
  rw [List.filter_append, List.filter_filter, List.filter_filter]
  congr 1
  exact List.filter_congr fun e _ => Bool.and_comm _ _

theorem hwm_taken {e : Scheduled} {p : Pending} (hu : takeScheduled e s = some (p, u)) : u.pos.hwm = s.pos.hwm := by
  obtain ⟨_, _, _, rfl⟩ := takeScheduled_some hu
  rfl

/-- Settles O50: the closes and the entry of the blank, then the removal of its record. -/
theorem delivers : Obligations.Delivers := by
  intro q s u p r o old why pre box n entries bells hh hu hr ho hpre hold hbox hwhy hn hentries hbells
  have htaken := takeScheduled_touches hu
  have hq := seq_of_findRecord hr
  have htag := tag_of_findOrder ho
  have hpre' : pre = oldBox o u := by rw [hpre, oldBox, htaken.deliv] <;> rfl
  have hbox' : box = filledBox o u := by rw [hbox, filledBox, htaken.deliv] <;> rfl
  have hwhy' : why = closeWhy o box := hwhy
  have hexec : exec (.deliveryEvent q) s = .next (removeRecord r [.deliveredGood] (filled o u)) := by
    refine (exec_taken (z := 0) hh hu).trans (congrArg _ ?_)
    exact deliverAt_found ((findRecord_congr htaken.track q).trans hr) ((findOrder_congr htaken.orders r.tag).trans ho)
  have hfilled : filled o u = delivered (pre.map (fun b => (b, .orderChange))) (why.map (fun w => (box, w))) o box u := by
    rw [hwhy', hpre', hbox']
    rfl
  generalize hw : filled o u = w at *
  have hremoved := removeRecord_removed r [.deliveredGood] w
  have hremove := removeRecord_touches r [.deliveredGood] w
  have htouch : Touches [.deliv, .counters, .orders, .pos, .notices] u w := hw ▸ filled_touches o u
  have hlength : (pre.map (fun b => (b, CloseReason.orderChange))).toList.length + (why.map (fun w => (box, w))).toList.length = n := by
    rw [hn, hold]
    cases pre <;> cases why <;> rfl
  have hdeliv : w.deliv = { s.deliv with
      openBox := if why.isSome then none else some box, waiting := s.deliv.waiting + n,
      committedCloses := s.deliv.committedCloses - n, nextBox := s.deliv.nextBox + BitVec.ofNat 32 n,
      separator := s.deliv.separator || decide (0 < n), log := entries.foldl logged s.deliv.log } := by
    have hlog : closeEntries (pre.map (fun b => (b, CloseReason.orderChange))) u ++
        closeEntries (why.map (fun w => (box, w))) (afterFirst (pre.map (fun b => (b, CloseReason.orderChange))) u) = entries := by
      rw [hentries, hold]
      cases pre <;> cases why <;> simp [closeEntries, closeEntry, afterFirst, htaken.deliv, pitchNumber, hwm_taken hu]
    rw [hfilled, delivered_deliv, hlength, hlog, htaken.deliv, Option.isSome_map]
  have hpos : w.pos = { u.pos with
      schedule := if 0 < n then u.pos.schedule.filter (fun e => decide (e.event ≠ .separatorEnd)) ++
          [plainEvent (posAdd s.pos.hwm s.store.inForce.general.separatorLength) .separatorEnd]
        else u.pos.schedule } := by
    rw [hfilled, delivered_pos, hlength, separatorAfter, htaken.store, hwm_taken hu]
  have hschedule : (removeRecord r [.deliveredGood] w).pos.schedule = if 0 < n then
      (eventsLeft [q] u.pos.schedule).filter (fun e => decide (e.event ≠ .separatorEnd))
        ++ [plainEvent (posAdd s.pos.hwm s.store.inForce.general.separatorLength) .separatorEnd]
      else eventsLeft [q] u.pos.schedule := by
    rw [hremoved.pos, hpos, hq]
    by_cases h0 : 0 < n
    · simp only [if_pos h0, eventsLeft_restarted]
    · simp only [if_neg h0]
  have hcount (k : Counter) : counter (removeRecord r [.deliveredGood] w) k = counter s k +
      BitVec.ofNat 32 (if k = .boxesClosed then n else 0) + BitVec.ofNat 32 ([Counter.deliveredGood].count k) := by
    rw [counter_removeRecord, hfilled, counter_delivered, hlength, counter_congr htaken.counters]
  refine ⟨_, hexec, ?_, ?_, ?_, fun k hk hkb => ?_, ?_, fun hlog => ?_, fun h0 => ?_, ?_, ?_, ?_, ?_, ?_, ?_, fun j => ?_, ?_, ?_⟩
  · rw [removeRecord_track, htouch.track, htaken.track, hq]
  · rw [hcount]
    simp
  · rw [hcount]
    simp
  · rw [hcount]
    simp [hk.symm, hkb]
  · rw [hremove.deliv, hdeliv]
  · rw [hremove.deliv, hdeliv]
    have hlen : entries.length = n := by
      rw [hentries, hn]
      simp [hold, Option.toList_map]
    rw [← hlen]
    exact foldl_logged entries hlog
  · refine ⟨plainEvent (posAdd s.pos.hwm s.store.inForce.general.separatorLength) .separatorEnd, ?_, rfl, rfl⟩
    rw [hschedule, if_pos h0]
    exact List.mem_append_right _ (List.mem_singleton_self _)
  · rw [hremoved.line, htouch.line, htaken.line]
  · rw [hremove.lines, htouch.lines, htaken.lines]
  · rw [hremoved.trim, htouch.reg, htaken.reg]
  · rw [hremove.mgmt, htouch.mgmt, htaken.mgmt]
  · rw [hremove.ring, htouch.ring, htaken.ring]
  · rw [← hq]
    exact blanksLeft_congr (htouch.app.trans htaken.app).symm (htouch.insp.trans htaken.insp).symm rfl rfl hremoved.blanks
  · rw [hremoved.insp, inspChannel_congr htouch.insp, inspChannel_congr htaken.insp]
  · rw [← hschedule, hremoved.pos, hpos]
  · have hbell : closeBells (pre.map (fun b => (b, CloseReason.orderChange))) u ++
        closeBells (why.map (fun w => (box, w))) (afterFirst (pre.map (fun b => (b, CloseReason.orderChange))) u) = bells := by
      rw [hbells, hold]
      cases pre with
      | none => cases why <;> cases hquiet : box.quiet <;> simp [closeBells, afterFirst, htaken.deliv, hquiet]
      | some b =>
        cases hquietb : b.quiet <;> cases why <;> cases hquiet : box.quiet <;>
          simp [closeBells, afterFirst, htaken.deliv, hquiet, hquietb]
    have hoffers : Touches [.notices] s (bells.foldl (fun v b => offer b v) s) :=
      Touches.foldl (fun v b => offer_touches b v) bells s
    refine afterTest_source ?_ ?_ ?_ ?_ ?_ hremoved.test
    · exact (htouch.store.trans htaken.store).trans hoffers.store.symm
    · have hmap : deliveredOrder (pre.map (fun b => (b, CloseReason.orderChange))) (why.map (fun w => (box, w))) o =
          fun y => { y with
            delivered := if y.tag = o.tag then y.delivered + 1 else y.delivered
            boxesClosed := y.boxesClosed + (if pre.any (fun b => y.id == b.order) then 1 else 0)
              + (if why.isSome && y.id == o.id then 1 else 0) } := by
        have horder : box.order = o.id := hbox' ▸ filledBox_order o u
        funext y
        cases pre <;> cases why <;> simp [deliveredOrder, closeCredit, horder]
      rw [hfilled, delivered_orders, hmap, htaken.orders]
    · rw [hfilled, delivered_notices, hbell]
      exact foldl_offer_notices htaken.notices _
    · exact (htouch.reg.trans htaken.reg).trans hoffers.reg.symm
    · rw [hpos]
      dsimp only
      rw [due_taken hu, hoffers.pos]

end Sys2Proof.DeliveryRules
end

section
/-! SUPPORT. Activation, selection and departure of orders: what they make of list, notices and register source (07 R119 to
R121, R130, R131). -/

namespace Sys2Proof.Activation

open Sys2Proof.Machine Sys2Proof.Overlay Sys2Proof.RegisterRules Sys2Proof.StationRules Sys2Proof.OrderRules Sys2Proof.Leaving
  Sys2Proof.GateRules

set_option Elab.async false

variable {s t u : State} {o : Order}

/-! ## Orders by tag -/

theorem findOrder_of_mem (hnd : (s.orders.list.map Order.tag).Nodup) (ho : o ∈ s.orders.list) : findOrder s o.tag = some o := by
  obtain ⟨x, hx⟩ := Option.isSome_iff_exists.mp (List.find?_isSome.mpr ⟨o, ho, beq_self_eq_true o.tag⟩ :
    (findOrder s o.tag).isSome = true)
  have hfind : findOrder s o.tag = some x := hx
  rw [hfind, List.inj_on_of_nodup_map hnd (List.mem_of_find?_eq_some hx) ho (tag_of_findOrder hx)]

theorem findOrder_map {f : Order → Order} (hf : ∀ x, (f x).tag = x.tag) (h : t.orders.list = s.orders.list.map f) (tag : Nat) :
    findOrder t tag = (findOrder s tag).map f := by
  unfold findOrder
  rw [h, List.find?_map]
  simp only [Function.comp_def, hf]

theorem findOrder_none {tag : Nat} : findOrder s tag = none ↔ ∀ x ∈ s.orders.list, x.tag ≠ tag := by
  simp [findOrder]

theorem nextOrder_queued (h : nextOrder s = some o) : o ∈ s.orders.list ∧ o.state = .queued := by
  unfold nextOrder at h
  split at h
  · next x hx =>
    cases h
    have hp := List.find?_some hx
    simp only [Bool.and_eq_true, beq_iff_eq] at hp
    exact ⟨List.mem_of_find?_eq_some hx, hp.1⟩
  · have hp := List.find?_some h
    simp only [Bool.and_eq_true, beq_iff_eq] at hp
    exact ⟨List.mem_of_find?_eq_some h, hp.1⟩

theorem nextOrder_none : nextOrder s = none ↔ ∀ x ∈ s.orders.list, x.state ≠ .queued := by
  unfold nextOrder
  constructor
  · intro h
    split at h
    · cases h
    · next hp =>
      intro x hx hq
      have hprio := List.find?_eq_none.mp hp x hx
      have hnorm := List.find?_eq_none.mp h x hx
      cases hl : x.lane <;> simp [hq, hl] at hprio hnorm
  · intro h
    have hnone (l : Lane) : s.orders.list.find? (fun o => o.state == .queued && o.lane == l) = none := by
      refine List.find?_eq_none.mpr fun x hx => ?_
      simp [h x hx]
    rw [hnone, hnone]

/-- The source depends on state, lane and slot of the orders alone. -/
theorem wantedSource_map {f : Order → Order} (hf : ∀ x, (f x).state = x.state ∧ (f x).lane = x.lane ∧ (f x).slot = x.slot)
    (h : t.orders.list = s.orders.list.map f) : wantedSource t = wantedSource s := by
  have hstate (x : Order) := (hf x).1
  have hlane (x : Order) := (hf x).2.1
  have hslot (x : Order) : (f x).slot = x.slot := (hf x).2.2
  have hactive : activeOrder t = (activeOrder s).map f := by
    unfold activeOrder
    rw [h, List.find?_map]
    simp only [Function.comp_def, hstate]
  have hnext : nextOrder t = (nextOrder s).map f := by
    unfold nextOrder
    rw [h, List.find?_map, List.find?_map]
    simp only [Function.comp_def, hstate, hlane]
    cases s.orders.list.find? (fun o => o.state == .queued && o.lane == .priority) <;> rfl
  unfold wantedSource
  rw [hactive, hnext]
  cases activeOrder s with
  | some x => exact congrArg some (hslot x)
  | none =>
    cases nextOrder s with
    | none => rfl
    | some x => exact congrArg some (hslot x)

theorem wantedSource_orders (h : t.orders.list = s.orders.list) : wantedSource t = wantedSource s :=
  wantedSource_map (f := id) (fun _ => ⟨rfl, rfl, rfl⟩) (by rw [h, List.map_id])

theorem nextOrder_orders (h : t.orders.list = s.orders.list) : nextOrder t = nextOrder s := by
  unfold nextOrder
  rw [h]

/-! ## The early notice -/

/-- Whether the early test of order `o` sends its notice (07 R131). -/
def earlyDue (s : State) (o : Order) : Bool :=
  decide (0 < o.early ∧ o.earlySent = false ∧ o.quantity ≤ o.early + passedOf s o)

theorem earlyTest_eq {tag : Nat} (h : findOrder s tag = some o) : earlyTest tag s =
    if earlyDue s o then modifyOrder tag (fun x => { x with earlySent := true })
      (offer (.earlyEnd tag (o.quantity - passedOf s o)) s) else s := by
  by_cases hdue : 0 < o.early ∧ o.earlySent = false ∧ o.quantity ≤ o.early + passedOf s o
  · rw [earlyDue, decide_eq_true hdue, if_pos rfl, earlyTest_sends h hdue.1 hdue.2.1 hdue.2.2]
  · rw [earlyDue, decide_eq_false hdue, if_neg Bool.false_ne_true]
    refine earlyTest_silent h ?_
    by_cases h0 : o.early = 0
    · exact .inl h0
    · by_cases hs : o.earlySent = true
      · exact .inr (.inl hs)
      · exact .inr (.inr (by
          have : ¬ o.quantity ≤ o.early + passedOf s o := fun hq => hdue ⟨by omega, by simpa using hs, hq⟩
          omega))

/-! ## Activation (07 R119) -/

/-- An activation before its switch event and its early notice. -/
def activating (o : Order) (s : State) : State :=
  { s with orders := { s.orders with
      list := s.orders.list.map (fun x => if x.tag == o.tag then { x with state := .active } else x),
      feedState := .feeding, runningClass := some (formatClassOf s o) } }

theorem activate_eq (o : Order) (s : State) : activate o s = earlyTest o.tag (updateSource (activating o s)) := rfl

theorem findOrder_activating (h : findOrder s o.tag = some o) :
    findOrder (updateSource (activating o s)) o.tag = some { o with state := .active } := by
  rw [findOrder_congr (updateSource_touches _).orders,
    findOrder_map (s := s) (f := fun x => if x.tag == o.tag then { x with state := .active } else x)
      (fun x => by split <;> rfl) rfl, h, Option.map_some, if_pos (by simp)]

theorem passedOf_activating (o : Order) (s : State) :
    passedOf (updateSource (activating o s)) { o with state := .active } = passedOf s o := by
  rw [passedOf, committedOf_congr (updateSource_touches _).track]
  rfl

/-- The list after an activation. -/
def activeList (o : Order) (early : Bool) (l : List Order) : List Order :=
  l.map (fun y => if y.tag == o.tag then { y with state := .active, earlySent := y.earlySent || early } else y)

theorem activate_split (h : findOrder s o.tag = some o) : activate o s =
    if earlyDue s o then modifyOrder o.tag (fun x => { x with earlySent := true })
      (offer (.earlyEnd o.tag (o.quantity - passedOf s o)) (updateSource (activating o s)))
    else updateSource (activating o s) := by
  rw [activate_eq, earlyTest_eq (findOrder_activating h), earlyDue, passedOf_activating, earlyDue]

theorem activate_orders (h : findOrder s o.tag = some o) : (activate o s).orders =
    { s.orders with
      feedState := .feeding, runningClass := some (formatClassOf s o), list := activeList o (earlyDue s o) s.orders.list } := by
  have hsource : (updateSource (activating o s)).orders = (activating o s).orders := (updateSource_touches _).orders
  rw [activate_split h]
  cases earlyDue s o with
  | false =>
    rw [if_neg Bool.false_ne_true, hsource]
    simp [activating, activeList]
  | true =>
    have hlist : (activating o s).orders.list.map (fun x => if x.tag == o.tag then { x with earlySent := true } else x) =
        activeList o true s.orders.list := by
      rw [activating, activeList, List.map_map]
      refine List.map_congr_left fun y _ => ?_
      by_cases hy : y.tag = o.tag <;> simp [hy]
    rw [if_pos rfl, modifyOrder, (offer_touches _ _).orders, hsource]
    dsimp only
    rw [hlist]
    rfl

theorem activate_notices (h : findOrder s o.tag = some o) : (activate o s).notices =
    (if earlyDue s o then offer (.earlyEnd o.tag (o.quantity - passedOf s o)) s else s).notices := by
  have hsource : (updateSource (activating o s)).notices = s.notices := (updateSource_touches _).notices
  rw [activate_split h]
  split
  · exact offer_notices _ hsource
  · exact hsource

theorem earlyTest_source (tag : Nat) (s : State) : wantedSource (earlyTest tag s) = wantedSource s := by
  unfold earlyTest
  split
  · rfl
  · dsimp only
    split
    · refine wantedSource_map (f := fun x => if x.tag == tag then { x with earlySent := true } else x)
        (fun x => by split <;> exact ⟨rfl, rfl, rfl⟩) ?_
      rw [modifyOrder, (offer_touches _ _).orders]
    · rfl

/-- An early test marks orders and changes nothing else of the Order Unit. -/
theorem earlyTest_orders (tag : Nat) (s : State) : ∃ f : Order → Order, (∀ x, (f x).tag = x.tag ∧ (f x).state = x.state) ∧
    (earlyTest tag s).orders = { s.orders with list := s.orders.list.map f } := by
  unfold earlyTest
  split
  · exact ⟨id, fun _ => ⟨rfl, rfl⟩, by rw [List.map_id]⟩
  · dsimp only
    split
    · refine ⟨fun x => if x.tag == tag then { x with earlySent := true } else x, fun x => by dsimp only; split <;> exact ⟨rfl, rfl⟩, ?_⟩
      rw [modifyOrder, (offer_touches _ _).orders]
    · exact ⟨id, fun _ => ⟨rfl, rfl⟩, by rw [List.map_id]⟩

theorem activate_feeds (ho : o ∈ s.orders.list) : (activate o s).orders.feedState = .feeding ∧
    (activate o s).orders.runningClass = some (formatClassOf s o) ∧
    ∃ x, x ∈ (activate o s).orders.list ∧ x.tag = o.tag ∧ x.state = .active := by
  obtain ⟨f, hf, horders⟩ := earlyTest_orders o.tag (updateSource (activating o s))
  rw [activate_eq, horders, (updateSource_touches _).orders]
  refine ⟨rfl, rfl, f { o with state := .active }, List.mem_map_of_mem (List.mem_map.mpr ⟨o, ho, if_pos (by simp)⟩), ?_, ?_⟩
  · rw [(hf _).1]
  · rw [(hf _).2]

theorem tags_activate (o : Order) (s : State) : (activate o s).orders.list.map Order.tag = s.orders.list.map Order.tag := by
  obtain ⟨f, hf, horders⟩ := earlyTest_orders o.tag (updateSource (activating o s))
  rw [activate_eq, horders, (updateSource_touches _).orders, activating, List.map_map, List.map_map]
  refine List.map_congr_left fun x _ => ?_
  simp only [Function.comp_apply, (hf _).1]
  split <;> rfl

/-- The register source is that of the orders (04 R58). -/
def SourceKept (s : State) : Prop := s.reg.source = wantedSource s

theorem sourceKept_updateSource (s : State) : SourceKept (updateSource s) := by
  rw [SourceKept, updateSource_source]
  exact (wantedSource_orders (congrArg OrderUnit.list (updateSource_touches s).orders)).symm

theorem sourceKept_activate (o : Order) (s : State) : SourceKept (activate o s) := by
  rw [SourceKept, activate_eq, earlyTest_source, (earlyTest_touches _ _).reg]
  exact sourceKept_updateSource _

theorem sourceKept_of_touches {fs : List StateField} (h : Touches fs s t) (hs : SourceKept s)
    (ho : t.orders.list = s.orders.list) (hr : .reg ∉ fs := by decide) : SourceKept t := by
  rw [SourceKept, wantedSource_orders ho, h .reg hr]
  exact hs

theorem activate_frame (o : Order) (s : State) : activate o s = { s with
    orders := (activate o s).orders, notices := (activate o s).notices, reg := (activate o s).reg,
    pos := { s.pos with due := (activate o s).pos.due } } := by
  rw [← (OrdersMove.activate o s).pos]
  exact frame_of_touches (activate_touches o s)

/-! ## Selection (07 R120, R121) -/

theorem classFits_iff : classFits s o = true ↔
    s.orders.runningClass = none ∨ s.orders.runningClass = some (formatClassOf s o) := by
  unfold classFits
  cases h : s.orders.runningClass with
  | none => simp
  | some c =>
    simp only [beq_iff_eq, reduceCtorEq, Option.some.injEq, false_or]
    exact eq_comm

theorem select_none (h : nextOrder s = none) : select s = setFeed .noOrder s := by unfold select; rw [h]

theorem select_fits (h : nextOrder s = some o) (hc : classFits s o = true) : select s = activate o s := by
  unfold select
  rw [h]
  exact if_pos hc

theorem select_waits (h : nextOrder s = some o) (hc : classFits s o = false) :
    select s = offer (.feedWait true o.tag) (setFeed .changeover s) := by
  unfold select
  rw [h]
  exact if_neg (by simp [hc])

theorem reexamine_other (h : s.orders.feedState ≠ .changeover) : reexamine s = s := by unfold reexamine; rw [if_neg h]

theorem reexamine_none (hf : s.orders.feedState = .changeover) (h : nextOrder s = none) : reexamine s = setFeed .noOrder s := by
  unfold reexamine
  rw [if_pos hf, h]

theorem reexamine_fits (hf : s.orders.feedState = .changeover) (h : nextOrder s = some o)
    (hc : s.orders.runningClass = some (formatClassOf s o)) : reexamine s = activate o s := by
  unfold reexamine
  rw [if_pos hf, h]
  exact if_pos hc

theorem reexamine_waits (hf : s.orders.feedState = .changeover) (h : nextOrder s = some o)
    (hc : s.orders.runningClass ≠ some (formatClassOf s o)) : reexamine s = s := by
  unfold reexamine
  rw [if_pos hf, h]
  exact if_neg hc

theorem tags_select (s : State) : (select s).orders.list.map Order.tag = s.orders.list.map Order.tag := by
  unfold select
  split
  · rfl
  · split
    · exact tags_activate _ s
    · rw [(offer_touches _ _).orders]
      rfl

theorem tags_reexamine (s : State) : (reexamine s).orders.list.map Order.tag = s.orders.list.map Order.tag := by
  unfold reexamine
  split
  · split
    · rfl
    · split
      · exact tags_activate _ s
      · rfl
  · rfl

theorem sourceKept_select (h : SourceKept s) : SourceKept (select s) := by
  unfold select
  split
  · exact sourceKept_of_touches (setFeed_touches _ _) h rfl
  · split
    · exact sourceKept_activate _ s
    · exact sourceKept_of_touches ((setFeed_touches .changeover s).andThen (hs := [.orders, .notices]) (offer_touches _ _)
        (by decide) (by decide)) h (by rw [(offer_touches _ _).orders]; rfl)

theorem sourceKept_reexamine (h : SourceKept s) : SourceKept (reexamine s) := by
  unfold reexamine
  split
  · split
    · exact sourceKept_of_touches (setFeed_touches _ _) h rfl
    · split
      · exact sourceKept_activate _ s
      · exact h
  · exact h

/-- A source that stands brings no switch event. -/
theorem updateSource_kept (h : SourceKept s) : updateSource s = s := by
  unfold updateSource
  exact if_pos h.symm

end Sys2Proof.Activation
end

section
/-! SUPPORT. ORDER_QUEUE and ORDER_RESUME, feed holds and samples (07 R117, R122, R124, R133). -/

namespace Sys2Proof.QueueRules

open Sys2Proof.Machine Sys2Proof.Overlay Sys2Proof.Tables Sys2Proof.RegisterRules Sys2Proof.StationRules Sys2Proof.OrderRules
  Sys2Proof.Leaving Sys2Proof.GateRules Sys2Proof.Activation

set_option Elab.async false

variable {s t u : State} {o : Order} {args : List Byte}

/-! ## ORDER_QUEUE -/

theorem u16_lt (a : List Byte) (i : Nat) : u16 a i < 65536 := by
  have h0 : u8 a i < 256 := (a.getD i 0#8).isLt
  have h1 : u8 a (i + 1) < 256 := (a.getD (i + 1) 0#8).isLt
  unfold u16
  omega

theorem orderChecks_eq (a : List Byte) : orderChecks a = [decide (1 ≤ u16 a 0), decide (u8 a 2 ≤ 1), decide (u8 a 3 ≤ 7),
    decide (1 ≤ u32 a 4 ∧ u32 a 4 ≤ 999999), decide (1 ≤ u16 a 8 ∧ u16 a 8 ≤ 9999), decide (u8 a 10 ≤ 15),
    decide (u16 a 11 ≤ 999), decide (u8 a 13 ≤ 1), decide (u8 a 14 ≤ 1)] := by
  have htag : within 1 65535 (u16 a 0) = decide (1 ≤ u16 a 0) := by
    rw [within_eq]
    exact decide_eq_decide.mpr ⟨And.left, fun h => ⟨h, by have := u16_lt a 0; omega⟩⟩
  unfold orderChecks
  rw [htag]
  simp only [within_zero]
  simp only [within_eq]

theorem orderQueue_badArg {n : Nat} (h : firstBad (orderChecks args) = some n) : orderQueue args s = (s, ⟨.badArg, le8 n⟩) := by
  unfold orderQueue
  rw [h]

theorem orderQueue_refused {c : ResultCode} (h : firstBad (orderChecks args) = none)
    (hc : queueRefusal s (newOrder s args) = some c) : orderQueue args s = (s, bare c) := by
  unfold orderQueue
  rw [h]
  dsimp only
  rw [hc]

theorem orderQueue_taken (h : firstBad (orderChecks args) = none) (hc : queueRefusal s (newOrder s args) = none) :
    orderQueue args s = (enqueue (newOrder s args) s, ⟨.ok, le8 (codeFeed (enqueue (newOrder s args) s).orders.feedState) ++
      le8 (laneOrders (enqueue (newOrder s args) s) .normal).length
      ++ le8 (laneOrders (enqueue (newOrder s args) s) .priority).length⟩) := by
  unfold orderQueue
  rw [h]
  dsimp only
  rw [hc]

theorem queueRefusal_new (h : ∀ x ∈ s.orders.list, x.tag ≠ o.tag) : queueRefusal s o =
    if 16 ≤ s.orders.list.length then some .full else if (slotOf s o.slot).state ≠ .usable then some .notUsable else none := by
  unfold queueRefusal
  rw [findOrder_none.mpr h]
  rfl

/-! ### The order in the list -/

/-- The order has joined its lane, and the register source follows. -/
def joined (o : Order) (s : State) : State := updateSource (refUp o.slot (joinList o s))

theorem joined_orders (o : Order) (s : State) : (joined o s).orders =
    { s.orders with list := s.orders.list ++ [o], nextId := s.orders.nextId + 1 } := (updateSource_touches _).orders

theorem enqueue_eq (o : Order) (s : State) : enqueue o s = match s.orders.feedState with
    | .noOrder => select (joined o s)
    | .changeover => if (nextOrder (joined o s)).map Order.tag = some o.tag then reexamine (joined o s) else joined o s
    | .feeding => joined o s
    | .suspended => joined o s := by
  have hfeed : (joined o s).orders.feedState = s.orders.feedState := by rw [joined_orders]
  rw [← hfeed]
  rfl

theorem joined_touches (o : Order) (s : State) : Touches [.orders, .store, .reg, .pos] s (joined o s) := by
  have hjoin : Touches [.orders] s (joinList o s) := by
    intro f hf; cases f <;> first | exact absurd (by decide) hf | rfl
  exact (hjoin.andThen (hs := [.orders, .store, .reg, .pos]) (refUp_touches _ _) (by decide) (by decide)).trans
    ((updateSource_touches _).mono (by decide))

theorem joined_store (o : Order) (s : State) : (joined o s).store = (refUp o.slot s).store := (updateSource_touches _).store

theorem recipeOf_joined (o : Order) (s : State) (k : Fin 8) : recipeOf (joined o s) k = recipeOf s k := by
  rw [recipeOf, joined_store, refUp]
  have h := TrimLaw.recipeOf_modifySlot o.slot k (fun x => { x with refs := x.refs + 1 }) s
  rw [recipeOf] at h
  rw [h]
  split
  · next hk => subst hk; rfl
  · rfl

theorem formatClassOf_joined (o x : Order) (s : State) : formatClassOf (joined o s) x = formatClassOf s x := by
  rw [formatClassOf, recipeOf_joined]
  rfl

theorem slotOf_joined (o : Order) (s : State) (k : Fin 8) : slotOf (joined o s) k =
    if k = o.slot then { slotOf s k with refs := (slotOf s k).refs + 1 } else slotOf s k := by
  rw [slotOf, joined_store]
  exact getAt_modifySlot o.slot k _ s

/-- The selection or re-examination that the joining may bring. -/
theorem enqueue_touches (o : Order) (s : State) : Touches [.orders, .reg, .pos, .notices] (joined o s) (enqueue o s) := by
  rw [enqueue_eq]
  split
  · exact select_touches _
  · split
    · exact reexamine_touches _
    · exact .refl _ _
  · exact .refl _ _
  · exact .refl _ _

theorem enqueue_tags (o : Order) (s : State) :
    (enqueue o s).orders.list.map Order.tag = s.orders.list.map Order.tag ++ [o.tag] := by
  have hjoined : (joined o s).orders.list.map Order.tag = s.orders.list.map Order.tag ++ [o.tag] := by
    rw [joined_orders, List.map_append]
    rfl
  rw [enqueue_eq]
  split
  · exact (tags_select _).trans hjoined
  · split
    · exact (tags_reexamine _).trans hjoined
    · exact hjoined
  · exact hjoined
  · exact hjoined

theorem enqueue_source (o : Order) (s : State) : SourceKept (enqueue o s) := by
  have hjoined : SourceKept (joined o s) := sourceKept_updateSource _
  rw [enqueue_eq]
  split
  · exact sourceKept_select hjoined
  · split
    · exact sourceKept_reexamine hjoined
    · exact hjoined
  · exact hjoined
  · exact hjoined

theorem enqueue_trim (o : Order) (s : State) : (enqueue o s).reg.trim = s.reg.trim := by
  have hjoined : (joined o s).reg.trim = s.reg.trim := (OrdersMove.updateSource _).trim
  rw [enqueue_eq]
  split
  · exact (OrdersMove.select _).trim.trans hjoined
  · split
    · exact (OrdersMove.reexamine _).trim.trans hjoined
    · exact hjoined
  · exact hjoined
  · exact hjoined

/-! ### What the joining brings -/

theorem enqueue_stays (h : s.orders.feedState = .feeding ∨ s.orders.feedState = .suspended) : enqueue o s = joined o s := by
  rw [enqueue_eq]
  rcases h with h | h <;> rw [h]

theorem joined_notices (o : Order) (s : State) : (joined o s).notices = s.notices := (joined_touches o s).notices

theorem findOrder_joined (h : ∀ x ∈ s.orders.list, x.tag ≠ o.tag) : findOrder (joined o s) o.tag = some o := by
  rw [findOrder, joined_orders]
  dsimp only
  have hold : s.orders.list.find? (fun x => x.tag == o.tag) = none := findOrder_none.mpr h
  rw [List.find?_append, hold]
  simp

theorem earlyDue_joined (hd : o.delivered = 0) (hs : o.earlySent = false) :
    earlyDue (joined o s) o = decide (0 < o.early ∧ o.quantity ≤ o.early + committedOf s o.tag) := by
  rw [earlyDue, passedOf, committedOf_congr (joined_touches o s).track, hd, hs, Nat.zero_add]
  simp

/-- The activation of the order that has just joined. -/
theorem activate_joined (h : ∀ x ∈ s.orders.list, x.tag ≠ o.tag) (hd : o.delivered = 0) (hs : o.earlySent = false) {early : Bool}
    (he : early = decide (0 < o.early ∧ o.quantity ≤ o.early + committedOf s o.tag)) :
    (activate o (joined o s)).orders = { s.orders with
      list := s.orders.list ++ [{ o with state := .active, earlySent := early }], nextId := s.orders.nextId + 1,
      feedState := .feeding, runningClass := some (formatClassOf s o) } ∧
    (activate o (joined o s)).notices =
      (if early then offer (.earlyEnd o.tag (o.quantity - committedOf s o.tag)) s else s).notices := by
  have hfind := findOrder_joined h
  have hdue : earlyDue (joined o s) o = early := (earlyDue_joined hd hs).trans he.symm
  have hlist : activeList o early (s.orders.list ++ [o]) =
      s.orders.list ++ [{ o with state := .active, earlySent := early }] := by
    have hold : s.orders.list.map (fun y => if y.tag == o.tag then
        { y with state := .active, earlySent := y.earlySent || early } else y) = s.orders.list :=
      (List.map_congr_left fun y hy => if_neg (by simpa using h y hy)).trans (List.map_id _)
    rw [activeList, List.map_append, hold]
    simp [hs]
  refine ⟨?_, ?_⟩
  · rw [activate_orders hfind, hdue, joined_orders, formatClassOf_joined, hlist]
  · have hpassed : passedOf (joined o s) o = committedOf s o.tag := by
      rw [passedOf, committedOf_congr (joined_touches o s).track, hd, Nat.zero_add]
    rw [activate_notices hfind, hdue, hpassed]
    split
    · exact offer_notices _ (joined_notices o s)
    · exact joined_notices o s

theorem nextOrder_joined (o : Order) (s : State) :
    nextOrder (joined o s) = nextOrder { s with orders := { s.orders with list := s.orders.list ++ [o] } } := by
  unfold nextOrder
  rw [joined_orders]

theorem nextOrder_alone (h : nextOrder s = none) (hq : o.state = .queued) : nextOrder (joined o s) = some o := by
  have hnone (l : Lane) : s.orders.list.find? (fun x => x.state == .queued && x.lane == l) = none := by
    refine List.find?_eq_none.mpr fun x hx => ?_
    simp [nextOrder_none.mp h x hx]
  unfold nextOrder
  rw [joined_orders]
  dsimp only
  rw [List.find?_append, List.find?_append, hnone, hnone]
  cases hl : o.lane <;> simp [hq, hl]

theorem nextOrder_tag (h : ∀ x ∈ s.orders.list, x.tag ≠ o.tag) :
    (nextOrder (joined o s)).map Order.tag = some o.tag ↔ nextOrder (joined o s) = some o := by
  constructor
  · intro hn
    obtain ⟨x, hx, htag⟩ := Option.map_eq_some_iff.mp hn
    have hmem := (nextOrder_queued hx).1
    rw [joined_orders, List.mem_append, List.mem_singleton] at hmem
    rcases hmem with hmem | rfl
    · exact absurd htag (h x hmem)
    · exact hx
  · intro hn
    rw [hn]
    rfl

theorem waiting_joined (o : Order) (s : State) :
    (offer (.feedWait true o.tag) (setFeed .changeover (joined o s))).orders = { s.orders with
      list := s.orders.list ++ [o], nextId := s.orders.nextId + 1, feedState := .changeover } ∧
    (offer (.feedWait true o.tag) (setFeed .changeover (joined o s))).notices = (offer (.feedWait true o.tag) s).notices := by
  refine ⟨?_, offer_notices _ (joined_notices o s)⟩
  rw [(offer_touches _ _).orders, setFeed, joined_orders]

theorem runningClass_joined (o : Order) (s : State) : (joined o s).orders.runningClass = s.orders.runningClass := by
  rw [joined_orders]

/-! ### Selection and activation, as the statement spells them -/

theorem select_spec (s : State) :
    (nextOrder s = none → select s = { s with orders := { s.orders with feedState := .noOrder } }) ∧
    (∀ o, nextOrder s = some o →
      (s.orders.runningClass = none ∨ s.orders.runningClass = some (formatClassOf s o) → select s = activate o s) ∧
      (s.orders.runningClass ≠ none → s.orders.runningClass ≠ some (formatClassOf s o) → select s
        = offer (.feedWait true o.tag) { s with orders := { s.orders with feedState := .changeover } })) ∧
    (s.orders.feedState ≠ .changeover → reexamine s = s) ∧
    (s.orders.feedState = .changeover →
      (nextOrder s = none → reexamine s = { s with orders := { s.orders with feedState := .noOrder } }) ∧
      (∀ o, nextOrder s = some o →
        (s.orders.runningClass = some (formatClassOf s o) → reexamine s = activate o s) ∧
        (s.orders.runningClass ≠ some (formatClassOf s o) → reexamine s = s))) := by
  refine ⟨select_none, fun o ho => ⟨fun hc => select_fits ho (classFits_iff.mpr hc), fun h0 h1 => select_waits ho ?_⟩,
    reexamine_other, fun hf => ⟨reexamine_none hf, fun o ho => ⟨reexamine_fits hf ho, reexamine_waits hf ho⟩⟩⟩
  rw [Bool.eq_false_iff]
  intro hc
  rcases classFits_iff.mp hc with h | h
  · exact h0 h
  · exact h1 h

theorem activate_spec {early : Bool} (hnd : (s.orders.list.map Order.tag).Nodup) (ho : o ∈ s.orders.list)
    (he : early = decide (0 < o.early ∧ o.earlySent = false ∧ o.quantity ≤ o.early + (o.delivered + committedOf s o.tag)))
    (ht : t = activate o s) :
    t.orders = { s.orders with
      feedState := .feeding
      runningClass := some (formatClassOf s o)
      list := s.orders.list.map (fun y => if y.tag == o.tag then
        { y with state := .active, earlySent := y.earlySent || early } else y) } ∧
    t.notices = (if early then
      offer (.earlyEnd o.tag (o.quantity - (o.delivered + committedOf s o.tag))) s else s).notices ∧
    t.reg.source = wantedSource t ∧
    t = { s with orders := t.orders, notices := t.notices, reg := t.reg,
                 pos := { s.pos with due := t.pos.due } } := by
  have hfind := findOrder_of_mem hnd ho
  have hdue : earlyDue s o = early := he.symm
  subst ht
  refine ⟨?_, ?_, sourceKept_activate o s, activate_frame o s⟩
  · rw [activate_orders hfind, hdue]
    rfl
  · rw [activate_notices hfind, hdue]
    rfl

/-- Settles O42: what the joining brings is a selection, a re-examination or nothing, on the state with the order joined. -/
theorem orderQueue : Obligations.OrderQueue := by
  refine ⟨fun args s ha => ⟨fun n hn => ?_, ?_, fun hok => ⟨fun ⟨x, hx, htag⟩ => ?_, fun hnew => ⟨fun hfull => ?_, fun hroom hslot => ?_⟩⟩⟩,
    fun args s o x early ha hok ho hnew hroom hslot he hx => ?_, select_spec,
    fun s t o early hnd ho he ht => activate_spec hnd ho he ht, by decide⟩
  · exact congrArg _ ((request_accepted ha 40 _).trans (by rw [orderQueue_badArg hn]; rfl))
  · rw [firstBad_eq, orderChecks_eq]
  · have hrefusal : queueRefusal s (newOrder s args) = some .duplicate := by
      unfold queueRefusal
      rw [if_pos]
      exact List.find?_isSome.mpr ⟨x, hx, beq_iff_eq.mpr htag⟩
    exact congrArg _ ((request_accepted ha 40 _).trans (by rw [orderQueue_refused hok hrefusal]; rfl))
  · have hrefusal : queueRefusal s (newOrder s args) = some .full := by rw [queueRefusal_new hnew, if_pos hfull]
    exact congrArg _ ((request_accepted ha 40 _).trans (by rw [orderQueue_refused hok hrefusal]; rfl))
  · have hrefusal : queueRefusal s (newOrder s args) = some .notUsable := by
      rw [queueRefusal_new hnew, if_neg (by omega)]
      exact if_pos hslot
    exact congrArg _ ((request_accepted ha 40 _).trans (by rw [orderQueue_refused hok hrefusal]; rfl))
  have hnewOrder : newOrder s args = o := ho.symm
  have hqueued : o.state = .queued := by rw [ho]
  have hdelivered : o.delivered = 0 := by rw [ho]
  have hsent : o.earlySent = false := by rw [ho]
  have hrefusal : queueRefusal s (newOrder s args) = none := by
    rw [hnewOrder, queueRefusal_new hnew, if_neg (by omega), if_neg (by simpa using hslot)]
  have hexec : exec (.orderQueue args) s = answered 40 args s .ok [BitVec.ofNat 8 (codeFeed (enqueue o s).orders.feedState),
      BitVec.ofNat 8 (laneOrders (enqueue o s) .normal).length, BitVec.ofNat 8 (laneOrders (enqueue o s) .priority).length]
      (enqueue o s) := by
    refine congrArg _ ((request_accepted ha 40 _).trans ?_)
    rw [orderQueue_taken hok hrefusal, hnewOrder, List.append_assoc]
    rfl
  clear ho
  have htouch := enqueue_touches o s
  have hjoined := joined_touches o s
  obtain ⟨horders, hnotices⟩ := activate_joined hnew hdelivered hsent he
  have hslots (k : Fin 8) : slotOf (enqueue o s) k = slotOf (joined o s) k := by rw [slotOf, htouch.store]; rfl
  refine ⟨enqueue o s, hexec, enqueue_tags o s, ?_, fun k hk => ?_, enqueue_source o s, fun hfeed => ?_, fun hfeed hnone _ => ?_,
    fun hfeed => ?_, ?_, ?_, ?_, ?_, ?_, ?_, enqueue_trim o s⟩
  · rw [hslots, slotOf_joined, if_pos rfl]
  · rw [hslots, slotOf_joined, if_neg hk]
  · rw [enqueue_stays hfeed]
    exact ⟨joined_orders o s, joined_notices o s⟩
  · have hnext := nextOrder_alone hnone hqueued
    have hselect : enqueue o s = select (joined o s) := by rw [enqueue_eq, hfeed]
    obtain ⟨-, hsome, -, -⟩ := select_spec (joined o s)
    obtain ⟨hfits, hwaits⟩ := hsome o hnext
    rw [runningClass_joined, formatClassOf_joined] at hfits hwaits
    rw [hselect]
    refine ⟨fun hc => ?_, fun h0 h1 => ?_⟩
    · rw [hfits hc, hx]
      exact ⟨horders, hnotices⟩
    · rw [hwaits h0 h1]
      exact waiting_joined o s
  · obtain ⟨-, -, -, hchange⟩ := select_spec (joined o s)
    obtain ⟨-, hsome⟩ := hchange (by rw [joined_orders]; exact hfeed)
    have hcases : enqueue o s = if nextOrder (joined o s) = some o then reexamine (joined o s) else joined o s := by
      rw [enqueue_eq, hfeed]
      simp only [nextOrder_tag hnew]
    rw [← nextOrder_joined, hcases]
    refine ⟨fun hnext hc => ?_, fun hno => ?_⟩
    · have hfits := (hsome o hnext).1 (by rw [runningClass_joined, formatClassOf_joined]; exact hc)
      rw [if_pos hnext, hfits, hx, horders, ← hc]
      exact ⟨rfl, hnotices⟩
    · have hsame : (if nextOrder (joined o s) = some o then reexamine (joined o s) else joined o s) = joined o s := by
        split
        · next hnext =>
          refine (hsome o hnext).2 ?_
          rw [runningClass_joined, formatClassOf_joined]
          exact hno.resolve_left (fun hc => hc hnext)
        · rfl
      rw [hsame]
      exact ⟨joined_orders o s, joined_notices o s⟩
  · rw [htouch.track, hjoined.track]
  · rw [htouch.deliv, hjoined.deliv]
  · rw [htouch.line, hjoined.line]
  · rw [htouch.counters, hjoined.counters]
  · rw [htouch.insp, hjoined.insp]
  · rw [htouch.app, hjoined.app]

/-! ## ORDER_RESUME (07 R122) -/

theorem orderResume_next (hf : s.orders.feedState = .suspended ∨ s.orders.feedState = .changeover) (h : nextOrder s = some o) :
    orderResume s = resumeNext o s := by
  unfold orderResume
  rcases hf with hf | hf <;> rw [hf, h]

theorem resumeNext_activates (h : s.orders.runningClass = some (formatClassOf s o) ∨ s.track.records = []) :
    resumeNext o s = (activate o s, resumeReply o (activate o s)) := if_pos h

theorem resumeNext_waits (hc : s.orders.runningClass ≠ some (formatClassOf s o)) (hr : s.track.records ≠ [])
    (hf : s.orders.feedState = .suspended) : resumeNext o s =
      (offer (.feedWait true o.tag) (setFeed .changeover s), ⟨.ok, [3#8]⟩) := by
  have hfeed : (offer (.feedWait true o.tag) (setFeed .changeover s)).orders.feedState = .changeover := by
    rw [(offer_touches _ _).orders]
    rfl
  unfold resumeNext
  rw [if_neg (by simp [hc, hr]), if_pos hf]
  dsimp only
  rw [hfeed]
  rfl

theorem resumeNext_refused (hc : s.orders.runningClass ≠ some (formatClassOf s o)) (hr : s.track.records ≠ [])
    (hf : s.orders.feedState = .changeover) : resumeNext o s = (s, bare .state) := by
  unfold resumeNext
  rw [if_neg (by simp [hc, hr]), if_neg (by simp [hf])]

/-! ## Feed holds -/

/-- The set of hold reasons that stand. -/
def reasonSet (a b c d e : Bool) : BitVec 5 :=
  (if a then 1#5 else 0#5) ||| (if b then 2#5 else 0#5) ||| (if c then 4#5 else 0#5) ||| (if d then 8#5 else 0#5)
    ||| (if e then 16#5 else 0#5)

theorem holdReasons_eq (s : State) : holdReasons s =
    reasonSet s.orders.forcedHold (holdsOutfeed s) (s.reg.state == .lost) (holdsGum s) (s.line.run == .draining) := rfl

theorem reasonSet_forced : ∀ a b c d e : Bool, reasonSet true b c d e = reasonSet a b c d e ||| 1#5 := by decide

theorem reasonSet_released : ∀ a b c d e : Bool, reasonSet false b c d e = reasonSet a b c d e &&& ~~~ 1#5 := by decide

theorem holdReasons_setForced (b : Bool) (s : State) : holdReasons (setForced b s) =
    reasonSet b (holdsOutfeed s) (s.reg.state == .lost) (holdsGum s) (s.line.run == .draining) := rfl

/-- Settles O44. -/
theorem resumeHoldsAndSamples : Obligations.ResumeHoldsAndSamples := by
  refine ⟨fun args s ha => ⟨fun hf => ?_, fun hf hn => ?_, fun hf hn => ?_, fun o hf hn => ⟨fun hc => ?_, fun hc hr => ⟨fun hs => ?_, fun hs => ?_⟩⟩⟩,
    fun args s => ⟨fun ha => ⟨⟨_, ?_, rfl, ?_⟩, ⟨_, ?_, rfl, ?_⟩⟩, fun ha => ⟨fun h1 h2 => ?_, fun hno => ?_⟩⟩⟩
  · refine congrArg _ ((request_accepted ha 43 _).trans ?_)
    rcases hf with hf | hf <;> rw [orderResume, hf] <;> rfl
  · exact congrArg _ ((request_accepted ha 43 _).trans (by rw [orderResume, hf, hn]; rfl))
  · exact congrArg _ ((request_accepted ha 43 _).trans (by rw [orderResume, hf, hn]; rfl))
  · obtain ⟨hfeed, hclass, hactive⟩ := activate_feeds (nextOrder_queued hn).1
    have htouch := activate_touches o s
    refine ⟨activate o s, congrArg _ ((request_accepted ha 43 _).trans ?_), rfl, hfeed, hclass, hactive, tags_activate o s,
      htouch.track, htouch.deliv, htouch.line, htouch.store, htouch.counters⟩
    rw [orderResume_next hf hn, resumeNext_activates hc, resumeReply, hfeed]
    rfl
  · exact congrArg _ ((request_accepted ha 43 _).trans (by rw [orderResume_next hf hn, resumeNext_waits hc hr hs]; rfl))
  · exact congrArg _ ((request_accepted ha 43 _).trans (by rw [orderResume_next hf hn, resumeNext_refused hc hr hs]; rfl))
  · exact congrArg _ (request_accepted ha 44 _)
  · exact (holdReasons_setForced true s).trans (reasonSet_forced s.orders.forcedHold _ _ _ _)
  · exact congrArg _ (request_accepted ha 45 _)
  · exact (holdReasons_setForced false s).trans (reasonSet_released s.orders.forcedHold _ _ _ _)
  · exact congrArg _ ((request_accepted ha 46 _).trans (by rw [pullSample, if_pos (by simp [within, h1, h2])]; rfl))
  · refine congrArg _ ((request_accepted ha 46 _).trans ?_)
    rw [pullSample, if_neg]
    · rfl
    · simp only [within, Bool.and_eq_true, decide_eq_true_eq]
      omega

end Sys2Proof.QueueRules
end

section
/-! SUPPORT. The completion test and the departure of orders (07 R130), and the orders that they leave alone. -/

namespace Sys2Proof.Departures

open Sys2Proof.Machine Sys2Proof.Overlay Sys2Proof.RegisterRules Sys2Proof.StationRules Sys2Proof.OrderRules Sys2Proof.Leaving
  Sys2Proof.GateRules Sys2Proof.Activation

set_option Elab.async false

variable {s t u : State} {o : Order}

/-! ## Orders of another tag -/

theorem findOrder_modify_other {tag k : Nat} (h : k ≠ tag) (f : Order → Order) (hf : ∀ x, (f x).tag = x.tag)
    (ht : t.orders.list = s.orders.list.map (fun x => if x.tag == k then f x else x)) : findOrder t tag = findOrder s tag := by
  rw [findOrder_map (f := fun x => if x.tag == k then f x else x) (fun x => by split <;> simp [hf]) ht]
  cases ho : findOrder s tag with
  | none => rfl
  | some o =>
    have hne : ¬ (o.tag == k) = true := by
      rw [tag_of_findOrder ho, beq_iff_eq]
      exact h.symm
    rw [Option.map_some, if_neg hne]

theorem findOrder_earlyTest_other {tag k : Nat} (h : k ≠ tag) (s : State) : findOrder (earlyTest k s) tag = findOrder s tag := by
  unfold earlyTest
  split
  · rfl
  · dsimp only
    split
    · refine findOrder_modify_other h (fun x => { x with earlySent := true }) (fun _ => rfl) ?_
      rw [modifyOrder, (offer_touches _ _).orders]
    · rfl

/-- An activation leaves every order of another tag as it was. -/
theorem findOrder_activate_other {tag : Nat} (h : o.tag ≠ tag) (s : State) : findOrder (activate o s) tag = findOrder s tag := by
  rw [activate_eq, findOrder_earlyTest_other h]
  refine findOrder_modify_other h (fun x => { x with state := .active }) (fun _ => rfl) ?_
  rw [(updateSource_touches _).orders]
  rfl

theorem findOrder_select_other {tag : Nat} (h : ∀ n, nextOrder s = some n → n.tag ≠ tag) :
    findOrder (select s) tag = findOrder s tag := by
  unfold select
  split
  · rfl
  · next n hn =>
    split
    · exact findOrder_activate_other (h n hn) s
    · exact findOrder_congr (s := setFeed .changeover s) (offer_touches _ _).orders tag

theorem findOrder_reexamine_other {tag : Nat} (h : ∀ n, nextOrder s = some n → n.tag ≠ tag) :
    findOrder (reexamine s) tag = findOrder s tag := by
  unfold reexamine
  split
  · split
    · rfl
    · next n hn =>
      split
      · exact findOrder_activate_other (h n hn) s
      · rfl
  · rfl

theorem findOrder_updateSource (tag : Nat) (s : State) : findOrder (updateSource s) tag = findOrder s tag :=
  findOrder_congr (updateSource_touches s).orders tag

theorem findOrder_afterActive_other {tag : Nat} (h : ∀ n, nextOrder s = some n → n.tag ≠ tag) (b : Bool) :
    findOrder (afterActive b s) tag = findOrder s tag := by
  unfold afterActive
  rw [findOrder_updateSource]
  cases b
  · exact findOrder_select_other h
  · exact findOrder_congr (s := setFeed .suspended s) (offer_touches _ _).orders tag

theorem find?_eraseP_other {α : Type} {p q : α → Bool} (h : ∀ x, p x = true → q x = false) :
    ∀ l : List α, (l.eraseP p).find? q = l.find? q
  | [] => rfl
  | x :: l => by
    by_cases hp : p x = true
    · rw [List.eraseP_cons_of_pos hp, List.find?_cons, h x hp]
    · rw [List.eraseP_cons_of_neg hp, List.find?_cons, List.find?_cons, find?_eraseP_other h l]

theorem findOrder_removed_other {tag k : Nat} (h : k ≠ tag) (ht : t.orders.list = s.orders.list.eraseP (fun x => x.tag == k)) :
    findOrder t tag = findOrder s tag := by
  unfold findOrder
  rw [ht]
  refine find?_eraseP_other (fun x hx => ?_) _
  rw [beq_iff_eq.mp hx, beq_eq_false_iff_ne]
  exact h

/-! ## Departure (07 R130) -/

/-- An order off the list, with its ORDER_END. -/
def departing (o : Order) (e : EndState) (s : State) : State :=
  offer (.orderEnd o.tag e o.delivered o.boxesClosed (shortfallOf o e)) (refDown o.slot (removeOrder o.tag s))

theorem depart_eq (o : Order) (e : EndState) (s : State) : depart o e s =
    reexamine (updateSource (if o.state = .active then afterActive o.holdAfter (departing o e s) else departing o e s)) := rfl

theorem departing_touches (o : Order) (e : EndState) (s : State) : Touches [.orders, .store, .notices] s (departing o e s) :=
  ((removeOrder_touches o.tag s).andThen (hs := [.orders, .store, .notices]) (refDown_touches _ _) (by decide) (by decide)).trans
    ((offer_touches _ _).mono (by decide))

theorem departing_orders (o : Order) (e : EndState) (s : State) : (departing o e s).orders =
    { s.orders with list := s.orders.list.eraseP (fun x => x.tag == o.tag) } := (offer_touches _ _).orders

theorem departing_notices (o : Order) (e : EndState) (s : State) : (departing o e s).notices =
    (offer (.orderEnd o.tag e o.delivered o.boxesClosed (shortfallOf o e)) s).notices := offer_notices _ rfl

theorem departing_slot (o : Order) (e : EndState) (s : State) :
    slotOf (departing o e s) o.slot = { slotOf s o.slot with refs := (slotOf s o.slot).refs - 1 } := by
  rw [slotOf, departing, (offer_touches _ _).store]
  exact getAt_put_same _ _ _

theorem departing_spelled (o : Order) (e : EndState) (s : State) : departing o e s =
    offer (.orderEnd o.tag e o.delivered o.boxesClosed (if e = .complete then 0 else o.quantity - o.delivered))
      { s with
        orders := { s.orders with list := s.orders.list.eraseP (fun x => x.tag == o.tag) }
        store := { s.store with
          slots := put s.store.slots o.slot { slotOf s o.slot with refs := (slotOf s o.slot).refs - 1 } } } := by
  cases e <;> rfl

theorem feedState_updateSource (s : State) : (updateSource s).orders.feedState = s.orders.feedState :=
  congrArg OrderUnit.feedState (updateSource_touches s).orders

theorem updateSource_twice (s : State) : updateSource (updateSource s) = updateSource s :=
  updateSource_kept (sourceKept_updateSource s)

theorem updateSource_frame (s : State) : updateSource s =
    { s with reg := (updateSource s).reg, pos := { s.pos with due := (updateSource s).pos.due } } := by
  rw [← (OrdersMove.updateSource s).pos]
  exact frame_of_touches (updateSource_touches s)

theorem depart_stays (h : o.state ≠ .active) (hf : s.orders.feedState ≠ .changeover) (e : EndState) :
    depart o e s = updateSource (departing o e s) := by
  rw [depart_eq, if_neg h]
  refine reexamine_other ?_
  rw [feedState_updateSource, departing_orders]
  exact hf

theorem depart_looks (h : o.state ≠ .active) (e : EndState) : depart o e s = reexamine (updateSource (departing o e s)) := by
  rw [depart_eq, if_neg h]

theorem afterActive_holds (s : State) : afterActive true s =
    updateSource (offer (.feedWait false (nextTag s)) (setFeed .suspended s)) := rfl

theorem afterActive_selects (s : State) : afterActive false s = updateSource (select s) := rfl

theorem depart_holds (h : o.state = .active) (hh : o.holdAfter = true) (e : EndState) : depart o e s =
    afterActive true (departing o e s) := by
  rw [depart_eq, if_pos h, hh, afterActive_holds, updateSource_twice]
  refine reexamine_other ?_
  rw [feedState_updateSource, (offer_touches _ _).orders]
  exact fun hc => by cases hc

/-- What a selection has left, the re-examination leaves. -/
theorem reexamine_selected (s : State) : reexamine (updateSource (select s)) = updateSource (select s) := by
  cases hn : nextOrder s with
  | none =>
    refine reexamine_other ?_
    rw [feedState_updateSource, select_none hn]
    exact fun hc => by cases hc
  | some o =>
    cases hc : classFits s o with
    | true =>
      refine reexamine_other ?_
      rw [feedState_updateSource, select_fits hn hc, (activate_feeds (nextOrder_queued hn).1).1]
      exact fun hf => by cases hf
    | false =>
      rw [select_waits hn hc]
      generalize hw : offer (.feedWait true o.tag) (setFeed .changeover s) = w
      have htouch : Touches [.orders, .notices] s w := hw ▸ (setFeed_touches .changeover s).andThen
        (hs := [.orders, .notices]) (offer_touches _ _) (by decide) (by decide)
      have horders : (updateSource w).orders = { s.orders with feedState := .changeover } := by
        rw [(updateSource_touches w).orders, ← hw, (offer_touches _ _).orders]
        rfl
      have hclass : formatClassOf (updateSource w) o = formatClassOf s o := by
        rw [formatClassOf, recipeOf, (updateSource_touches w).store, htouch.store]
        rfl
      refine reexamine_waits (by rw [horders]) ((nextOrder_orders (by rw [horders])).trans hn) ?_
      rw [horders, hclass]
      intro hr
      rw [Bool.eq_false_iff] at hc
      exact hc (classFits_iff.mpr (.inr hr))

theorem depart_selects (h : o.state = .active) (hh : o.holdAfter = false) (e : EndState) : depart o e s =
    afterActive false (departing o e s) := by
  rw [depart_eq, if_pos h, hh, afterActive_selects, updateSource_twice, reexamine_selected]

/-! ## The completion test -/

theorem inTransit_false {tag : Nat} : inTransit s tag = false ↔ ∀ r ∈ s.track.records, r.tag ≠ tag := by
  simp [inTransit]

theorem inTransit_true {tag : Nat} : inTransit s tag = true ↔ ∃ r ∈ s.track.records, r.tag = tag := by
  simp [inTransit]

theorem completionTest_transit {tag : Nat} (h : inTransit s tag = true) : completionTest tag s = s := by
  unfold completionTest
  split
  · rfl
  · rw [if_pos h]

theorem completionTest_unlisted {tag : Nat} (h : findOrder s tag = none) : completionTest tag s = s := by
  unfold completionTest
  rw [h]

theorem completionTest_departs {tag : Nat} {e : EndState} (h : findOrder s tag = some o) (ht : inTransit s tag = false)
    (he : endStateOf o = some e) : completionTest tag s = depart o e s := by
  unfold completionTest
  rw [h]
  dsimp only
  rw [ht, he]
  rfl

theorem completionTest_stays {tag : Nat} (h : findOrder s tag = some o) (he : endStateOf o = none) : completionTest tag s = s := by
  unfold completionTest
  rw [h]
  dsimp only
  rw [he, ite_self]

end Sys2Proof.Departures
end

section
/-! SUPPORT. ORDER_ABORT (07 R132): the records that receive ABORTED, and the order that leaves or stays. -/

namespace Sys2Proof.AbortRules

open Sys2Proof.Machine Sys2Proof.Overlay Sys2Proof.Passes Sys2Proof.RegisterRules Sys2Proof.StationRules Sys2Proof.BlankRules
  Sys2Proof.OrderRules Sys2Proof.Leaving Sys2Proof.GateRules Sys2Proof.Activation Sys2Proof.Departures

set_option Elab.async false

variable {s t u : State} {o : Order} {args : List Byte}

/-! ## Records that receive ABORTED -/

/-- A record that receives ABORTED where its number is among `qs`. -/
def marked (qs : List U32) (r : Record) : Record := if r.seq ∈ qs then withDefect .aborted r else r

theorem marked_seq (qs : List U32) (r : Record) : (marked qs r).seq = r.seq := by
  unfold marked
  split <;> rfl

theorem marked_nil (r : Record) : marked [] r = r := if_neg List.not_mem_nil

theorem withDefect_twice (c : DefectClass) (r : Record) : withDefect c (withDefect c r) = withDefect c r := by
  unfold withDefect
  dsimp only
  rw [BitVec.or_assoc, BitVec.or_self]

theorem marked_cons (q : U32) (qs : List U32) (r : Record) :
    marked qs (if r.seq == q then withDefect .aborted r else r) = marked (q :: qs) r := by
  by_cases hq : r.seq = q
  · have hseq : (withDefect .aborted r).seq = r.seq := rfl
    rw [if_pos (by simpa using hq), marked, marked, hseq, withDefect_twice, if_pos (List.mem_cons.mpr (.inl hq)), ite_self]
  · rw [if_neg (by simpa using hq), marked, marked]
    simp [hq]

/-- The marking of the records of the numbers `qs`. -/
def markAll (qs : List U32) (s : State) : State := qs.foldl (fun u q => addDefect q .aborted u) s

theorem markAll_touches (qs : List U32) (s : State) : Touches [.track, .pos, .app] s (markAll qs s) :=
  Touches.foldl (fun u q => addDefect_touches q .aborted u) qs s

theorem findRecord_of_seq {q : U32} (h : ∃ r ∈ s.track.records, r.seq = q) : ∃ r, findRecord s q = some r := by
  obtain ⟨r, hr, hq⟩ := h
  exact Option.isSome_iff_exists.mp (List.find?_isSome.mpr ⟨r, hr, beq_iff_eq.mpr hq⟩)

theorem markAll_track : ∀ (qs : List U32) (s : State), (∀ q ∈ qs, ∃ r ∈ s.track.records, r.seq = q) →
    (markAll qs s).track = { s.track with records := s.track.records.map (marked qs) }
  | [], s, _ => by
    have hid : s.track.records.map (marked []) = s.track.records :=
      (List.map_congr_left fun r _ => marked_nil r).trans (List.map_id _)
    rw [hid]
    rfl
  | q :: qs, s, h => by
    obtain ⟨r, hr⟩ := findRecord_of_seq (h q (List.mem_cons_self ..))
    have htrack := addDefect_track .aborted hr
    have hrest : ∀ p ∈ qs, ∃ r ∈ (addDefect q .aborted s).track.records, r.seq = p := by
      intro p hp
      obtain ⟨x, hx, hxp⟩ := h p (List.mem_cons_of_mem _ hp)
      rw [htrack]
      refine ⟨_, List.mem_map_of_mem hx, ?_⟩
      split <;> exact hxp
    have hstep : (markAll (q :: qs) s).track = (markAll qs (addDefect q .aborted s)).track := rfl
    rw [hstep, markAll_track qs _ hrest, htrack, amended]
    simp only [List.map_map]
    congr 2
    funext x
    exact marked_cons q qs x

theorem addDefect_schedule (q : U32) (c : DefectClass) (s : State) :
    (addDefect q c s).pos = { s.pos with schedule := (addDefect q c s).pos.schedule } := by
  cases hr : findRecord s q with
  | none =>
    unfold addDefect
    rw [hr]
  | some r => rw [(addDefect_cut c hr).2]

theorem markAll_schedule : ∀ (qs : List U32) (s : State),
    (markAll qs s).pos = { s.pos with schedule := (markAll qs s).pos.schedule }
  | [], s => rfl
  | q :: qs, s => by
    have hstep : markAll (q :: qs) s = markAll qs (addDefect q .aborted s) := rfl
    rw [hstep, markAll_schedule qs, addDefect_schedule]

theorem markAll_blanks : ∀ (qs : List U32) (s : State), (markAll qs s).app.blanks = s.app.blanks
  | [], _ => rfl
  | q :: qs, s => (markAll_blanks qs (addDefect q .aborted s)).trans (addDefect_blanks .aborted q s)

/-! ### What is cut -/

theorem entriesCut_trans {c d : U32 → Nat → Bool} (h : EntriesCut c s t) (k : EntriesCut d t u) :
    EntriesCut (fun q i => c q i || d q i) s u := by
  obtain ⟨hc, hp⟩ := h
  obtain ⟨kc, kp⟩ := k
  refine ⟨fun j => ?_, ?_⟩
  · rw [kc, hc]
    dsimp only
    rw [Option.filter_filter]
    congr 1
    congr 1
    funext v
    rw [Bool.not_or, Bool.and_comm]
  · rw [kp, hp]
    dsimp only
    rw [List.filter_filter]
    congr 1
    refine List.filter_congr fun e _ => ?_
    cases e.event <;> simp [Bool.and_comm]

theorem markAll_cut : ∀ (rs : List Record) (s : State), (∀ r ∈ rs, findRecord s r.seq = some r) → (rs.map Record.seq).Nodup →
    EntriesCut (fun q i => rs.any (fun r => cutAt s (withDefect .aborted r) q i)) s (markAll (rs.map Record.seq) s)
  | [], s, _, _ => entriesCut_refl (fun _ _ => rfl) s
  | r :: rs, s, h, hnd => by
    rw [List.map_cons, List.nodup_cons] at hnd
    have hr := h r (List.mem_cons_self ..)
    have hfirst := addDefect_cut .aborted hr
    have hstore : (addDefect r.seq .aborted s).store = s.store := (addDefect_touches _ _ _).store
    have hfind : ∀ x ∈ rs, findRecord (addDefect r.seq .aborted s) x.seq = some x := by
      intro x hx
      have hne : x.seq ≠ r.seq := fun hc => hnd.1 (hc ▸ List.mem_map_of_mem hx)
      have hxs := h x (List.mem_cons_of_mem _ hx)
      have hp : (fun y : Record => (if y.seq == r.seq then withDefect .aborted y else y).seq == x.seq) = fun y => y.seq == x.seq := by
        funext y
        split <;> rfl
      unfold findRecord at *
      rw [addDefect_track .aborted hr, amended, List.find?_map]
      simp only [Function.comp_def, hp]
      rw [hxs, Option.map_some, if_neg (by simpa using hne)]
    have hrest := markAll_cut rs _ hfind hnd.2
    have hcut (x : Record) : cutAt (addDefect r.seq .aborted s) x = cutAt s x := cutAt_congr hstore rfl rfl rfl
    simp only [hcut] at hrest
    exact entriesCut_trans hfirst hrest

/-! ## The order that is marked -/

/-- An order whose abort has been taken (07 R132). -/
def abortedOrder (o : Order) : Order := { o with state := .feedDone, aborted := true }

theorem markAbort_eq (o : Order) (s : State) :
    markAbort o s = markAll (openSeqs s o.tag) (modifyOrder o.tag abortedOrder s) := rfl

theorem markAbort_touches (o : Order) (s : State) : Touches [.orders, .track, .pos, .app] s (markAbort o s) :=
  (modifyOrder_touches o.tag abortedOrder s).andThen (markAll_touches _ _) (by decide) (by decide)

theorem eq_of_tag (hnd : (s.orders.list.map Order.tag).Nodup) (ho : findOrder s o.tag = some o) {y : Order}
    (hy : y ∈ s.orders.list) (htag : y.tag = o.tag) : y = o :=
  List.inj_on_of_nodup_map hnd hy (List.mem_of_find?_eq_some ho) htag

theorem markAbort_orders (hnd : (s.orders.list.map Order.tag).Nodup) (ho : findOrder s o.tag = some o) :
    (markAbort o s).orders = { s.orders with
      list := s.orders.list.map (fun y => if y.tag == o.tag then abortedOrder o else y) } := by
  have hlist : s.orders.list.map (fun y => if y.tag == o.tag then abortedOrder y else y) =
      s.orders.list.map (fun y => if y.tag == o.tag then abortedOrder o else y) := by
    refine List.map_congr_left fun y hy => ?_
    by_cases htag : y.tag = o.tag
    · rw [eq_of_tag hnd ho hy htag]
    · simp [htag]
  rw [markAbort_eq, (markAll_touches _ _).orders, modifyOrder, hlist]

theorem mem_openSeqs {q : U32} {tag : Nat} : q ∈ openSeqs s tag ↔
    ∃ r ∈ s.track.records, r.tag = tag ∧ r.stage = .opened ∧ r.seq = q := by
  simp [openSeqs, and_assoc]

theorem markAbort_track (o : Order) (s : State) : (markAbort o s).track =
    { s.track with records := s.track.records.map (marked (openSeqs s o.tag)) } := by
  rw [markAbort_eq, markAll_track]
  · rfl
  · intro q hq
    obtain ⟨r, hr, -, -, hrq⟩ := mem_openSeqs.mp hq
    exact ⟨r, hr, hrq⟩

theorem inTransit_markAbort (o : Order) (tag : Nat) (s : State) : inTransit (markAbort o s) tag = inTransit s tag := by
  unfold inTransit
  rw [markAbort_track, List.any_map]
  congr 1
  funext r
  simp only [Function.comp_apply, marked]
  split <;> rfl

theorem findOrder_markAbort (ho : findOrder s o.tag = some o) : findOrder (markAbort o s) o.tag = some (abortedOrder o) := by
  rw [markAbort_eq, findOrder_congr (markAll_touches _ _).orders,
    findOrder_map (s := s) (f := fun y => if y.tag == o.tag then abortedOrder y else y) (fun x => by split <;> rfl) rfl, ho,
    Option.map_some, if_pos (by simp)]

theorem find?_map_fixed {α : Type} {p : α → Bool} {f : α → α} : ∀ {l : List α},
    (∀ x ∈ l, f x = x ∨ (p x = false ∧ p (f x) = false)) → (l.map f).find? p = l.find? p
  | [], _ => rfl
  | x :: l, h => by
    have ih := find?_map_fixed (fun y hy => h y (List.mem_cons_of_mem _ hy))
    rw [List.map_cons, List.find?_cons, List.find?_cons, ih]
    rcases h x (List.mem_cons_self ..) with hx | ⟨hx, hfx⟩
    · rw [hx]
    · rw [hx, hfx]

theorem nextOrder_markAbort (hnd : (s.orders.list.map Order.tag).Nodup) (ho : findOrder s o.tag = some o)
    (hs : o.state ≠ .queued) : nextOrder (markAbort o s) = nextOrder s := by
  have hfixed (l : Lane) : (s.orders.list.map (fun y => if y.tag == o.tag then abortedOrder o else y)).find?
      (fun y => y.state == .queued && y.lane == l) = s.orders.list.find? (fun y => y.state == .queued && y.lane == l) := by
    refine find?_map_fixed fun y hy => ?_
    by_cases htag : y.tag = o.tag
    · refine .inr ⟨?_, ?_⟩
      · rw [eq_of_tag hnd ho hy htag]
        simp [hs]
      · simp [htag, abortedOrder]
    · exact .inl (if_neg (by simpa using htag))
  unfold nextOrder
  rw [markAbort_orders hnd ho]
  dsimp only
  rw [hfixed, hfixed]

theorem nextOrder_other (hnd : (s.orders.list.map Order.tag).Nodup) (ho : findOrder s o.tag = some o) (hs : o.state ≠ .queued)
    {n : Order} (hn : nextOrder s = some n) : n.tag ≠ o.tag := by
  intro htag
  obtain ⟨hmem, hq⟩ := nextOrder_queued hn
  rw [eq_of_tag hnd ho hmem htag] at hq
  exact hs hq

/-! ## The end of an abort -/

theorem finishAbort_stays {x : Order} (hx : findOrder s o.tag = some x) (ht : inTransit s o.tag = true) :
    finishAbort o s = (s, abortReply (some x.state) none) := by
  unfold finishAbort
  rw [hx]
  exact if_pos ht

theorem finishAbort_leaves {x : Order} {e : EndState} (hx : findOrder s o.tag = some x) (ht : inTransit s o.tag = false)
    (he : endStateOf x = some e) : finishAbort o s = (depart x e s, abortReply none (some e)) := by
  unfold finishAbort
  rw [hx]
  dsimp only
  rw [ht, he]
  rfl

theorem orderAbort_taken (h0 : u16 args 0 ≠ 0) (ho : findOrder s (u16 args 0) = some o)
    (hs : o.state = .active ∨ (o.state = .feedDone ∧ o.aborted = false)) :
    orderAbort args s = finishAbort o (abortOrder o s) := by
  unfold orderAbort
  rw [if_neg h0, ho]
  rcases hs with h | ⟨h, ha⟩
  · simp [h]
  · simp [h, ha]

theorem endStateOf_aborted (o : Order) :
    endStateOf (abortedOrder o) = some (if o.delivered = o.quantity then .complete else .aborted) := by
  unfold endStateOf
  by_cases h : o.delivered = o.quantity <;> simp [abortedOrder, h]

theorem abortReply_end (o : Order) : (abortReply none (some (if o.delivered = o.quantity then .complete else .aborted))).payload =
    [255#8, if o.delivered = o.quantity then 0#8 else 2#8] := by
  split <;> rfl

/-- The order as it is left by what follows on its abort. -/
theorem findOrder_abortOrder (hnd : (s.orders.list.map Order.tag).Nodup) (ho : findOrder s o.tag = some o)
    (hs : o.state ≠ .queued) : findOrder (abortOrder o s) o.tag = some (abortedOrder o) ∧
      inTransit (abortOrder o s) o.tag = inTransit s o.tag := by
  have hmark := findOrder_markAbort ho
  unfold abortOrder
  split
  · have hother : ∀ n, nextOrder (markAbort o s) = some n → n.tag ≠ o.tag := by
      rw [nextOrder_markAbort hnd ho hs]
      exact fun n hn => nextOrder_other hnd ho hs hn
    refine ⟨(findOrder_afterActive_other hother _).trans hmark, ?_⟩
    rw [inTransit, (afterActive_touches _ _).track]
    exact inTransit_markAbort o o.tag s
  · exact ⟨hmark, inTransit_markAbort o o.tag s⟩

theorem eraseP_map_same {x : Order} {tag : Nat} (hx : x.tag = tag) : ∀ {l : List Order}, (l.map Order.tag).Nodup →
    (l.map (fun y => if y.tag == tag then x else y)).eraseP (fun y => y.tag == tag) = l.eraseP (fun y => y.tag == tag)
  | [], _ => rfl
  | y :: l, hnd => by
    rw [List.map_cons, List.nodup_cons] at hnd
    by_cases hy : y.tag = tag
    · have hrest : l.map (fun z => if z.tag == tag then x else z) = l := by
        refine (List.map_congr_left fun z hz => ?_).trans (List.map_id l)
        have hne : z.tag ≠ tag := fun hc => hnd.1 (hy.trans hc.symm ▸ List.mem_map_of_mem hz)
        rw [if_neg (by simpa using hne)]
        rfl
      rw [List.map_cons, if_pos (by simpa using hy), List.eraseP_cons_of_pos (by simpa using hx),
        List.eraseP_cons_of_pos (by simpa using hy), hrest]
    · have hn : ¬ (y.tag == tag) = true := by simpa using hy
      have hskip (l : List Order) : (y :: l).eraseP (fun z => z.tag == tag) = y :: l.eraseP (fun z => z.tag == tag) :=
        List.eraseP_cons_of_neg hn
      rw [List.map_cons, if_neg hn, hskip, hskip, eraseP_map_same hx hnd.2]

/-! ## The statement, part by part -/

theorem marked_spec (s : State) (o : Order) (i : Nat) (r : Record) (hr : s.track.records[i]? = some r) :
    ∃ r', (markAbort o s).track.records[i]? = some r' ∧
      ((r.tag = o.tag ∧ r.stage = .opened) → hasDefect r'.defects .aborted = true) ∧
      r' = { r with defects := r'.defects } ∧
      (∀ c, c ≠ .aborted → hasDefect r'.defects c = hasDefect r.defects c) ∧
      ((s.track.records.map Record.seq).Nodup → r.tag ≠ o.tag ∨ r.stage = .committed → r' = r) := by
  have hmem : r ∈ s.track.records := List.mem_of_getElem? hr
  refine ⟨marked (openSeqs s o.tag) r, ?_, fun ⟨htag, hopen⟩ => ?_, ?_, fun c hc => ?_, fun hnd hno => ?_⟩
  · rw [markAbort_track]
    dsimp only
    rw [List.getElem?_map, hr]
    rfl
  · rw [marked, if_pos (mem_openSeqs.mpr ⟨r, hmem, htag, hopen, rfl⟩)]
    simp [withDefect, hasDefect, oneDefect, defectBit]
  · unfold marked
    split <;> rfl
  · unfold marked
    split
    · cases c <;> first | exact absurd rfl hc | simp [withDefect, hasDefect, oneDefect, defectBit]
    · rfl
  · refine if_neg fun hq => ?_
    obtain ⟨x, hx, htag, hopen, hseq⟩ := mem_openSeqs.mp hq
    obtain rfl : x = r := List.inj_on_of_nodup_map hnd hx hmem hseq
    rcases hno with h | h
    · exact h htag
    · rw [hopen] at h
      cases h

theorem markAbort_cut (o : Order) (hnd : (s.track.records.map Record.seq).Nodup) :
    EntriesCut (fun q i => s.track.records.any (fun r => r.tag == o.tag && r.stage == .opened
      && cutAt s { r with defects := r.defects ||| oneDefect .aborted } q i)) s (markAbort o s) := by
  have hfind : ∀ r ∈ s.track.records.filter (fun r => r.tag == o.tag && r.stage == .opened),
      findRecord (modifyOrder o.tag abortedOrder s) r.seq = some r := by
    intro r hr
    obtain ⟨x, hx⟩ := findRecord_of_seq (s := s) ⟨r, List.mem_of_mem_filter hr, rfl⟩
    have hfound : findRecord (modifyOrder o.tag abortedOrder s) r.seq = some x := hx
    rw [hfound, List.inj_on_of_nodup_map hnd (List.mem_of_find?_eq_some hx) (List.mem_of_mem_filter hr) (seq_of_findRecord hx)]
  have hcut := markAll_cut _ _ hfind ((List.filter_sublist.map Record.seq).nodup hnd)
  have hany : (fun q i => s.track.records.any (fun r => r.tag == o.tag && r.stage == .opened
      && cutAt s { r with defects := r.defects ||| oneDefect .aborted } q i)) = fun q i =>
      (s.track.records.filter (fun r => r.tag == o.tag && r.stage == .opened)).any
        (fun r => cutAt (modifyOrder o.tag abortedOrder s) (withDefect .aborted r) q i) := by
    funext q i
    rw [List.any_filter]
    rfl
  rw [hany]
  exact entriesCut_of_eq rfl rfl hcut

theorem markAbort_frame (o : Order) (s : State) : markAbort o s = { s with
    orders := (markAbort o s).orders, track := (markAbort o s).track,
    app := { s.app with channels := (markAbort o s).app.channels },
    pos := { s.pos with schedule := (markAbort o s).pos.schedule } } := by
  have hpos : (markAbort o s).pos = { s.pos with schedule := (markAbort o s).pos.schedule } := markAll_schedule _ _
  have happ : (markAbort o s).app = { s.app with channels := (markAbort o s).app.channels } :=
    app_of_blanks (markAll_blanks _ _)
  rw [← hpos, ← happ]
  exact frame_of_touches (markAbort_touches o s)

theorem abortOrder_done (h : o.state = .feedDone) : abortOrder o s = markAbort o s := by
  unfold abortOrder
  rw [if_neg (by simp [h])]

theorem abortOrder_active (h : o.state = .active) : abortOrder o s = afterActive o.holdAfter (markAbort o s) := if_pos h

theorem abort_stays (ha : accepts s 2 args = true) (h0 : u16 args 0 ≠ 0) (ho : findOrder s (u16 args 0) = some o)
    (hnd : (s.orders.list.map Order.tag).Nodup) (hs : o.state = .active ∨ (o.state = .feedDone ∧ o.aborted = false))
    (ht : inTransit s o.tag = true) : exec (.orderAbort args) s = answered 42 args s .ok [2#8, 255#8] (abortOrder o s) := by
  have hqueued : o.state ≠ .queued := by rcases hs with h | ⟨h, -⟩ <;> simp [h]
  obtain ⟨hfind, htransit⟩ := findOrder_abortOrder hnd (tag_of_findOrder ho ▸ ho) hqueued
  refine congrArg _ ((request_accepted ha 42 _).trans ?_)
  rw [orderAbort_taken h0 ho hs, finishAbort_stays hfind (htransit.trans ht)]
  rfl

theorem abort_leaves (ha : accepts s 2 args = true) (h0 : u16 args 0 ≠ 0) (ho : findOrder s (u16 args 0) = some o)
    (hnd : (s.orders.list.map Order.tag).Nodup) (hs : o.state = .active ∨ (o.state = .feedDone ∧ o.aborted = false))
    (ht : inTransit s o.tag = false) : exec (.orderAbort args) s = answered 42 args s .ok
      [255#8, if o.delivered = o.quantity then 0#8 else 2#8]
      (depart (abortedOrder o) (if o.delivered = o.quantity then .complete else .aborted) (abortOrder o s)) := by
  have hqueued : o.state ≠ .queued := by rcases hs with h | ⟨h, -⟩ <;> simp [h]
  obtain ⟨hfind, htransit⟩ := findOrder_abortOrder hnd (tag_of_findOrder ho ▸ ho) hqueued
  refine congrArg _ ((request_accepted ha 42 _).trans ?_)
  rw [orderAbort_taken h0 ho hs, finishAbort_leaves hfind (htransit.trans ht) (endStateOf_aborted o)]
  dsimp only
  rw [← abortReply_end o]
  rfl

theorem abort_queued (h0 : u16 args 0 ≠ 0) (ho : findOrder s (u16 args 0) = some o) (hs : o.state = .queued) :
    orderAbort args s = (depart o .aborted s, abortReply none (some .aborted)) := by
  unfold orderAbort
  rw [if_neg h0, ho]
  exact if_pos hs

theorem abort_again (h0 : u16 args 0 ≠ 0) (ho : findOrder s (u16 args 0) = some o) (hs : o.state = .feedDone)
    (hab : o.aborted = true) : orderAbort args s = (s, abortReply (some .feedDone) none) := by
  unfold orderAbort
  rw [if_neg h0, ho]
  simp [hs, hab]

theorem afterActive_frame (b : Bool) (s : State) : afterActive b s = { s with
    orders := (afterActive b s).orders, notices := (afterActive b s).notices, reg := (afterActive b s).reg,
    pos := { s.pos with due := (afterActive b s).pos.due } } := by
  rw [← (OrdersMove.afterActive b s).pos]
  exact frame_of_touches (afterActive_touches b s)

/-- What HOLD_AFTER leaves of orders and notices. -/
theorem afterActive_held (s : State) : (afterActive true s).orders = { s.orders with feedState := .suspended } ∧
    (afterActive true s).notices = (offer (.feedWait false (nextTag s)) s).notices := by
  rw [afterActive_holds, (updateSource_touches _).orders, (updateSource_touches _).notices, (offer_touches _ _).orders]
  exact ⟨rfl, offer_notices _ rfl⟩

theorem afterActive_selected (s : State) : (afterActive false s).orders = (select s).orders ∧
    (afterActive false s).notices = (select s).notices :=
  ⟨(updateSource_touches _).orders, (updateSource_touches _).notices⟩

/-- A departure that brings neither a selection nor a look at the next order. -/
theorem depart_quiet (h : o.state ≠ .active) (hf : s.orders.feedState ≠ .changeover) (e : EndState) :
    (depart o e s).orders = { s.orders with list := s.orders.list.eraseP (fun x => x.tag == o.tag) } ∧
    (depart o e s).notices = (offer (.orderEnd o.tag e o.delivered o.boxesClosed (shortfallOf o e)) s).notices := by
  rw [depart_stays h hf, (updateSource_touches _).orders, (updateSource_touches _).notices]
  exact ⟨departing_orders o e s, departing_notices o e s⟩

theorem completionTest_spec (tag : Nat) (s : State) :
    ((∀ o, o ∈ s.orders.list → o.tag ≠ tag) ∨ (∃ r, r ∈ s.track.records ∧ r.tag = tag) → completionTest tag s = s) ∧
    (∀ o, findOrder s tag = some o → (∀ r, r ∈ s.track.records → r.tag ≠ tag) →
      (o.delivered = o.quantity → completionTest tag s = depart o .complete s) ∧
      (o.delivered ≠ o.quantity → o.aborted = true → completionTest tag s = depart o .aborted s) ∧
      (o.delivered ≠ o.quantity → o.aborted = false → o.state = .feedDone → completionTest tag s = depart o .short s) ∧
      (o.delivered ≠ o.quantity → o.aborted = false → o.state ≠ .feedDone → completionTest tag s = s)) := by
  refine ⟨fun h => ?_, fun o ho ht => ⟨fun hd => ?_, fun hd ha => ?_, fun hd ha hs => ?_, fun hd ha hs => ?_⟩⟩
  · rcases h with h | h
    · exact completionTest_unlisted (findOrder_none.mpr h)
    · exact completionTest_transit (inTransit_true.mpr h)
  · exact completionTest_departs ho (inTransit_false.mpr ht) (by simp [endStateOf, hd])
  · exact completionTest_departs ho (inTransit_false.mpr ht) (by simp [endStateOf, hd, ha])
  · exact completionTest_departs ho (inTransit_false.mpr ht) (by simp [endStateOf, hd, ha, hs])
  · exact completionTest_stays ho (by simp [endStateOf, hd, ha, hs])

theorem depart_spec (o : Order) (e : EndState) (s v : State)
    (hv : v = offer (.orderEnd o.tag e o.delivered o.boxesClosed (if e = .complete then 0 else o.quantity - o.delivered))
      { s with
        orders := { s.orders with list := s.orders.list.eraseP (fun x => x.tag == o.tag) }
        store := { s.store with
          slots := put s.store.slots o.slot { slotOf s o.slot with refs := (slotOf s o.slot).refs - 1 } } }) :
    (o.state ≠ .active → s.orders.feedState ≠ .changeover → depart o e s = updateSource v) ∧
    (o.state ≠ .active → s.orders.feedState = .changeover → depart o e s = reexamine (updateSource v)) ∧
    (o.state = .active → o.holdAfter = true → depart o e s = updateSource
      (offer (.feedWait false (nextTag v)) { v with orders := { v.orders with feedState := .suspended } })) ∧
    (o.state = .active → o.holdAfter = false → depart o e s = updateSource (select v)) ∧
    updateSource v = { v with reg := (updateSource v).reg, pos := { v.pos with due := (updateSource v).pos.due } } := by
  rw [← departing_spelled] at hv
  subst hv
  exact ⟨fun h hf => depart_stays h hf e, fun h _ => depart_looks h e, fun h hh => depart_holds h hh e,
    fun h hh => depart_selects h hh e, updateSource_frame _⟩

/-- Settles O43. -/
theorem orderAbort : Obligations.OrderAbort := by
  refine ⟨fun args s ha => ⟨fun h0 => ?_, fun h0 hno => ?_, fun o h0 ho => ⟨fun hs hab => ?_, fun hs => ?_, fun hs hf => ?_⟩⟩,
    fun args s m o x ha h0 ho hnd hs hm hx => ?_, fun tag s => completionTest_spec tag s, depart_spec⟩
  · exact congrArg _ ((request_accepted ha 42 _).trans (by rw [Machine.orderAbort, if_pos h0]; rfl))
  · exact congrArg _ ((request_accepted ha 42 _).trans (by
      rw [Machine.orderAbort, if_neg h0, findOrder_none.mpr hno]; rfl))
  · exact congrArg _ ((request_accepted ha 42 _).trans (by rw [abort_again h0 ho hs hab]; rfl))
  · exact congrArg _ ((request_accepted ha 42 _).trans (by rw [abort_queued h0 ho hs]; rfl))
  · have hactive : o.state ≠ .active := by simp [hs]
    obtain ⟨horders, hnotices⟩ := depart_quiet (s := s) hactive hf .aborted
    have hsource := updateSource_touches (departing o .aborted s)
    have hleft := departing_touches o .aborted s
    refine ⟨depart o .aborted s, congrArg _ ((request_accepted ha 42 _).trans (by rw [abort_queued h0 ho hs]; rfl)), horders, hnotices,
      ?_, ?_, ?_, ?_, ?_⟩
    · rw [← departing_slot o .aborted s, depart_stays hactive hf, slotOf, hsource.store]
      rfl
    · rw [depart_stays hactive hf, hsource.track, hleft.track]
    · rw [depart_stays hactive hf, hsource.deliv, hleft.deliv]
    · rw [depart_stays hactive hf, hsource.line, hleft.line]
    · rw [depart_stays hactive hf, hsource.counters, hleft.counters]
  · have htag := tag_of_findOrder ho
    have hfind : findOrder s o.tag = some o := htag ▸ ho
    have hqueued : o.state ≠ .queued := by rcases hs with h | ⟨h, -⟩ <;> simp [h]
    obtain rfl : x = abortedOrder o := hx
    subst hm
    have hnext : nextOrder (markAbort o s) = nextOrder s := nextOrder_markAbort hnd hfind hqueued
    have hnextTag : nextTag (markAbort o s) = nextTag s := by rw [nextTag, hnext]; rfl
    have hnotices : (markAbort o s).notices = s.notices := (markAbort_touches o s).notices
    have horders := markAbort_orders hnd hfind
    refine ⟨horders, marked_spec s o, ?_, ?_, markAbort_cut o, markAbort_frame o s, fun ht => ⟨fun hd => ?_, fun hac hh => ?_, fun hac hh => ?_⟩,
      fun ht e he => ⟨?_, fun hd hf => ?_, fun hac hh => ?_⟩⟩
    · rw [markAbort_track, List.length_map]
    · rw [markAbort_track]
    · rw [abort_stays ha h0 ho hnd hs (inTransit_true.mpr ht), abortOrder_done hd]
    · obtain ⟨horders', hnotices'⟩ := afterActive_held (markAbort o s)
      refine ⟨afterActive true (markAbort o s), ?_, ?_, horders', ?_, afterActive_frame true _⟩
      · rw [abort_stays ha h0 ho hnd hs (inTransit_true.mpr ht), abortOrder_active hac, hh]
      · rw [afterActive_holds, hnextTag]
        rfl
      · rw [hnotices', hnextTag]
        exact offer_notices _ hnotices
    · obtain ⟨horders', hnotices'⟩ := afterActive_selected (markAbort o s)
      refine ⟨afterActive false (markAbort o s), ?_, afterActive_selects _, horders', hnotices', fun hnone => ?_, afterActive_frame false _⟩
      · rw [abort_stays ha h0 ho hnd hs (inTransit_true.mpr ht), abortOrder_active hac, hh]
      · rw [horders', hnotices', select_none (hnext.trans hnone)]
        exact ⟨rfl, hnotices⟩
    · subst he
      rw [abort_leaves ha h0 ho hnd hs (inTransit_false.mpr ht)]
      rfl
    · subst he
      have hnot : (abortedOrder o).state ≠ .active := by simp [abortedOrder]
      have hfeed : (markAbort o s).orders.feedState ≠ .changeover := by rw [horders]; exact hf
      obtain ⟨horders', hnotices'⟩ := depart_quiet hnot hfeed (if o.delivered = o.quantity then .complete else .aborted)
      refine ⟨_, abort_leaves ha h0 ho hnd hs (inTransit_false.mpr ht), ?_, ?_⟩
      · rw [abortOrder_done hd, horders', horders]
        exact congrArg (fun l => { s.orders with list := l }) (eraseP_map_same rfl hnd)
      · rw [abortOrder_done hd, hnotices']
        exact offer_notices _ hnotices
    · subst he
      have hnot : (abortedOrder o).state ≠ .active := by simp [abortedOrder]
      obtain ⟨hheld, hwait⟩ := afterActive_held (markAbort o s)
      have hfeed : (afterActive true (markAbort o s)).orders.feedState ≠ .changeover := by
        rw [hheld]
        exact fun hc => by cases hc
      obtain ⟨horders', hnotices'⟩ := depart_quiet hnot hfeed (if o.delivered = o.quantity then .complete else .aborted)
      refine ⟨_, abort_leaves ha h0 ho hnd hs (inTransit_false.mpr ht), ?_, ?_⟩
      · rw [abortOrder_active hac, hh, horders', hheld, horders]
        exact congrArg (fun l => { s.orders with feedState := .suspended, list := l }) (eraseP_map_same rfl hnd)
      · rw [abortOrder_active hac, hh, hnotices']
        refine offer_notices _ (hwait.trans ?_)
        rw [hnextTag]
        exact offer_notices _ hnotices

end Sys2Proof.AbortRules
end

section
/-! SUPPORT. LINE_PURGE (09 R161): the removals one after another, and the completion tests that they bring. -/

namespace Sys2Proof.PurgeRules

open Sys2Proof.Machine Sys2Proof.Overlay Sys2Proof.Passes Sys2Proof.Removal Sys2Proof.RegisterRules Sys2Proof.StationRules
  Sys2Proof.OrderRules Sys2Proof.Leaving Sys2Proof.GateRules Sys2Proof.BoxRules Sys2Proof.Activation Sys2Proof.Departures
  Sys2Proof.AbortRules

set_option Elab.async false

variable {s t u v : State} {o : Order}

/-! ## Orders that stand, and orders that have left -/

/-- Order `o` is in the list, is not QUEUED, and no two orders share a tag. -/
structure Stands (o : Order) (s : State) : Prop where
  distinct : (s.orders.list.map Order.tag).Nodup
  listed : findOrder s o.tag = some o
  state : o.state ≠ .queued

namespace Stands

theorem next (h : Stands o s) {n : Order} (hn : nextOrder s = some n) : n.tag ≠ o.tag :=
  nextOrder_other h.distinct h.listed h.state hn

theorem of_list (h : Stands o s) (ht : t.orders.list = s.orders.list) : Stands o t :=
  ⟨ht ▸ h.distinct, by rw [← h.listed, findOrder, findOrder, ht], h.state⟩

theorem select (h : Stands o s) : Stands o (select s) :=
  ⟨(tags_select s).symm ▸ h.distinct, (findOrder_select_other fun _ hn => h.next hn).trans h.listed, h.state⟩

theorem reexamine (h : Stands o s) : Stands o (reexamine s) :=
  ⟨(tags_reexamine s).symm ▸ h.distinct, (findOrder_reexamine_other fun _ hn => h.next hn).trans h.listed, h.state⟩

theorem updateSource (h : Stands o s) : Stands o (updateSource s) := h.of_list (by rw [(updateSource_touches s).orders])

theorem afterActive (h : Stands o s) (b : Bool) : Stands o (afterActive b s) := by
  cases b
  · exact h.select.updateSource
  · have hheld : (offer (.feedWait false (nextTag s)) (setFeed .suspended s)).orders.list = s.orders.list := by
      rw [(offer_touches _ _).orders]
      rfl
    exact (h.of_list hheld).updateSource

theorem departing (h : Stands o s) {x : Order} (hx : x.tag ≠ o.tag) (e : EndState) : Stands o (departing x e s) := by
  have horders := departing_orders x e s
  refine ⟨?_, (findOrder_removed_other hx (congrArg OrderUnit.list horders)).trans h.listed, h.state⟩
  rw [horders]
  exact (List.eraseP_sublist.map Order.tag).nodup h.distinct

theorem depart (h : Stands o s) {x : Order} (hx : x.tag ≠ o.tag) (e : EndState) : Stands o (depart x e s) := by
  rw [depart_eq]
  split
  · exact ((h.departing hx e).afterActive _).updateSource.reexamine
  · exact (h.departing hx e).updateSource.reexamine

theorem completionTest (h : Stands o s) {tag : Nat} (ht : tag ≠ o.tag) : Stands o (completionTest tag s) := by
  unfold Machine.completionTest
  split
  · exact h
  · next x hx =>
    split
    · exact h
    · split
      · exact h
      · exact h.depart (by rw [tag_of_findOrder hx]; exact ht) _

end Stands

theorem tags_afterActive (b : Bool) (s : State) : (afterActive b s).orders.list.map Order.tag = s.orders.list.map Order.tag := by
  cases b
  · rw [afterActive_selects, (updateSource_touches _).orders, tags_select]
  · rw [afterActive_holds, (updateSource_touches _).orders, (offer_touches _ _).orders]
    rfl

theorem tags_depart (x : Order) (e : EndState) (s : State) : (depart x e s).orders.list.map Order.tag =
    (s.orders.list.eraseP (fun y => y.tag == x.tag)).map Order.tag := by
  have hdeparting : (departing x e s).orders.list = s.orders.list.eraseP (fun y => y.tag == x.tag) := by
    rw [departing_orders]
  rw [depart_eq, tags_reexamine, (updateSource_touches _).orders, ← hdeparting]
  split
  · exact tags_afterActive _ _
  · rfl

theorem tags_completionTest (tag : Nat) (s : State) :
    ((completionTest tag s).orders.list.map Order.tag).Sublist (s.orders.list.map Order.tag) := by
  unfold completionTest
  split
  · exact List.Sublist.refl _
  · split
    · exact List.Sublist.refl _
    · split
      · exact List.Sublist.refl _
      · rw [tags_depart]
        exact List.eraseP_sublist.map _

/-- No order of the list has tag `tag`. -/
def Left (tag : Nat) (s : State) : Prop := tag ∉ s.orders.list.map Order.tag

theorem left_completionTest {tag : Nat} (h : Left tag s) (k : Nat) : Left tag (completionTest k s) :=
  fun hm => h ((tags_completionTest k s).subset hm)

theorem nodup_eraseP_tag {x : Order} : ∀ {l : List Order}, (l.map Order.tag).Nodup →
    x.tag ∉ (l.eraseP (fun y => y.tag == x.tag)).map Order.tag
  | [], _ => List.not_mem_nil
  | y :: l, h => by
    rw [List.map_cons, List.nodup_cons] at h
    by_cases hy : y.tag = x.tag
    · rw [List.eraseP_cons_of_pos (by simpa using hy), ← hy]
      exact h.1
    · have hskip : (y :: l).eraseP (fun z => z.tag == x.tag) = y :: l.eraseP (fun z => z.tag == x.tag) :=
        List.eraseP_cons_of_neg (by simpa using hy)
      rw [hskip, List.map_cons, List.mem_cons, not_or]
      exact ⟨fun hc => hy hc.symm, nodup_eraseP_tag h.2⟩

/-- The completion test of a FEED_DONE order without a record in transit takes it out of the list. -/
theorem left_of_done (h : Stands o s) (hs : o.state = .feedDone) (ht : inTransit s o.tag = false) :
    Left o.tag (completionTest o.tag s) := by
  obtain ⟨e, he⟩ : ∃ e, endStateOf o = some e := by
    unfold endStateOf
    split
    · exact ⟨_, rfl⟩
    · split
      · exact ⟨_, rfl⟩
      · exact ⟨_, rfl⟩
  rw [completionTest_departs h.listed ht he, Left, tags_depart]
  exact nodup_eraseP_tag h.distinct

/-! ## The completion tests of a purge -/

/-- The list with the records `rs` in it. -/
def withRecords (rs : List Record) (s : State) : State := { s with track := { s.track with records := rs } }

/-- The completion tests of the records of a list that leave it head first. -/
def tested (rs : List Record) (s : State) : State :=
  (List.range rs.length).foldl (fun v i => completionTest ((rs.map Record.tag).getD i 0) (withRecords (rs.drop (i + 1)) v)) s

theorem tested_cons (r : Record) (rs : List Record) (s : State) :
    tested (r :: rs) s = tested rs (completionTest r.tag (withRecords rs s)) := by
  unfold tested
  rw [List.length_cons, List.range_succ_eq_map, List.foldl_cons, List.foldl_map]
  rfl

theorem left_tested {tag : Nat} : ∀ (rs : List Record) {s : State}, Left tag s → Left tag (tested rs s)
  | [], _, h => h
  | r :: rs, s, h => by
    have hrest : Left tag (withRecords rs s) := h
    rw [tested_cons]
    exact left_tested rs (left_completionTest hrest r.tag)

/-- An order with a record among those that leave is tested when the last of them has left. -/
theorem tested_leaves (hs : o.state = .feedDone) : ∀ (rs : List Record) {s : State}, Stands o s →
    (∃ r ∈ rs, r.tag = o.tag) → Left o.tag (tested rs s)
  | [], _, _, ⟨_, hr, _⟩ => by cases hr
  | r :: rs, s, h, hmem => by
    have hrest : Stands o (withRecords rs s) := h.of_list rfl
    rw [tested_cons]
    by_cases htag : r.tag = o.tag
    · by_cases hmore : ∃ x ∈ rs, x.tag = o.tag
      · rw [htag, completionTest_transit (inTransit_true.mpr hmore)]
        exact tested_leaves hs rs hrest hmore
      · refine left_tested rs ?_
        rw [htag]
        exact left_of_done hrest hs (inTransit_false.mpr fun x hx hxt => hmore ⟨x, hx, hxt⟩)
    · refine tested_leaves hs rs (hrest.completionTest htag) ?_
      obtain ⟨x, hx, hxt⟩ := hmem
      rcases List.mem_cons.mp hx with rfl | hx
      · exact absurd hxt htag
      · exact ⟨x, hx, hxt⟩

/-- The removals agree with the tests alone in all that a test reads and changes. -/
theorem removeHeads_view : ∀ (rs : List Record) {s v : State}, s.track.records = rs → SameView s (withRecords rs v) →
    SameView (removeHeads rs.length s) (withRecords [] (tested rs v))
  | [], s, v, hr, h => h
  | r :: rs, s, v, hr, h => by
    have hgone : SameView (gone r [.lost] s) (withRecords rs v) := by
      have htouch := gone_touches r [.lost] s
      refine ⟨htouch.orders.trans h.orders, htouch.notices.trans h.notices, htouch.reg.trans h.reg, ?_, ?_, fun k => ?_⟩
      · rw [gone_pos]
        exact h.due
      · rw [gone_track, hr, List.eraseP_cons_of_pos (by simp)]
        rfl
      · exact (recipeOf_gone r [.lost] s k).trans (h.recipes k)
    have htest := hgone.completionTest r.tag
    have hdrain := drainTest_touches (completionTest r.tag (gone r [.lost] s))
    have hrecords : (completionTest r.tag (withRecords rs v)).track.records = rs := by
      rw [(completionTest_touches r.tag _).track]
      rfl
    have hremoved : SameView (removeRecord r [.lost] s) (withRecords rs (completionTest r.tag (withRecords rs v))) := by
      refine ⟨hdrain.orders.trans htest.orders, hdrain.notices.trans htest.notices, hdrain.reg.trans htest.reg, ?_, ?_, fun k => ?_⟩
      · rw [removeRecord_gone, hdrain.pos]
        exact htest.due
      · rw [removeRecord_gone, hdrain.track]
        exact htest.records.trans hrecords
      · rw [recipeOf, removeRecord_gone, hdrain.store]
        exact htest.recipes k
    have hstep : removeHeads (r :: rs).length s = removeHeads rs.length (removeRecord r [.lost] s) := by
      rw [List.length_cons, removeHeads, hr]
    rw [hstep, tested_cons]
    refine removeHeads_view rs ?_ hremoved
    rw [removeRecord_track, hr, List.eraseP_cons_of_pos (by simp)]

/-! ## What the removals leave -/

theorem not_contains_cons (q : U32) (qs : List U32) (x : U32) :
    (!(q :: qs).contains x) = (!qs.contains x && ! [q].contains x) := by
  rw [List.contains_cons, contains_singleton, Bool.not_or, Bool.and_comm]

theorem filter_leaving {α : Type} (q : U32) (qs : List U32) (f : α → U32) (o : Option α) :
    (o.filter (fun x => ! [q].contains (f x))).filter (fun x => !qs.contains (f x)) =
      o.filter (fun x => !(q :: qs).contains (f x)) := by
  cases o with
  | none => rfl
  | some x =>
    by_cases hq : f x = q
    · simp [Option.filter, hq]
    · by_cases hx : f x ∈ qs <;> simp [Option.filter, hq, hx]

theorem blanksLeft_cons {q : U32} {qs : List U32} (h : BlanksLeft [q] s t) (k : BlanksLeft qs t u) : BlanksLeft (q :: qs) s u := by
  obtain ⟨hb, hc, hm⟩ := h
  obtain ⟨kb, kc, km⟩ := k
  refine ⟨?_, fun j => ?_, fun j => ?_⟩
  · have hnot := not_contains_cons q qs
    rw [kb, hb, List.filter_filter]
    simp only [hnot]
  · rw [kc, hc]
    dsimp only
    rw [filter_leaving q qs Serving.seq]
  · rw [km, hm, filter_leaving q qs Measurement.seq]

theorem eventsLeft_cons (q : U32) (qs : List U32) (es : List Pending) :
    eventsLeft qs (eventsLeft [q] es) = eventsLeft (q :: qs) es := by
  unfold eventsLeft
  rw [List.filter_filter]
  refine List.filter_congr fun e _ => ?_
  cases eventBlank e.event with
  | none => rfl
  | some p => exact (not_contains_cons q qs p).symm

theorem blanksLeft_nil (s : State) : BlanksLeft [] s s := by
  have hall {α : Type} (f : α → U32) (o : Option α) : o.filter (fun x => !([] : List U32).contains (f x)) = o := by
    cases o <;> rfl
  refine ⟨(List.filter_eq_self.mpr fun _ _ => rfl).symm, fun k => ?_, fun j => ?_⟩
  · rw [hall Serving.seq]
  · rw [hall Measurement.seq]

theorem eventsLeft_nil (es : List Pending) : eventsLeft [] es = es := by
  unfold eventsLeft
  refine List.filter_eq_self.mpr fun e _ => ?_
  cases eventBlank e.event <;> rfl

/-- What the removals of the records `rs` leave of a line in HALTED. -/
structure Purged (rs : List Record) (s t : State) : Prop where
  track : t.track = { s.track with records := [] }
  line : t.line = s.line
  count : ∀ c, counter t c = counter s c + BitVec.ofNat 32 (if c = .lost then rs.length else 0)
  insp : ∀ j, inspChannel t j = { inspChannel s j with measurement := (inspChannel t j).measurement }
  blanks : BlanksLeft (rs.map Record.seq) s t
  pos : t.pos = { s.pos with schedule := eventsLeft (rs.map Record.seq) s.pos.schedule, due := t.pos.due }
  store : t.store = { s.store with slots := t.store.slots }
  trim : t.reg.trim = s.reg.trim
  last : t.reg.last = s.reg.last
  orders : t.orders = { s.orders with
    list := t.orders.list, feedState := t.orders.feedState, runningClass := t.orders.runningClass }

theorem removeHeads_purged : ∀ (rs : List Record) {s : State}, s.track.records = rs → s.line.run = .halted →
    Purged rs s (removeHeads rs.length s)
  | [], s, hr, _ => by
    refine ⟨?_, rfl, fun c => ?_, fun _ => rfl, blanksLeft_nil s, ?_, rfl, rfl, rfl, rfl⟩
    · show s.track = { s.track with records := [] }
      rw [← hr]
    · simp [removeHeads]
    · rw [List.map_nil, eventsLeft_nil]
      rfl
  | r :: rs, s, hr, hline => by
    have hone := removeRecord_removed r [.lost] s
    have htrack : (removeRecord r [.lost] s).track = { s.track with records := rs } := by
      rw [removeRecord_track, hr, List.eraseP_cons_of_pos (by simp)]
    have hsame : (removeRecord r [.lost] s).line = s.line := by
      rw [hone.line, if_neg (by simp [hline])]
    have hrest := removeHeads_purged rs (s := removeRecord r [.lost] s) (by rw [htrack]) (by rw [hsame, hline])
    have hstep : removeHeads (r :: rs).length s = removeHeads rs.length (removeRecord r [.lost] s) := by
      rw [List.length_cons, removeHeads, hr]
    rw [hstep]
    refine ⟨?_, hrest.line.trans hsame, fun c => ?_, fun j => ?_, blanksLeft_cons hone.blanks hrest.blanks, ?_, ?_,
      hrest.trim.trans hone.trim, hrest.last.trans hone.last, ?_⟩
    · rw [hrest.track, htrack]
    · rw [hrest.count, counter_removeRecord]
      by_cases hc : c = .lost
      · subst hc
        simp only [if_true, List.length_cons, List.count_singleton_self, BitVec.ofNat_add, BitVec.add_assoc]
        rw [BitVec.add_comm (BitVec.ofNat 32 1)]
      · rw [if_neg hc, if_neg hc, List.count_cons_of_ne (Ne.symm hc), List.count_nil, BitVec.add_zero]
    · rw [hrest.insp, hone.insp]
    · rw [hrest.pos, hone.pos]
      dsimp only
      rw [eventsLeft_cons]
      rfl
    · rw [hrest.store, hone.store]
    · rw [hrest.orders, hone.orders]

/-! ## LINE_PURGE -/

theorem purge_deliv (hd : (removeAll s).deliv = s.deliv) (hr : (removeAll s).track.records = []) : (purge s).deliv =
    { s.deliv with
      committedCloses := 0, projected := s.deliv.openBox.map (fun b => ⟨b.order, b.tag, b.count⟩) } := by
  have hdrop := dropWatches_touches (removeAll s)
  have hreplay : replay (dropWatches (removeAll s)) = (0, s.deliv.openBox.map projectedOf) := by
    rw [replay_eq, hdrop.track, hr, hdrop.deliv, hd]
    rfl
  rw [purge, rebuildProjection_deliv, hreplay, hdrop.deliv, hd]
  rfl

theorem purge_touches (s : State) : Touches [.insp, .deliv] (removeAll s) (purge s) :=
  (dropWatches_touches _).andThen (rebuildProjection_touches _) (by decide) (by decide)

theorem purge_insp (s : State) (j : Fin 8) : inspChannel (purge s) j = { inspChannel (removeAll s) j with watch := none } :=
  inspChannel_dropWatches (removeAll s) j

/-- Settles O9: the purge is the removal of every record, head first, and what it does besides. -/
theorem linePurge : Obligations.LinePurge := by
  refine fun args s ha => ⟨fun hrun => ?_, fun hrun => ?_⟩
  · have hall := removeHeads_purged s.track.records rfl hrun
    have hview := removeHeads_view s.track.records (s := s) (v := s) rfl ⟨rfl, rfl, rfl, rfl, rfl, fun _ => rfl⟩
    have hfields := Steps.removeHeads_touches s.track.records.length s
    have hpurge := purge_touches s
    change Purged s.track.records s (removeAll s) at hall
    change SameView (removeAll s) _ at hview
    change Touches _ s (removeAll s) at hfields
    have hline : (purge s).line = s.line := hpurge.line.trans hall.line
    have hexec : exec (.linePurge args) s = answered 63 args s .ok
        [BitVec.ofNat 8 s.track.records.length, 3#8, BitVec.ofNat 8 s.line.faults.toNat] (purge s) := by
      refine congrArg _ ((request_accepted ha 63 _).trans ?_)
      have hrecord : lineRecord (purge s) = [3#8, BitVec.ofNat 8 s.line.faults.toNat] := by
        rw [lineRecord, hline, hrun]
        rfl
      rw [Machine.linePurge, if_pos hrun, hrecord]
      rfl
    refine ⟨purge s, hexec, ?_, hline, ?_, fun c hc => ?_, fun j => ?_, ?_, ?_, ?_, ?_, ?_, ?_, ?_, ?_, ?_, ?_, ?_, ?_, ?_, ?_⟩
    · rw [hpurge.track, hall.track]
    · rw [counter_congr hpurge.counters, hall.count, if_pos rfl]
    · rw [counter_congr hpurge.counters, hall.count, if_neg hc, BitVec.add_zero]
    · rw [purge_insp, hall.insp]
    · exact purge_deliv hfields.deliv (by rw [hall.track])
    · refine ⟨?_, fun k => ?_, fun j => ?_⟩
      · rw [hpurge.app, hall.blanks.1]
      · rw [hpurge.app, hall.blanks.2.1]
      · rw [purge_insp, hall.blanks.2.2]
    · rw [hpurge.pos, hall.pos]
    · rw [hpurge.lines, hfields.lines]
    · rw [hpurge.store, hall.store]
    · rw [hpurge.store, hall.store]
    · rw [hpurge.orders, hall.orders]
    · rw [hpurge.orders, hall.orders]
    · rw [hpurge.reg, hall.trim]
    · rw [hpurge.reg, hall.last]
    · rw [hpurge.mgmt, hfields.mgmt]
    · rw [hpurge.ring, hfields.ring]
    · rintro u rfl
      exact ⟨hpurge.orders.trans hview.orders, hpurge.notices.trans hview.notices, hpurge.reg.trans hview.reg,
        (congrArg PositionUnit.due hpurge.pos).trans hview.due⟩
    · intro hnd o ho hdone hmem x hx htag
      have hleft := tested_leaves hdone s.track.records ⟨hnd, findOrder_of_mem hnd ho, by simp [hdone]⟩ hmem
      rw [hpurge.orders, hview.orders] at hx
      exact hleft (htag ▸ List.mem_map_of_mem hx)
  · refine congrArg _ ((request_accepted ha 63 _).trans ?_)
    rw [Machine.linePurge, if_neg hrun]
    rfl

end Sys2Proof.PurgeRules
end

section
/-! SUPPORT. The feed event (07 R125 to R128): what its decision reads, the blank diverted, and the blank accepted. -/

namespace Sys2Proof.FeedRules

open Sys2Proof.Machine Sys2Proof.Overlay Sys2Proof.Removal Sys2Proof.RegisterRules Sys2Proof.StationRules Sys2Proof.OrderRules
  Sys2Proof.Leaving Sys2Proof.Activation Sys2Proof.QueueRules

set_option Elab.async false

variable {s t u v : State} {o : Order}

/-! ## What the decision reads (07 R114, R116, R123; 03 R49) -/

theorem nextOrder_iff (s : State) (o : Order) : nextOrder s = some o ↔ ∃ before behind,
    s.orders.list = before ++ o :: behind ∧ o.state = .queued ∧
      ((o.lane = .priority ∧ ∀ y, y ∈ before → y.state = .queued → y.lane ≠ .priority) ∨
        (o.lane = .normal ∧ (∀ y, y ∈ s.orders.list → y.state = .queued → y.lane = .normal) ∧
          ∀ y, y ∈ before → y.state ≠ .queued)) := by
  have hfind (l : Lane) (x : Order) : s.orders.list.find? (fun o => o.state == .queued && o.lane == l) = some x ↔
      ∃ before behind, s.orders.list = before ++ x :: behind ∧ x.state = .queued ∧ x.lane = l ∧
        ∀ y ∈ before, y.state = .queued → y.lane ≠ l := by
    rw [List.find?_eq_some_iff_append]
    simp only [Bool.and_eq_true, beq_iff_eq, Bool.not_eq_true', Bool.and_eq_false_iff, beq_eq_false_iff_ne]
    constructor
    · rintro ⟨⟨hq, hl⟩, before, behind, hlist, hb⟩
      exact ⟨before, behind, hlist, hq, hl, fun y hy hyq => (hb y hy).resolve_left (fun hc => hc hyq)⟩
    · rintro ⟨before, behind, hlist, hq, hl, hb⟩
      exact ⟨⟨hq, hl⟩, before, behind, hlist, fun y hy => by
        by_cases hyq : y.state = .queued
        · exact .inr (hb y hy hyq)
        · exact .inl hyq⟩
  have hlane (y : Order) : y.lane ≠ .priority ↔ y.lane = .normal := by cases y.lane <;> simp
  unfold nextOrder
  cases hp : s.orders.list.find? (fun o => o.state == .queued && o.lane == .priority) with
  | some x =>
    obtain ⟨before, behind, hlist, hq, hl, hb⟩ := (hfind .priority x).mp hp
    constructor
    · intro hx
      obtain rfl : x = o := by simpa using hx
      exact ⟨before, behind, hlist, hq, .inl ⟨hl, hb⟩⟩
    · rintro ⟨b', c', hlist', hq', ⟨hl', hb'⟩ | ⟨-, hall, -⟩⟩
      · exact hp.symm.trans ((hfind .priority o).mpr ⟨b', c', hlist', hq', hl', hb'⟩)
      · have hx := hall x (hlist ▸ List.mem_append_right _ (List.mem_cons_self ..)) hq
        rw [hl] at hx
        cases hx
  | none =>
    have hnone : ∀ y ∈ s.orders.list, y.state = .queued → y.lane = .normal := by
      intro y hy hq
      have hno := List.find?_eq_none.mp hp y hy
      simpa [hq, hlane] using hno
    constructor
    · intro ho
      obtain ⟨before, behind, hlist, hq, hl, hb⟩ := (hfind .normal o).mp ho
      refine ⟨before, behind, hlist, hq, .inr ⟨hl, hnone, fun y hy hyq => hb y hy hyq (hnone y ?_ hyq)⟩⟩
      rw [hlist]
      exact List.mem_append_left _ hy
    · rintro ⟨before, behind, hlist, hq, ⟨hl, -⟩ | ⟨hl, -, hb⟩⟩
      · have hx := hnone o (hlist ▸ List.mem_append_right _ (List.mem_cons_self ..)) hq
        rw [hl] at hx
        cases hx
      · exact (hfind .normal o).mpr ⟨before, behind, hlist, hq, hl, fun y hy hyq => absurd hyq (hb y hy)⟩

theorem isStartable_iff (s : State) : isStartable s = true ↔ ∃ a n, activeOrder s = some a ∧ nextOrder s = some n ∧
    (recipeOf s n.slot).header.formatClass = (recipeOf s a.slot).header.formatClass ∧ a.holdAfter = false := by
  unfold isStartable
  cases ha : activeOrder s with
  | none => simp
  | some a =>
    cases hn : nextOrder s with
    | none => simp
    | some n => simp [formatClassOf]

theorem needOf_eq (s : State) (o : Order) : needOf s o = (if isStartable s then (o.quantity : Int) + o.spare else o.quantity)
    - (o.delivered + committedOf s o.tag : Nat) - hopefulOf s o.tag := by
  unfold needOf targetOf passedOf
  split <;> simp

theorem isHopeful_iff (s : State) (r : Record) : isHopeful s r = true ↔ r.stage = .opened ∧ isRejectable s r = false := by
  simp [isHopeful]

theorem effectiveReject_bit (s : State) (k : Fin 8) (c : DefectClass) : hasDefect (effectiveReject s k) c = true ↔
    c = .sample ∨ c = .aborted ∨ (recipeOf s k).rejectMask.getLsbD (defectBit c) = true := by
  unfold hasDefect effectiveReject
  cases c <;> simp [oneDefect, defectBit]

theorem exists_class {n : Nat} (h : n < 7) : ∃ c : DefectClass, defectBit c = n := by
  interval_cases n
  · exact ⟨.register, rfl⟩
  · exact ⟨.window, rfl⟩
  · exact ⟨.gum, rfl⟩
  · exact ⟨.fold, rfl⟩
  · exact ⟨.thickness, rfl⟩
  · exact ⟨.sample, rfl⟩
  · exact ⟨.aborted, rfl⟩

theorem ne_zero_iff_class (d : BitVec 7) : d ≠ 0#7 ↔ ∃ c, hasDefect d c = true := by
  constructor
  · intro h
    by_contra hno
    refine h (BitVec.eq_of_getLsbD_eq fun i hi => ?_)
    obtain ⟨c, hc⟩ := exists_class hi
    have hbit : hasDefect d c = false := by
      rw [Bool.eq_false_iff]
      exact fun hd => hno ⟨c, hd⟩
    rw [hasDefect, hc] at hbit
    rw [hbit, BitVec.getLsbD_zero]
  · rintro ⟨c, hc⟩ rfl
    simp [hasDefect] at hc

theorem isRejectable_iff (s : State) (r : Record) : isRejectable s r = true ↔ ∃ c, hasDefect r.defects c = true ∧
    (c = .sample ∨ c = .aborted ∨ (recipeOf s r.slot).rejectMask.getLsbD (defectBit c) = true) := by
  have hand (c : DefectClass) : hasDefect (rejectClasses s r) c = true ↔
      hasDefect r.defects c = true ∧ hasDefect (effectiveReject s r.slot) c = true := by
    simp [hasDefect, rejectClasses]
  rw [isRejectable, bne_iff_ne, ne_zero_iff_class]
  simp only [hand, effectiveReject_bit]

theorem reasonSet_bits : ∀ a b c d e : Bool, (reasonSet a b c d e).getLsbD 0 = a ∧ (reasonSet a b c d e).getLsbD 1 = b ∧
    (reasonSet a b c d e).getLsbD 2 = c ∧ (reasonSet a b c d e).getLsbD 3 = d ∧ (reasonSet a b c d e).getLsbD 4 = e := by
  decide

theorem holdsGum_eq (s : State) : holdsGum s = (hasFault s .gumSupply && (activeOrder s).any (fun a =>
    (recipeOf s a.slot).cams.any (fun e => decide ((getAt s.store.inForce.apps e.channel).kind = .gum)))) := by
  unfold holdsGum needsGum
  cases activeOrder s <;> rfl

/-! ## The hand-over test and the decision -/

theorem handOverTest_none (h : s.orders.feedState ≠ .feeding ∨ isStartable s = false ∨ ∀ a, activeOrder s = some a → needOf s a ≠ 0) :
    handOverTest s = s := by
  unfold handOverTest
  split
  · next a n ha hn =>
    refine if_neg ?_
    rintro ⟨hf, hs, hneed⟩
    rcases h with h | h | h
    · exact h hf
    · rw [hs] at h
      cases h
    · exact h a ha hneed
  · rfl

theorem acceptingOrder_none (h : s.line.run ≠ .running ∨ s.orders.feedState ≠ .feeding ∨ holdReasons s ≠ 0#5
    ∨ ∀ a, activeOrder s = some a → needOf s a ≤ 0) : acceptingOrder s = none := by
  unfold acceptingOrder
  split
  · next a ha =>
    refine if_neg ?_
    rintro ⟨hr, hf, hh, hneed⟩
    rcases h with h | h | h | h
    · exact h hr
    · exact h hf
    · exact h hh
    · have := h a ha
      omega
  · rfl

theorem acceptingOrder_of (ha : activeOrder s = some o) (hr : s.line.run = .running) (hf : s.orders.feedState = .feeding)
    (hh : holdReasons s = 0#5) (hn : 0 < needOf s o) : acceptingOrder s = some o := by
  unfold acceptingOrder
  rw [ha]
  exact if_pos ⟨hr, hf, hh, hn⟩

/-! ## States that agree in what a decision reads -/

/-- What the feed decision reads of a state. -/
structure FeedView (s t : State) : Prop where
  orders : t.orders = s.orders
  track : t.track = s.track
  store : t.store = s.store
  reg : t.reg = s.reg
  deliv : t.deliv = s.deliv
  line : t.line = s.line

namespace FeedView

variable (h : FeedView s t)
include h

theorem activeOrder : activeOrder t = activeOrder s := by unfold Machine.activeOrder; rw [h.orders]

theorem nextOrder : nextOrder t = nextOrder s := nextOrder_orders (by rw [h.orders])

theorem recipeOf (k : Fin 8) : recipeOf t k = recipeOf s k := by rw [Machine.recipeOf, h.store]; rfl

theorem isStartable : isStartable t = isStartable s := by
  unfold Machine.isStartable formatClassOf
  rw [h.activeOrder, h.nextOrder]
  simp only [h.recipeOf]

theorem needOf (o : Order) : needOf t o = needOf s o := by
  unfold Machine.needOf targetOf passedOf hopefulOf committedOf isHopeful isRejectable rejectClasses effectiveReject
  rw [h.isStartable, h.track]
  simp only [h.recipeOf]

theorem holdReasons : holdReasons t = holdReasons s := by
  unfold Machine.holdReasons holdsOutfeed holdsGum hasFault needsGum
  rw [h.activeOrder, h.orders, h.store, h.deliv, h.reg, h.line]
  simp only [h.recipeOf]

theorem verdictOf (p : U32) : verdictOf t p = verdictOf s p := by
  unfold Machine.verdictOf captureOf
  rw [h.reg]

end FeedView

theorem feedView_of_touches {fs : List StateField} (h : Touches fs s t)
    (hf : .orders ∉ fs ∧ .track ∉ fs ∧ .store ∉ fs ∧ .reg ∉ fs ∧ .deliv ∉ fs ∧ .line ∉ fs := by decide) : FeedView s t :=
  ⟨h _ hf.1, h _ hf.2.1, h _ hf.2.2.1, h _ hf.2.2.2.1, h _ hf.2.2.2.2.1, h _ hf.2.2.2.2.2⟩

/-! ## Counting, diverting -/

theorem cutCounted (s : State) : CutCounted s (count .cutTotal s) := by
  refine ⟨?_, fun c hc => ?_, rfl⟩
  · rw [counter_count, if_pos rfl]
  · rw [counter_count, if_neg hc]

theorem diverted (s : State) : Diverted s (divertBlank s) := by
  have hcount (c : Counter) : counter (divertBlank s) c = counter (count .diverted s) c := rfl
  refine ⟨?_, fun c hc => ?_, rfl, rfl⟩
  · rw [hcount, counter_count, if_pos rfl]
  · rw [hcount, counter_count, if_neg hc]

theorem feedAt_eq (p : U32) (s : State) : feedAt p s = match acceptingOrder (handOverTest (count .cutTotal s)) with
    | some o => acceptBlank p o (handOverTest (count .cutTotal s))
    | none => divertBlank (handOverTest (count .cutTotal s)) := rfl

/-- What a fired feed event finds, CUT_TOTAL counted, agrees with what stood before. -/
theorem feedView_counted {x : Pos} (hu : takeFired .feed s = some (x, u)) : FeedView s (count .cutTotal u) :=
  feedView_of_touches ((takeFired_touches hu).andThen (hs := [.pos, .counters]) (count_touches .cutTotal u) (by decide) (by decide))

theorem handOverTest_counted {x : Pos} (hu : takeFired .feed s = some (x, u))
    (h : s.orders.feedState ≠ .feeding ∨ isStartable s = false ∨ ∀ a, activeOrder s = some a → needOf s a ≠ 0) :
    handOverTest (count .cutTotal u) = count .cutTotal u := by
  have hview := feedView_counted hu
  refine handOverTest_none ?_
  rw [hview.orders, hview.isStartable, hview.activeOrder]
  simp only [hview.needOf]
  exact h

/-- Settles O45. -/
theorem feedDiverts : Obligations.FeedDiverts := by
  refine ⟨fun s u x hh hu hkeep hdivert => ?_, fun s o r => ?_⟩
  · have hview := feedView_counted hu
    have hnone : acceptingOrder (count .cutTotal u) = none := by
      refine acceptingOrder_none ?_
      rw [hview.line, hview.orders, hview.holdReasons, hview.activeOrder]
      simp only [hview.needOf]
      exact hdivert
    refine ⟨count .cutTotal u, divertBlank (count .cutTotal u), (exec_firing hh hu).trans (congrArg _ ?_), cutCounted u, diverted _⟩
    show feedAt (posPitch x) u = _
    rw [feedAt_eq, handOverTest_counted hu hkeep, hnone]
  · obtain ⟨h0, h1, h2, h3, h4⟩ := reasonSet_bits s.orders.forcedHold (holdsOutfeed s) (s.reg.state == .lost) (holdsGum s)
      (s.line.run == .draining)
    rw [← holdReasons_eq] at h0 h1 h2 h3 h4
    refine ⟨nextOrder_iff s o, isStartable_iff s, rfl, rfl, needOf_eq s o, isHopeful_iff s r, isRejectable_iff s r, h0, ?_, h2,
      h3.trans (holdsGum_eq s), h4⟩
    rw [h1, holdsOutfeed, Bool.decide_and]

/-! ## A blank accepted (03 R41 to R43, 07 R127) -/

theorem mem_indexed {α : Type} {i n : Nat} {x : α} : ∀ {l : List α}, (i, x) ∈ indexed n l ↔ n ≤ i ∧ l[i - n]? = some x
  | [] => by simp [indexed]
  | y :: l => by
    rw [indexed, List.mem_cons, mem_indexed]
    by_cases h : i = n
    · subst h
      simp [Prod.ext_iff, eq_comm]
    · by_cases hlt : n < i
      · have hstep : i - n = i - (n + 1) + 1 := by omega
        rw [hstep, List.getElem?_cons_succ]
        have hle : n + 1 ≤ i ↔ n ≤ i := by omega
        simp [h, hle]
      · have hn : ¬ n + 1 ≤ i := by omega
        have hn' : ¬ n ≤ i := by omega
        simp [h, hn, hn']

theorem mem_dotNumbers (e : CamEntry) (d : Nat) : d ∈ dotNumbers e ↔ d < e.dots ∨ (e.dots = 0 ∧ d = 0) := by
  unfold dotNumbers
  by_cases h : e.dots = 0 <;> simp [h]

theorem pairOn_eq (e : CamEntry) {d : Nat} (h : d < e.dots ∨ (e.dots = 0 ∧ d = 0)) : pairOn e d = e.on + d * e.dotSpacing := by
  unfold pairOn
  rcases h with h | ⟨h0, rfl⟩
  · rw [if_neg (by omega)]
  · rw [if_pos h0, Nat.zero_mul, Nat.add_zero]

/-- The on events of a blank, as the announcement spells them. -/
theorem mem_onEvents {r : Record} {e : Pending} : e ∈ onEvents s r ↔ ∃ (i d : Nat) (c : CamEntry),
    (recipeOf s r.slot).cams[i]? = some c ∧ (d < c.dots ∨ (c.dots = 0 ∧ d = 0)) ∧
    e.event = .appOn r.seq c.channel i d ∧ e.floor = none ∧
    e.nominal = posAt (r.cutPitch + BitVec.ofNat 32 (getAt s.store.inForce.apps c.channel).station) (c.on + d * c.dotSpacing) ∧
    e.pos = posSub e.nominal (getAt s.app.channels c.channel).onLead := by
  unfold onEvents
  simp only [List.mem_flatMap, List.mem_map, Prod.exists, mem_indexed, mem_dotNumbers, Nat.zero_le, true_and, Nat.sub_zero]
  constructor
  · rintro ⟨i, c, hc, d, hd, rfl⟩
    refine ⟨i, d, c, hc, hd, rfl, rfl, ?_, rfl⟩
    rw [← pairOn_eq c hd]
    rfl
  · rintro ⟨i, d, c, hc, hd, hev, hfl, hnom, hpos⟩
    refine ⟨i, c, hc, d, hd, ?_⟩
    obtain ⟨x, v, y, z⟩ := e
    simp only at hev hfl hnom hpos
    subst hev hfl hpos hnom
    rw [onPending, pairOn_eq c hd]
    rfl

/-- The inspection events of a blank, as the announcement spells them. -/
theorem mem_inspEvents {r : Record} {e : Pending} : e ∈ allInsps.flatMap (inspEvents s r) ↔
    ∃ (j : Fin 8) (c : InspSettings) (w : InspectionSetting) (a : Nat), c = getAt s.store.inForce.insps j ∧
      w = getAt (recipeOf s r.slot).settings j ∧ c.enabled = true ∧ w.enabled = true ∧
      ((c.kind = .level ∧ a = w.on ∧ e.event = .inspSample j r.seq) ∨
        ((c.kind = .span ∨ c.kind = .count) ∧ ((a = w.on ∧ e.event = .inspOpen j r.seq) ∨
          (a = w.off ∧ e.event = .inspEnd j r.seq)))) ∧
      e = plainEvent (posAt (r.cutPitch + BitVec.ofNat 32 c.station) a) e.event := by
  rw [List.mem_flatMap]
  constructor
  · rintro ⟨j, -, he⟩
    unfold inspEvents at he
    dsimp only at he
    split at he
    · next hen =>
      obtain ⟨hc, hw⟩ := Bool.and_eq_true_iff.mp hen
      split at he
      · cases he
      · next hk =>
        rcases List.mem_pair.mp he with rfl | rfl
        · exact ⟨j, _, _, _, rfl, rfl, hc, hw, .inr ⟨.inl hk, .inl ⟨rfl, rfl⟩⟩, rfl⟩
        · exact ⟨j, _, _, _, rfl, rfl, hc, hw, .inr ⟨.inl hk, .inr ⟨rfl, rfl⟩⟩, rfl⟩
      · next hk =>
        rcases List.mem_pair.mp he with rfl | rfl
        · exact ⟨j, _, _, _, rfl, rfl, hc, hw, .inr ⟨.inr hk, .inl ⟨rfl, rfl⟩⟩, rfl⟩
        · exact ⟨j, _, _, _, rfl, rfl, hc, hw, .inr ⟨.inr hk, .inr ⟨rfl, rfl⟩⟩, rfl⟩
      · next hk =>
        obtain rfl := List.mem_singleton.mp he
        exact ⟨j, _, _, _, rfl, rfl, hc, hw, .inl ⟨hk, rfl, rfl⟩, rfl⟩
    · cases he
  · rintro ⟨j, c, w, a, rfl, rfl, hc, hw, hkind, he⟩
    refine ⟨j, mem_allInsps j, ?_⟩
    have hen : ((inspOf s j).enabled && (settingOf s r j).enabled) = true := Bool.and_eq_true_iff.mpr ⟨hc, hw⟩
    unfold inspEvents
    dsimp only
    rw [if_pos hen]
    rcases hkind with ⟨hk, rfl, hev⟩ | ⟨hk, hcase⟩
    · have hk' : (inspOf s j).kind = .level := hk
      rw [hk']
      exact List.mem_singleton.mpr (he.trans (by rw [hev]; rfl))
    · have hpair : e ∈ [plainEvent (inspAt s j r.cutPitch (settingOf s r j).on) (.inspOpen j r.seq),
          plainEvent (inspAt s j r.cutPitch (settingOf s r j).off) (.inspEnd j r.seq)] := by
        rcases hcase with ⟨rfl, hev⟩ | ⟨rfl, hev⟩
        · exact List.mem_pair.mpr (.inl (he.trans (by rw [hev]; rfl)))
        · exact List.mem_pair.mpr (.inr (he.trans (by rw [hev]; rfl)))
      rcases hk with hk | hk
      · have hk' : (inspOf s j).kind = .span := hk
        rw [hk']
        exact hpair
      · have hk' : (inspOf s j).kind = .count := hk
        rw [hk']
        exact hpair

/-- The events that the announcement of the blank of pitch `p` for order `o` schedules. -/
def announcements (p : U32) (o : Order) (s : State) : List Pending :=
  (onEvents (createRecord (newRecord s p o) s) (newRecord s p o)
    ++ allInsps.flatMap (inspEvents (createRecord (newRecord s p o) s) (newRecord s p o)))
    ++ [plainEvent (gatePos s p) (.gate s.track.nextSeq), plainEvent (deliveryPos s p) (.delivery s.track.nextSeq)]

theorem mem_announcements {p : U32} {e : Pending} : e ∈ announcements p o s ↔ Announced p o s e := by
  have hrecipe := Flood.recipeOf_createRecord (newRecord s p o) s o.slot
  have htable : (createRecord (newRecord s p o) s).store.inForce = s.store.inForce := rfl
  have happ : (createRecord (newRecord s p o) s).app = s.app := rfl
  have hslot : (newRecord s p o).slot = o.slot := rfl
  rw [announcements, List.mem_append, List.mem_append, mem_onEvents, mem_inspEvents, List.mem_pair, hslot, hrecipe, htable, happ,
    or_assoc]
  rfl

theorem inspEvents_congr (h : t.store = s.store) (r : Record) : inspEvents t r = inspEvents s r := by
  funext j
  unfold inspEvents inspAt settingOf inspOf recipeOf
  rw [h]

theorem gatePos_congr (h : t.store.inForce = s.store.inForce) (p : U32) :
    gatePos t p = gatePos s p ∧ deliveryPos t p = deliveryPos s p := by
  unfold gatePos deliveryPos
  rw [h]
  exact ⟨rfl, rfl⟩

theorem announce_pos (r : Record) (w : State) : (announce r w).pos = { w.pos with
    schedule := w.pos.schedule ++ ((onEvents w r ++ allInsps.flatMap (inspEvents w r))
      ++ [plainEvent (gatePos w r.cutPitch) (.gate r.seq), plainEvent (deliveryPos w r.cutPitch) (.delivery r.seq)]) } := by
  have hstore : (announceApp r w).store = w.store := (announceApp_touches r w).store
  have hstore' : (announceInsp r (announceApp r w)).store.inForce = w.store.inForce := by
    rw [(announceInsp_touches r _).store, hstore]
  obtain ⟨hgate, hdelivery⟩ := gatePos_congr hstore' r.cutPitch
  rw [announce, announceDelivery, hgate, hdelivery, announceInsp, inspEvents_congr hstore, announceApp]
  simp only [List.append_assoc]

theorem acceptBlank_pos (p : U32) (o : Order) (s : State) : (acceptBlank p o s).pos =
    { s.pos with schedule := s.pos.schedule ++ announcements p o s } := by
  have hmade : (acceptBlank p o s).pos = (announce (newRecord s p o) (createRecord (newRecord s p o) s)).pos := rfl
  obtain ⟨hgate, hdelivery⟩ := gatePos_congr (s := s) (t := createRecord (newRecord s p o) s) rfl p
  rw [hmade, announce_pos, announcements, ← hgate, ← hdelivery]
  rfl

theorem newRecord_defects (p : U32) (o : Order) (c : DefectClass) : hasDefect (newRecord s p o).defects c =
    ((c == .register && verdictOf s p == some .outOfRegister) || (c == .sample && decide (0 < s.orders.countdown))) := by
  unfold newRecord hasDefect
  dsimp only
  by_cases hv : verdictOf s p = some .outOfRegister <;> by_cases hd : 0 < s.orders.countdown <;> cases c <;>
    simp [hv, hd, oneDefect, defectBit]

theorem accepted (p : U32) (o : Order) (s : State) : Accepted p o s (acceptBlank p o s) := by
  have htouch := Keeping.acceptBlank_touches p o s
  have hcount (c : Counter) : counter (acceptBlank p o s) c = counter (count .accepted s) c := rfl
  have hslots (k : Fin 8) : slotOf (acceptBlank p o s) k =
      if k = o.slot then { slotOf s k with refs := (slotOf s k).refs + 1 } else slotOf s k :=
    getAt_modifySlot o.slot k (fun x => { x with refs := x.refs + 1 }) s
  have happ : (acceptBlank p o s).app = { s.app with blanks := s.app.blanks ++ [⟨s.track.nextSeq, p, false⟩] } := rfl
  refine ⟨rfl, ⟨newRecord s p o, rfl, rfl, rfl, rfl, rfl, rfl, rfl, rfl, newRecord_defects p o, rfl, rfl, fun j => getAt_replicate _ j⟩,
    ?_, fun c hc => ?_, ?_, fun k hk => ?_, rfl, ?_, ⟨announcements p o s, acceptBlank_pos p o s, fun e => mem_announcements⟩, ?_⟩
  · rw [hcount, counter_count, if_pos rfl]
  · rw [hcount, counter_count, if_neg hc]
  · rw [hslots, if_pos rfl]
  · rw [hslots, if_neg hk]
  · exact happ
  · have hstore : (acceptBlank p o s).store = { s.store with slots := (acceptBlank p o s).store.slots } := rfl
    have hlive : (acceptBlank p o s).counters = { s.counters with live := (acceptBlank p o s).counters.live } := rfl
    rw [← hstore, ← hlive]
    exact frame_of_touches htouch

/-- What the verdict and the error of a pitch are (04 R73). -/
theorem verdict_spec (s : State) (p : U32) :
    (s.reg.state = .off → verdictOf s p = none ∧ errorOf s p = none) ∧
    (s.reg.state = .seek → verdictOf s p = some .outOfRegister) ∧
    (s.reg.state = .locked ∨ s.reg.state = .coast →
      (∀ c, s.reg.last = some c → c.pitch = p →
        verdictOf s p = some (if c.outside then .outOfRegister else .inRegister)) ∧
      ((∀ c, s.reg.last = some c → c.pitch ≠ p) → verdictOf s p = some .inRegister)) ∧
    (s.reg.state ≠ .off →
      (∀ c, s.reg.last = some c → c.pitch = p → errorOf s p = some c.error) ∧
      ((∀ c, s.reg.last = some c → c.pitch ≠ p) → errorOf s p = none)) := by
  have hcapture (c : LastCapture) (hc : s.reg.last = some c) (hp : c.pitch = p) : captureOf s p = some c := by
    unfold captureOf
    rw [hc]
    exact if_pos hp
  have hnone (h : ∀ c, s.reg.last = some c → c.pitch ≠ p) : captureOf s p = none := by
    unfold captureOf
    split
    · next c hc => exact if_neg (h c hc)
    · rfl
  refine ⟨fun h => ⟨by simp [verdictOf, h], by simp [errorOf, h]⟩, fun h => by simp [verdictOf, h],
    fun h => ⟨fun c hc hp => ?_, fun hno => ?_⟩, fun h => ⟨fun c hc hp => ?_, fun hno => ?_⟩⟩
  · unfold verdictOf
    rw [hcapture c hc hp]
    rcases h with h | h <;> rw [h] <;> cases hout : c.outside <;> simp [hout]
  · unfold verdictOf
    rw [hnone hno]
    rcases h with h | h <;> rw [h]
  · unfold errorOf
    rw [hcapture c hc hp]
    cases hs : s.reg.state <;> simp_all
  · unfold errorOf
    rw [hnone hno]
    cases hs : s.reg.state <;> rfl

/-- Settles O46. -/
theorem feedAccepts : Obligations.FeedAccepts := by
  refine ⟨fun s u x o hh hu ha hr hf hhold hneed => ?_, verdict_spec⟩
  have hview := feedView_counted hu
  have hkeep : handOverTest (count .cutTotal u) = count .cutTotal u := by
    refine handOverTest_counted hu (.inr (.inr fun a ha' => ?_))
    obtain rfl : o = a := by simpa using ha.symm.trans ha'
    omega
  have hsome : acceptingOrder (count .cutTotal u) = some o := by
    refine acceptingOrder_of (hview.activeOrder.trans ha) ?_ ?_ (hview.holdReasons.trans hhold) ?_
    · rw [hview.line, hr]
    · rw [hview.orders, hf]
    · rw [hview.needOf]
      exact hneed
  refine ⟨count .cutTotal u, acceptBlank (posPitch x) o (count .cutTotal u), (exec_firing hh hu).trans (congrArg _ ?_), cutCounted u,
    accepted _ _ _⟩
  show feedAt (posPitch x) u = _
  rw [feedAt_eq, hkeep, hsome]

end Sys2Proof.FeedRules
end

section
/-! SUPPORT. A feed event that hands over to the next order before it decides (07 R128). -/

namespace Sys2Proof.HandOverRules

open Sys2Proof.Machine Sys2Proof.Overlay Sys2Proof.Removal Sys2Proof.RegisterRules Sys2Proof.StationRules Sys2Proof.OrderRules
  Sys2Proof.Leaving Sys2Proof.GateRules Sys2Proof.Activation Sys2Proof.Departures Sys2Proof.AbortRules Sys2Proof.FeedRules

set_option Elab.async false

variable {s t u v : State} {a n y o : Order}

/-! ## The ACTIVE order and the register source -/

theorem activeOrder_sole (ho : o ∈ s.orders.list) (hs : o.state = .active)
    (hsole : ∀ z ∈ s.orders.list, z.state = .active → z = o) : activeOrder s = some o := by
  have hsome : (activeOrder s).isSome = true := List.find?_isSome.mpr ⟨o, ho, beq_iff_eq.mpr hs⟩
  obtain ⟨x, hx⟩ : ∃ x, activeOrder s = some x := Option.isSome_iff_exists.mp hsome
  rw [hx, hsole x (List.mem_of_find?_eq_some hx) (by simpa using List.find?_some hx)]

theorem wantedSource_active (h : activeOrder s = some o) : wantedSource s = some o.slot := by
  unfold wantedSource
  rw [h]

theorem updateSource_reg (s : State) : (updateSource s).reg =
    if s.reg.source = wantedSource s then s.reg else (switchTo (wantedSource s) s).reg := by
  unfold updateSource
  by_cases h : wantedSource s = s.reg.source
  · rw [if_pos h, if_pos h.symm]
  · rw [if_neg h, if_neg (Ne.symm h)]

theorem updateSource_due (s : State) : (updateSource s).pos.due =
    if s.reg.source = wantedSource s then s.pos.due else (switchTo (wantedSource s) s).pos.due := by
  unfold updateSource
  by_cases h : wantedSource s = s.reg.source
  · rw [if_pos h, if_pos h.symm]
  · rw [if_neg h, if_neg (Ne.symm h)]

/-- A switch event depends on the Register Unit, the recipes and the fired events alone. -/
theorem switchTo_reg_congr (hr : t.reg = s.reg) (hst : t.store = s.store) (src : Option (Fin 8)) :
    (switchTo src t).reg = (switchTo src s).reg := by
  rw [switchTo_reg, switchTo_reg, sectionInForce_congr hr hst, sectionOf_congr hst, hr]

theorem switchTo_due_congr (hr : t.reg = s.reg) (hst : t.store = s.store) (hd : t.pos.due = s.pos.due) (src : Option (Fin 8)) :
    (switchTo src t).pos.due = (switchTo src s).pos.due := by
  rw [switchTo_due, switchTo_due, sectionInForce_congr hr hst, sectionOf_congr hst, hd]

/-! ## The hand-over -/

/-- The ACTIVE order `a` has become FEED_DONE. -/
def donning (a : Order) (s : State) : State := modifyOrder a.tag (fun x => { x with state := .feedDone }) s

theorem handOver_eq (a n : Order) (s : State) : handOver a n s = completionTest a.tag (activate n (donning a s)) := rfl

theorem earlyDue_donning (a n : Order) (s : State) : earlyDue (donning a s) n = earlyDue s n := rfl

/-- The order that takes over. -/
def handedOrder (n : Order) (early : Bool) : Order := { n with state := .active, earlySent := n.earlySent || early }

/-- The premises of a hand-over from `a` to `n`. -/
structure HandsOver (a n : Order) (s : State) : Prop where
  distinct : (s.orders.list.map Order.tag).Nodup
  sole : ∀ z ∈ s.orders.list, z.state = .active → z = a
  active : activeOrder s = some a
  next : nextOrder s = some n

/-- The orders of a hand-over before the completion test. -/
def handedList (a n : Order) (early : Bool) (l : List Order) : List Order :=
  l.map (fun z => if z.tag = n.tag then handedOrder n early
    else if z.tag = a.tag then { z with state := .feedDone } else z)

namespace HandsOver

variable (h : HandsOver a n s)
include h

theorem active_mem : a ∈ s.orders.list ∧ a.state = .active :=
  ⟨List.mem_of_find?_eq_some h.active, by simpa using List.find?_some h.active⟩

theorem tags_ne : n.tag ≠ a.tag := by
  obtain ⟨hn, hq⟩ := nextOrder_queued h.next
  obtain ⟨ha, hact⟩ := h.active_mem
  intro htag
  rw [List.inj_on_of_nodup_map h.distinct hn ha htag, hact] at hq
  cases hq

theorem findOrder_donning : findOrder (donning a s) n.tag = some n :=
  (findOrder_modify_other h.tags_ne.symm (fun x => { x with state := .feedDone }) (fun _ => rfl) rfl).trans
    (findOrder_of_mem h.distinct (nextOrder_queued h.next).1)

theorem orders_activated : (activate n (donning a s)).orders = { s.orders with
    feedState := .feeding, runningClass := some (formatClassOf s n), list := handedList a n (earlyDue s n) s.orders.list } := by
  have hlist : activeList n (earlyDue s n) (donning a s).orders.list = handedList a n (earlyDue s n) s.orders.list := by
    show activeList n (earlyDue s n) (s.orders.list.map _) = _
    rw [activeList, handedList, List.map_map]
    refine List.map_congr_left fun z hz => ?_
    by_cases hzn : z.tag = n.tag
    · obtain rfl : z = n := List.inj_on_of_nodup_map h.distinct hz (nextOrder_queued h.next).1 hzn
      simp [h.tags_ne, handedOrder]
    · by_cases hza : z.tag = a.tag <;> simp [hzn, hza, h.tags_ne.symm]
  rw [activate_orders h.findOrder_donning, earlyDue_donning, hlist]
  rfl

theorem notices_activated : (activate n (donning a s)).notices =
    (if earlyDue s n then offer (.earlyEnd n.tag (n.quantity - passedOf s n)) s else s).notices := by
  rw [activate_notices h.findOrder_donning, earlyDue_donning]
  split
  · exact offer_notices _ rfl
  · rfl

theorem mem_handed {early : Bool} {z : Order} (hz : z ∈ handedList a n early s.orders.list) :
    (z.tag = n.tag ∧ z = handedOrder n early) ∨
    (z.tag = a.tag ∧ z = { a with state := .feedDone }) ∨
    (z.tag ≠ n.tag ∧ z.tag ≠ a.tag ∧ z.state ≠ .active) := by
  obtain ⟨x, hx, rfl⟩ := List.mem_map.mp hz
  by_cases hxn : x.tag = n.tag
  · rw [if_pos hxn]
    exact .inl ⟨rfl, rfl⟩
  · by_cases hxa : x.tag = a.tag
    · obtain rfl : x = a := List.inj_on_of_nodup_map h.distinct hx h.active_mem.1 hxa
      rw [if_neg hxn, if_pos rfl]
      exact .inr (.inl ⟨rfl, rfl⟩)
    · rw [if_neg hxn, if_neg hxa]
      exact .inr (.inr ⟨hxn, hxa, fun hact => hxa (by rw [h.sole x hx hact])⟩)

theorem active_handed (early : Bool) :
    handedOrder n early ∈ handedList a n early s.orders.list :=
  List.mem_map.mpr ⟨n, (nextOrder_queued h.next).1, if_pos rfl⟩

/-- The new order is ACTIVE in every list of orders handed over from which others have left. -/
theorem activeOrder_handed {early : Bool} (hsub : ∀ z ∈ t.orders.list, z ∈ handedList a n early s.orders.list)
    (hmem : handedOrder n early ∈ t.orders.list) :
    activeOrder t = some (handedOrder n early) := by
  refine activeOrder_sole hmem rfl fun z hz hact => ?_
  rcases h.mem_handed (hsub z hz) with ⟨-, hz⟩ | ⟨-, hz⟩ | ⟨-, -, hno⟩
  · exact hz
  · rw [hz] at hact
    cases hact
  · exact absurd hact hno

theorem source_activating : wantedSource (activating n (donning a s)) = some n.slot := by
  have hlist : (activating n (donning a s)).orders.list = handedList a n false (s.orders.list) := by
    show (s.orders.list.map _).map _ = _
    rw [handedList, List.map_map]
    refine List.map_congr_left fun z hz => ?_
    by_cases hzn : z.tag = n.tag
    · obtain rfl : z = n := List.inj_on_of_nodup_map h.distinct hz (nextOrder_queued h.next).1 hzn
      simp [h.tags_ne, handedOrder]
    · by_cases hza : z.tag = a.tag <;> simp [hzn, hza, h.tags_ne.symm]
  refine wantedSource_active (o := handedOrder n false) (h.activeOrder_handed (fun z hz => hlist ▸ hz) ?_)
  rw [hlist]
  exact h.active_handed false

theorem reg_activated : (activate n (donning a s)).reg =
    (if s.reg.source = some n.slot then s else switchTo (some n.slot) s).reg ∧
    (activate n (donning a s)).pos.due = (if s.reg.source = some n.slot then s else switchTo (some n.slot) s).pos.due := by
  have hearly := earlyTest_touches n.tag (updateSource (activating n (donning a s)))
  have hreg := switchTo_reg_congr (s := s) (t := activating n (donning a s)) rfl rfl (some n.slot)
  have hdue := switchTo_due_congr (s := s) (t := activating n (donning a s)) rfl rfl rfl (some n.slot)
  rw [activate_eq, hearly.reg, hearly.pos, updateSource_reg, updateSource_due, h.source_activating, hreg, hdue]
  show (if s.reg.source = some n.slot then s.reg else _) = _ ∧ (if s.reg.source = some n.slot then s.pos.due else _) = _
  split <;> exact ⟨rfl, rfl⟩

end HandsOver

/-- What the completion test of the order handed over leaves. -/
structure Handed (a n : Order) (early : Bool) (s w t : State) : Prop where
  sub : ∀ z ∈ t.orders.list, z ∈ handedList a n early s.orders.list
  active : handedOrder n early ∈ t.orders.list
  feed : t.orders.feedState = .feeding
  running : t.orders.runningClass = some (formatClassOf s n)
  reg : t.reg = w.reg

theorem handed_test (h : HandsOver a n s) : Handed a n (earlyDue s n) s (activate n (donning a s)) (handOver a n s) := by
  have horders := h.orders_activated
  have hsource := sourceKept_activate n (donning a s)
  rw [handOver_eq]
  generalize activate n (donning a s) = w at *
  have hstay : Handed a n (earlyDue s n) s w w :=
    ⟨fun z hz => by rw [horders] at hz; exact hz, by rw [horders]; exact h.active_handed _, by rw [horders], by rw [horders], rfl⟩
  unfold completionTest
  split
  · exact hstay
  · next x hx =>
    split
    · exact hstay
    · split
      · exact hstay
      · next e _ =>
        have hx' : x.tag = a.tag ∧ x.state ≠ .active := by
          have hmem : x ∈ handedList a n (earlyDue s n) s.orders.list := by
            have := List.mem_of_find?_eq_some hx
            rw [horders] at this
            exact this
          have htag := tag_of_findOrder hx
          rcases h.mem_handed hmem with ⟨hn, -⟩ | ⟨-, hx⟩ | ⟨-, ha, -⟩
          · exact absurd (hn.symm.trans htag) h.tags_ne
          · exact ⟨htag, by simp [hx]⟩
          · exact absurd htag ha
        have hfeed : w.orders.feedState ≠ .changeover := by simp [horders]
        rw [depart_stays hx'.2 hfeed]
        have hleft : (departing x e w).orders = { w.orders with list := w.orders.list.eraseP (fun z => z.tag == a.tag) } := by
          rw [departing_orders, hx'.1]
        have hsub : ∀ z ∈ (departing x e w).orders.list, z ∈ handedList a n (earlyDue s n) s.orders.list := by
          intro z hz
          rw [hleft] at hz
          exact hstay.sub z (List.eraseP_subset hz)
        have hactive : handedOrder n (earlyDue s n) ∈ (departing x e w).orders.list := by
          rw [hleft]
          exact (List.mem_eraseP_of_neg (by simpa [handedOrder] using h.tags_ne)).mpr hstay.active
        have hkept : SourceKept (departing x e w) := by
          have hwant : wantedSource w = some n.slot := wantedSource_active (o := handedOrder n (earlyDue s n)) (h.activeOrder_handed hstay.sub hstay.active)
          rw [SourceKept, (departing_touches x e w).reg, hsource, hwant]
          exact (wantedSource_active (o := handedOrder n (earlyDue s n)) (h.activeOrder_handed hsub hactive)).symm
        rw [updateSource_kept hkept]
        exact ⟨hsub, hactive, by rw [hleft]; exact hstay.feed, by rw [hleft]; exact hstay.running, (departing_touches x e w).reg⟩

theorem sole_of_count (h : s.orders.list.countP (fun o => o.state == .active) = 1) (ha : activeOrder s = some a) :
    ∀ z ∈ s.orders.list, z.state = .active → z = a := by
  intro z hz hact
  rw [List.countP_eq_length_filter, List.length_eq_one_iff] at h
  obtain ⟨x, hx⟩ := h
  have hmem (y : Order) (hy : y ∈ s.orders.list) (hya : y.state = .active) : y = x :=
    List.mem_singleton.mp (hx ▸ List.mem_filter.mpr ⟨hy, beq_iff_eq.mpr hya⟩)
  have hsome : a.state = .active := by simpa using List.find?_some ha
  rw [hmem z hz hact, hmem a (List.mem_of_find?_eq_some ha) hsome]

theorem handOver_move (a n : Order) (s : State) : OrdersMove s (handOver a n s) :=
  ((OrdersMove.modifyOrder a.tag (fun x => { x with state := .feedDone }) s).trans (OrdersMove.activate n _)).trans
    (OrdersMove.completionTest a.tag _)

theorem handOver_frame (a n : Order) (s : State) : handOver a n s = { s with
    orders := (handOver a n s).orders, notices := (handOver a n s).notices, reg := (handOver a n s).reg,
    pos := { s.pos with due := (handOver a n s).pos.due }, store := { s.store with slots := (handOver a n s).store.slots } } := by
  have hmove := handOver_move a n s
  rw [← hmove.pos, ← hmove.store]
  exact frame_of_touches (handOver_touches a n s)

/-- Whichever way the decision on the blank goes, the ACTIVE order, the feed state, the Register Unit and CUT_TOTAL are
those on which it is made. -/
theorem decided_keeps (p : U32) (v : State) :
    let t := match acceptingOrder v with
      | some o => acceptBlank p o v
      | none => divertBlank v
    activeOrder t = activeOrder v ∧ t.orders.feedState = v.orders.feedState ∧ t.reg = v.reg ∧
      counter t .cutTotal = counter v .cutTotal := by
  dsimp only
  cases acceptingOrder v with
  | none =>
    obtain ⟨-, hother, -, hrest⟩ := diverted v
    exact ⟨by rw [hrest]; rfl, by rw [hrest], by rw [hrest], hother .cutTotal (by decide)⟩
  | some o =>
    obtain ⟨-, -, -, hother, -, -, horders, -⟩ := accepted p o v
    exact ⟨by unfold activeOrder; rw [horders], by rw [horders], (Keeping.acceptBlank_touches p o v).reg,
      hother .cutTotal (by decide)⟩

/-- Settles O47: the hand-over is made on the state with CUT_TOTAL counted, and the decision on the state so left. -/
theorem feedHandsOver : Obligations.FeedHandsOver := by
  intro s u x a n y early hh hu hnd hone hf ha hn hstart hneed hearly hy
  have hview := feedView_counted hu
  have hdue := takeFired_touches hu
  have hcut := cutCounted u
  have hexec : exec .feedEvent s = .next (feedAt (posPitch x) u) := exec_firing hh hu
  have hcounted := (count_touches .cutTotal u)
  rw [feedAt_eq] at hexec
  generalize count .cutTotal u = c at *
  have h : HandsOver a n c := ⟨by rw [hview.orders]; exact hnd, by rw [hview.orders]; exact sole_of_count hone ha,
    hview.activeOrder.trans ha, hview.nextOrder.trans hn⟩
  have htest : handOverTest c = handOver a n c := by
    unfold handOverTest
    rw [h.active, h.next]
    exact if_pos ⟨by rw [hview.orders, hf], by rw [hview.isStartable, hstart], by rw [hview.needOf, hneed]⟩
  have hdueOrder : earlyDue c n = early := by
    rw [hearly, earlyDue, passedOf, committedOf_congr hview.track]
  have hyhanded : handedOrder n (earlyDue c n) = y := by rw [hy, hdueOrder]; rfl
  have hhanded := handed_test h
  have hmove := handOver_move a n c
  have hframe := handOver_frame a n c
  have hactivated := h.orders_activated
  have hnotices := h.notices_activated
  obtain ⟨hreg, hduePos⟩ := h.reg_activated
  have hvorders : activeOrder (handOver a n c) = some y := by
    rw [← hyhanded]
    exact h.activeOrder_handed hhanded.sub hhanded.active
  have hline : (handOver a n c).line = s.line := (handOver_touches a n c).line.trans hview.line
  have hclass : formatClassOf c n = formatClassOf s n := by rw [formatClassOf, hview.recipeOf]; rfl
  have hpassed : passedOf c n = n.delivered + committedOf s n.tag := by rw [passedOf, committedOf_congr hview.track]
  have hcpos : c.pos = u.pos := hcounted.pos
  have hcreg : c.reg = u.reg := hcounted.reg
  have hcstore : c.store = u.store := hcounted.store
  have hlist : handedList a n (earlyDue c n) c.orders.list = s.orders.list.map (fun z => if z.tag = n.tag then y
      else if z.tag = a.tag then { z with state := .feedDone } else z) := by
    rw [handedList, hyhanded, hview.orders]
  have hvreg : (handOver a n c).reg = if s.reg.source = some n.slot then s.reg else (switchTo (some n.slot) s).reg := by
    rw [hhanded.reg, hreg, hview.reg]
    split
    · exact hview.reg
    · exact switchTo_reg_congr hview.reg hview.store _
  have hafter : AfterTest a.tag
      { (if s.reg.source = some n.slot then u else switchTo (some n.slot) u) with
        orders := { s.orders with
          runningClass := some (formatClassOf s n)
          list := s.orders.list.map (fun z => if z.tag = n.tag then y
            else if z.tag = a.tag then { z with state := .feedDone } else z) }
        notices := (if early then offer (.earlyEnd n.tag (n.quantity - (n.delivered + committedOf s n.tag))) s
          else s).notices }
      (handOver a n c) (handOver a n c).notices := by
    have hbase : (if s.reg.source = some n.slot then u else switchTo (some n.slot) u).store = s.store := by
      split
      · exact hdue.store
      · rw [(switchTo_touches _ u).store, hdue.store]
    have hrecipes (k : Fin 8) : recipeOf (activate n (donning a c)) k = recipeOf s k :=
      ((OrdersMove.activate n (donning a c)).recipes k).trans (hview.recipeOf k)
    refine ⟨fun k => ?_, activate n (donning a c), ?_, ?_, ?_, ?_, ?_, fun k => ?_, rfl, rfl, rfl, rfl⟩
    · rw [hmove.recipes, hview.recipeOf, recipeOf, recipeOf, hbase]
    · rw [hactivated, hlist, hclass, hview.orders, ← hf]
    · rw [hnotices, hdueOrder, hpassed]
      dsimp only
      split
      · exact offer_notices _ (hcounted.notices.trans hdue.notices)
      · exact hcounted.notices.trans hdue.notices
    · rw [hreg, hview.reg]
      dsimp only
      split
      · exact hcreg
      · exact switchTo_reg_congr hcreg hcstore _
    · rw [hduePos, hview.reg]
      dsimp only
      split
      · rw [hcpos]
      · exact switchTo_due_congr hcreg hcstore (by rw [hcpos]) _
    · rw [handOver_eq, (completionTest_touches a.tag _).track]
    · rw [hrecipes, recipeOf, recipeOf, hbase]
  have hcounters : (handOver a n c).counters = c.counters := (handOver_touches a n c).counters
  rw [htest] at hexec
  generalize handOver a n c = v at *
  have hfeed := hhanded.feed
  refine ⟨c, v, _, hexec, hcut, hvorders, hfeed, by rw [hhanded.running, hclass], fun z hz htag => ?_, hafter, hvreg, hframe,
    fun k => (hmove.recipes k).trans (hview.recipeOf k), fun hr hhold hpos => ?_, fun hno => ?_, ?_⟩
  · rcases h.mem_handed (hhanded.sub z hz) with ⟨hzn, -⟩ | ⟨-, hz'⟩ | ⟨-, hza, -⟩
    · exact absurd (hzn.symm.trans htag) h.tags_ne
    · exact hz'
    · exact absurd htag hza
  · rw [acceptingOrder_of hvorders (by rw [hline, hr]) hfeed hhold hpos]
    exact accepted _ _ _
  · have hnone : acceptingOrder v = none := by
      refine acceptingOrder_none ?_
      rw [hline, hvorders]
      rcases hno with h1 | h1 | h1
      · exact .inl h1
      · exact .inr (.inr (.inl h1))
      · exact .inr (.inr (.inr fun b hb => by cases hb; exact h1))
    rw [hnone]
    exact diverted v
  · obtain ⟨hactive, hstate, hsame, hcount⟩ := decided_keeps (posPitch x) v
    refine ⟨hactive.trans hvorders, hstate.trans hfeed, (congrArg (·.source) hsame).trans ?_, hcount.trans ?_⟩
    · rw [hvreg]
      split
      next hsource => exact hsource
      next => rw [switchTo_reg]
    · rw [counter_congr hcounters, hcut.1, counter_congr hdue.counters]

end Sys2Proof.HandOverRules
end

section
/-! SUPPORT. The edge of a digital line and what it reaches (01 R2). -/

namespace Sys2Proof.EdgeRules

open Sys2Proof.Machine Sys2Proof.Overlay

set_option Elab.async false

variable {s : State}

theorem levels_setLevel (l : Fin 16) (v : Bool) (s : State) (i : Fin 16) :
    (setLevel l v s).lines.levels.getLsbD i.val = if i = l then v else s.lines.levels.getLsbD i.val := by
  have hbit : (BitVec.twoPow 16 l.val).getLsbD i.val = decide (i = l) := by
    rw [BitVec.getLsbD_twoPow]
    by_cases h : i = l
    · simp [h]
    · have hne : l.val ≠ i.val := fun hv => h (Fin.ext hv.symm)
      simp [h, hne]
  cases v with
  | true =>
    have hor : (setLevel l true s).lines.levels = s.lines.levels ||| BitVec.twoPow 16 l.val := rfl
    rw [hor, BitVec.getLsbD_or, hbit]
    by_cases h : i = l <;> simp [h]
  | false =>
    have hand : (setLevel l false s).lines.levels = s.lines.levels &&& ~~~ BitVec.twoPow 16 l.val := rfl
    rw [hand, BitVec.getLsbD_and, BitVec.getLsbD_not, hbit]
    by_cases h : i = l <;> simp [h, i.isLt]

/-- What an edge at the Register Unit leaves: the window in force takes the angle where its capture is still open (04 R62). -/
theorem markEdge_reg (l : Fin 16) (s : State) : (markEdge l s).reg = match s.reg.window, sectionInForce s with
    | some w, some g =>
      if g.markLine = l ∧ w.line = l ∧ w.capture = none ∧ 0 ≤ posDist w.start (currentPos s) then
        { s.reg with window := some { w with capture := some (currentAngle s) } }
      else s.reg
    | _, _ => s.reg := by
  unfold markEdge
  cases s.reg.window with
  | none => rfl
  | some w =>
    cases sectionInForce s with
    | none => rfl
    | some g =>
      dsimp only
      split <;> rfl

/-- The state with the edge of line `l` taken by the Register Unit. -/
def markTaken (l : Fin 16) (level : Bool) (s : State) : State :=
  if level then markEdge l (setLevel l level s) else setLevel l level s

theorem markTaken_touches (l : Fin 16) (level : Bool) (s : State) : Touches [.lines, .reg] s (markTaken l level s) := by
  have hset : Touches [.lines, .reg] s (setLevel l level s) := (setLevel_touches l level s).mono (by decide)
  exact .ite (fun _ => hset.trans ((markEdge_touches l _).mono (by decide))) (fun _ => hset)

theorem markTaken_lines (l : Fin 16) (level : Bool) (s : State) :
    (markTaken l level s).lines = (setLevel l level s).lines := by
  unfold markTaken
  split
  · exact (markEdge_touches l _).lines
  · rfl

theorem markTaken_falling (l : Fin 16) (s : State) : (markTaken l false s).reg = s.reg := rfl

theorem markTaken_rising (l : Fin 16) (s : State) : (markTaken l true s).reg = (markEdge l s).reg := by
  rw [markTaken, if_pos rfl, markEdge_reg, markEdge_reg]
  rfl

/-- A take lowers the waiting count, or is offered as spurious where nothing waits (08 R145). -/
theorem take_eq (s : State) : take s = if 0 < s.deliv.waiting
    then { s with deliv := { s.deliv with waiting := s.deliv.waiting - 1 } } else offer .takeSpurious s := rfl

theorem take_deliv (s : State) : (take s).deliv = { s.deliv with waiting := s.deliv.waiting - 1 } := by
  rw [take_eq]
  split
  · rfl
  next h =>
    have hzero : s.deliv.waiting - 1 = s.deliv.waiting := by omega
    rw [(offer_touches _ s).deliv, hzero]

theorem take_notices (s : State) : (take s).notices =
    if 0 < s.deliv.waiting then s.notices else (offer .takeSpurious s).notices := by
  rw [take_eq]
  split <;> rfl

theorem takeEdge_deliv (l : Fin 16) (level : Bool) (s : State) :
    (takeEdge l level s).deliv = { s.deliv with waiting := (takeEdge l level s).deliv.waiting } := by
  unfold takeEdge
  split
  · rw [take_deliv]
  · rfl

/-- The edge, as the units take it one after another. -/
theorem edgeAt_changes {l : Fin 16} {level : Bool} (hmode : s.lines.modes.getLsbD l.val = false)
    (hlevel : s.lines.levels.getLsbD l.val ≠ level) :
    edgeAt l level s = takeEdge l level (inspEdge l level (markTaken l level s)) := by
  unfold edgeAt
  rw [hmode, if_neg Bool.false_ne_true, if_neg hlevel]
  rfl

theorem countEdge_eq (rising : Bool) (d : Nat) : countEdge rising (d == 0) = fun m =>
    { m with value := if rising = true ∧ d = 0 then min (m.value + 1) 255 else m.value } := by
  funext m
  by_cases h : rising = true ∧ d = 0
  · obtain ⟨rfl, rfl⟩ := h
    rfl
  · rw [if_neg h, countEdge, if_neg (by simpa using h)]

theorem spanEdge_eq (rising : Bool) (x : Pos) : spanEdge rising x = fun m => match rising, m.segment with
    | true, none => { m with segment := some (posLater m.start x) }
    | true, some _ => m
    | false, some b => { m with value := m.value + (posDist b (posLater m.start x)).toNat, segment := none }
    | false, none => m := by
  funext m
  unfold spanEdge
  cases rising <;> cases m.segment <;> rfl

/-- Settles O18: each consumer of the edge, by its own rule. -/
theorem edgeEvent : Obligations.EdgeEvent := by
  intro l level s hf
  refine ⟨fun hno => congrArg _ ((event_free hf _).trans ?_), fun hmode hlevel => ?_⟩
  · unfold edgeAt
    rcases hno with h | h
    · rw [if_pos h]
    · rw [if_pos h, ite_self]
  have hmark := markTaken_touches l level s
  have hlevels := markTaken_lines l level s
  have hrising : level = true → (markTaken l level s).reg = (markEdge l s).reg := by
    rintro rfl
    exact markTaken_rising l s
  have hfalling : level = false → (markTaken l level s).reg = s.reg := by
    rintro rfl
    rfl
  have hexec : exec (.edgeEvent l level) s = .next (takeEdge l level (inspEdge l level (markTaken l level s))) :=
    congrArg _ ((event_free hf _).trans (edgeAt_changes hmode hlevel))
  generalize markTaken l level s = b at *
  have hinsp := inspEdge_touches l level b
  have hchannel (j : Fin 8) : inspChannel (inspEdge l level b) j =
      if (inspOf s j).enabled && (inspOf s j).line == l then channelEdge (inspOf s j) level s (inspChannel s j)
      else inspChannel s j := by
    rw [Passes.inspChannel_inspEdge, inspOf, inspChannel, channelEdge, hmark.store, hmark.insp, hmark.pos]
    rfl
  generalize inspEdge l level b = c at *
  have htake := takeEdge_touches l level c
  have hdeliv := takeEdge_deliv l level c
  have hwaiting : c.deliv = s.deliv := hinsp.deliv.trans hmark.deliv
  have hnotices : c.notices = s.notices := hinsp.notices.trans hmark.notices
  have hstore : c.store = s.store := hinsp.store.trans hmark.store
  have htaken : level = true ∧ s.store.inForce.general.takeSource = .line l → takeEdge l level c = take c := by
    rintro ⟨rfl, h⟩
    exact if_pos (by rw [hstore, h]; simp)
  have hstays : level = false ∨ s.store.inForce.general.takeSource ≠ .line l → takeEdge l level c = c := by
    intro h
    refine if_neg (fun hand => ?_)
    rw [hstore, Bool.and_eq_true, beq_iff_eq] at hand
    rcases h with h | h
    · exact absurd (h.symm.trans hand.1) Bool.false_ne_true
    · exact h hand.2
  generalize takeEdge l level c = t at *
  have hreg : t.reg = b.reg := htake.reg.trans hinsp.reg
  have hlines : t.lines = (setLevel l level s).lines := htake.lines.trans (hinsp.lines.trans hlevels)
  have hchannels (j : Fin 8) : inspChannel t j = inspChannel c j := by rw [inspChannel, htake.insp]; rfl
  have hframe : Touches [.lines, .reg, .insp, .deliv, .notices] s t :=
    ((hmark.mono (by decide)).trans (hinsp.mono (by decide))).trans (htake.mono (by decide))
  refine ⟨t, hexec, ?_, fun i => ?_, fun h => ?_, fun w g hup hw hg => ⟨fun h1 h2 h3 h4 => ?_, fun h => ?_⟩, fun j hon hl => ⟨fun hk => ?_, fun hk => ?_,
    fun hk => ?_, fun hk => ?_⟩, fun j h => ?_, fun h => ⟨fun hw => ?_, fun hw => ?_⟩, fun h => ?_⟩
  · have hl : t.lines = { s.lines with levels := t.lines.levels } := by rw [hlines]; rfl
    have hd : t.deliv = { s.deliv with waiting := t.deliv.waiting } := by rw [hdeliv, hwaiting]
    rw [← hl, ← hd]
    exact frame_of_touches hframe
  · rw [hlines]
    exact levels_setLevel l level s i
  · rw [hreg]
    cases level with
    | false => exact hfalling rfl
    | true =>
      rw [hrising rfl, markEdge_reg]
      rcases h with h | h | h
      · exact absurd h (by decide)
      · rw [h]
      · rw [h]
        cases s.reg.window <;> rfl
  · rw [hreg, hrising hup, markEdge_reg, hw, hg]
    exact if_pos ⟨h1, h2, h3, h4⟩
  · rw [hreg, hrising hup, markEdge_reg, hw, hg]
    refine if_neg (fun hand => ?_)
    obtain ⟨h1, h2, h3, h4⟩ := hand
    rcases h with h | h | h | h
    · exact h h1
    · exact h h2
    · exact h h3
    · omega
  · rw [hchannels, hchannel, if_pos (by rw [inspOf, hon, hl]; simp), channelEdge, inspOf, hk]
  · rw [hchannels, hchannel, if_pos (by rw [inspOf, hon, hl]; simp), channelEdge, inspOf, hk, countEdge_eq]
  · rw [hchannels, hchannel, if_pos (by rw [inspOf, hon, hl]; simp), channelEdge, inspOf, hk, spanEdge_eq] <;> rfl
  · rw [hchannels, hchannel, if_pos (by rw [inspOf, hon, hl]; simp), channelEdge, inspOf, hk]
  · rw [hchannels, hchannel]
    refine if_neg (fun hand => ?_)
    rw [Bool.and_eq_true, beq_iff_eq] at hand
    rcases h with h | h
    · exact absurd (h.symm.trans hand.1) Bool.false_ne_true
    · exact h hand.2
  · rw [htaken h, take_deliv, take_notices, hwaiting, hnotices, if_pos hw]
    exact ⟨rfl, rfl⟩
  · rw [htaken h, take_deliv, take_notices, hwaiting, if_neg (by omega), hw]
    exact ⟨rfl, offer_notices _ hnotices⟩
  · rw [hstays h]
    exact ⟨hwaiting, hnotices⟩

end Sys2Proof.EdgeRules
end

section
/-! SUPPORT. The position set and read, and the lines (01 R4 to R9, R14). -/

namespace Sys2Proof.LinePosition

open Sys2Proof.Machine Sys2Proof.Overlay Sys2Proof.Bytes

set_option Elab.async false

variable {s t : State}

/-! ## Positions -/

theorem posAt_val {p : U32} {a : Nat} (h : a < 3600) : (posAt p a).val = 3600 * p.toNat + a :=
  Nat.mod_eq_of_lt (by have := p.isLt; omega)

theorem posPitch_posAt {p : U32} {a : Nat} (h : a < 3600) : posPitch (posAt p a) = p := by
  have hdiv : (3600 * p.toNat + a) / 3600 = p.toNat := by omega
  rw [posPitch, posAt_val h, hdiv, BitVec.ofNat_toNat, BitVec.setWidth_eq]

theorem posAngle_posAt {p : U32} {a : Nat} (h : a < 3600) : posAngle (posAt p a) = a := by
  rw [posAngle, posAt_val h]
  omega

theorem posSub_zero (x : Pos) : posSub x 0 = x := sub_zero x

/-! ## An end of an output that the mark has come to -/

/-- The schedule without the first event `e` that is due at mark `x`, where there is one. -/
def withoutEnd (e : Scheduled) (x : Pos) (l : List Pending) : List Pending :=
  match l.find? (fun q => q.event == e && isDue x q) with
  | none => l
  | some q => l.erase q

theorem mem_of_mem_withoutEnd {e : Scheduled} {x : Pos} {l : List Pending} {q : Pending} (h : q ∈ withoutEnd e x l) : q ∈ l := by
  unfold withoutEnd at h
  split at h
  · exact h
  · exact List.mem_of_mem_erase h

theorem mem_withoutEnd_of_mem {e : Scheduled} {x : Pos} {l : List Pending} {q : Pending} (h : q ∈ l)
    (hq : q.event ≠ e ∨ isDue x q = false) : q ∈ withoutEnd e x l := by
  unfold withoutEnd
  split
  · exact h
  next p hp =>
    have hpred := List.find?_some hp
    rw [Bool.and_eq_true, beq_iff_eq] at hpred
    refine (List.mem_erase_of_ne (fun hqp => ?_)).mpr h
    rcases hq with hq | hq
    · exact hq (by rw [hqp, hpred.1])
    · exact absurd (hq.symm.trans (by rw [hqp, hpred.2])) Bool.false_ne_true

/-- An end of an output at the mark, as the schedule without it and what it does to the Delivery Unit. -/
theorem fireLoose_eq (e : Scheduled) {f : State → State} {g : DeliveryUnit → DeliveryUnit}
    (hf : ∀ w : State, f w = { w with deliv := g w.deliv }) (s : State) :
    fireLoose e f s = { s with
      pos := { s.pos with schedule := withoutEnd e s.pos.hwm s.pos.schedule }
      deliv := if s.pos.schedule.any (fun q => q.event == e && isDue s.pos.hwm q) then g s.deliv else s.deliv } := by
  unfold fireLoose takeScheduled withoutEnd
  cases hfind : s.pos.schedule.find? (fun q => q.event == e && isDue s.pos.hwm q) with
  | none =>
    have hno : s.pos.schedule.any (fun q => q.event == e && isDue s.pos.hwm q) = false := by
      rw [List.any_eq_false]
      exact List.find?_eq_none.mp hfind
    rw [hno]
    rfl
  | some q =>
    have hyes : s.pos.schedule.any (fun q => q.event == e && isDue s.pos.hwm q) = true :=
      List.any_eq_true.mpr ⟨q, List.mem_of_find?_eq_some hfind, by simpa using List.find?_some hfind⟩
    rw [hyes]
    exact hf _

theorem any_withoutEnd {e d : Scheduled} (hne : d ≠ e) (x : Pos) (l : List Pending) :
    (withoutEnd e x l).any (fun q => q.event == d && isDue x q) = l.any (fun q => q.event == d && isDue x q) := by
  rw [Bool.eq_iff_iff, List.any_eq_true, List.any_eq_true]
  constructor
  · rintro ⟨q, hq, hpred⟩
    exact ⟨q, mem_of_mem_withoutEnd hq, hpred⟩
  · rintro ⟨q, hq, hpred⟩
    refine ⟨q, mem_withoutEnd_of_mem hq (.inl ?_), hpred⟩
    rw [Bool.and_eq_true, beq_iff_eq] at hpred
    rw [hpred.1]
    exact hne

/-- What the ends that fire at the mark now placed leave. -/
theorem fireEnds_eq (s : State) : fireEnds s = { s with
    pos := { s.pos with
             schedule := withoutEnd .separatorEnd s.pos.hwm (withoutEnd .rejectGateEnd s.pos.hwm s.pos.schedule) }
    deliv := { s.deliv with
               rejectGate := s.deliv.rejectGate &&
                 !s.pos.schedule.any (fun q => q.event == .rejectGateEnd && isDue s.pos.hwm q)
               separator := s.deliv.separator &&
                 !s.pos.schedule.any (fun q => q.event == .separatorEnd && isDue s.pos.hwm q) } } := by
  unfold fireEnds
  rw [fireLoose_eq .rejectGateEnd (f := endRejectGate) (g := fun d => { d with rejectGate := false }) (fun _ => rfl),
    fireLoose_eq .separatorEnd (f := endSeparator) (g := fun d => { d with separator := false }) (fun _ => rfl)]
  dsimp only
  rw [any_withoutEnd (by decide)]
  cases s.pos.schedule.any (fun q => q.event == .rejectGateEnd && isDue s.pos.hwm q) <;>
    cases s.pos.schedule.any (fun q => q.event == .separatorEnd && isDue s.pos.hwm q) <;> simp

/-! ## Lines -/

theorem getLsbD_lineSet (p : Fin 16 → Bool) (i : Fin 16) : (lineSet p).getLsbD i.val = p i := by
  have hfold (l : List (Fin 16)) (w : BitVec 16) :
      (l.foldl (fun acc i => if p i then acc ||| BitVec.twoPow 16 i.val else acc) w).getLsbD i.val =
        (w.getLsbD i.val || (decide (i ∈ l) && p i)) := by
    induction l generalizing w with
    | nil => simp
    | cons k l ih =>
      rw [List.foldl_cons, ih]
      by_cases hk : i = k
      · subst hk
        cases p i <;> simp
      · have hv : i.val ≠ k.val := fun h => hk (Fin.ext h)
        cases p k <;> simp [hk, hv]
  rw [lineSet, hfold]
  simp [mem_allLines]

/-- A set of lines as two bytes, read back. -/
theorem testBit_lineSet (p : Fin 16 → Bool) (i : Fin 16) :
    (((lineSet p).toNat % 256 + 256 * ((lineSet p).toNat / 256 % 256)).testBit i.val) = p i := by
  have hlt := (lineSet p).isLt
  have hval : (lineSet p).toNat % 256 + 256 * ((lineSet p).toNat / 256 % 256) = (lineSet p).toNat := by omega
  rw [hval]
  exact getLsbD_lineSet p i

theorem outs_writeManual (mask values : BitVec 16) (s : State) (i : Fin 16) :
    getAt (writeManual mask values s).lines.outs i = { getAt s.lines.outs i with
      manual := if mask.getLsbD i.val then values.getLsbD i.val else (getAt s.lines.outs i).manual } := by
  have k := getAt_pass (fun i => mask.getLsbD i.val) (fun i (o : OutLine) => { o with manual := values.getLsbD i.val })
    allLines s.lines.outs (by decide) i
  refine (show getAt (writeManual mask values s).lines.outs i = _ from k).trans ?_
  cases mask.getLsbD i.val <;> simp [mem_allLines]

theorem drivenState_writeManual (mask values : BitVec 16) {i : Fin 16}
    (h : s.line.run = .halted ∨ (getAt s.lines.outs i).function ≠ .manual) :
    drivenState (writeManual mask values s) i = drivenState s i := by
  unfold drivenState
  rw [outs_writeManual]
  dsimp only
  cases hfun : (getAt s.lines.outs i).function with
  | manual =>
    have hrun : s.line.run = .halted := h.resolve_right (fun hne => hne hfun)
    have hrun' : (writeManual mask values s).line.run = .halted := hrun
    rw [hrun', hrun]
    rfl
  | _ => rfl

theorem posPitch_toNat (x : Pos) : (posPitch x).toNat = x.val / 3600 := by
  have := x.isLt
  rw [posPitch, BitVec.toNat_ofNat, Nat.mod_eq_of_lt (by omega)]

theorem outputLevel_eq {i : Fin 16} {o : OutLine} (ho : o = getAt s.lines.outs i) :
    outputLevel s i = (!s.resetHeld && (drivenState s i != decide (o.polarity = .activeLow))) := by
  unfold outputLevel
  rw [← ho]
  cases s.resetHeld with
  | true => rfl
  | false => cases o.polarity <;> cases drivenState s i <;> rfl

/-- Settles O15: POSITION_SET by its checks and the ends that fire, OUTPUT_SET by its masked pass over the lines, the driven
states by function, and the two records byte by byte. -/
theorem positionAndOutputSet : Obligations.PositionAndOutputSet := by
  refine ⟨fun args s ha => ⟨fun hbig => ?_, fun hle hrun => ?_, fun hle hrun u hu => ?_⟩, fun args s ha => ?_, fun s i o ho => ?_,
    fun s => ?_, fun s i => ?_⟩
  · exact congrArg _ ((request_accepted ha 1 _).trans (by rw [positionSet, if_pos hbig]))
  · exact congrArg _ ((request_accepted ha 1 _).trans (by rw [positionSet, if_neg (by omega), if_pos hrun]))
  · have ha' : u16 args 0 < 3600 := by omega
    have hexec : exec (.positionSet args) s = answered 1 args s .ok
        (positionRecord (fireEnds (placeAt (u16 args 0) u))) (fireEnds (placeAt (u16 args 0) u)) := by
      refine congrArg _ ((request_accepted ha 1 _).trans ?_)
      rw [positionSet, if_neg (by omega), if_neg (fun h => h hrun), hu]
    have hpos := fireEnds_eq (placeAt (u16 args 0) u)
    generalize fireEnds (placeAt (u16 args 0) u) = t at *
    have hmark : t.pos.hwm = posAt (pitchNumber u) (u16 args 0) := by rw [hpos]; rfl
    have hdepth : t.pos.depth = 0 := by rw [hpos]; rfl
    have hangle : posAngle t.pos.hwm = u16 args 0 := by rw [hmark, posAngle_posAt ha']
    have hsched : t.pos.schedule =
        withoutEnd .separatorEnd t.pos.hwm (withoutEnd .rejectGateEnd t.pos.hwm u.pos.schedule) := by
      rw [hpos]; rfl
    refine ⟨t, hexec, by rw [pitchNumber, hmark, posPitch_posAt ha'], ?_, hangle, hdepth, ?_, fun e he => ?_, fun e he hno => ?_,
      ?_, ?_⟩
    · rw [currentAngle, currentPos, hdepth, posSub_zero, hangle]
    · rw [hpos]; rfl
    · rw [hsched] at he
      exact mem_of_mem_withoutEnd (mem_of_mem_withoutEnd he)
    · rw [hsched]
      refine mem_withoutEnd_of_mem (mem_withoutEnd_of_mem he ?_) ?_
      · exact hno.imp_left And.left
      · exact hno.imp_left And.right
    · rw [hmark, hpos]; rfl
    · rw [hmark, hpos]; rfl
  · refine ⟨writeManual (BitVec.ofNat 16 (u16 args 0)) (BitVec.ofNat 16 (u16 args 2)) s,
      congrArg _ ((request_accepted ha 2 _).trans rfl), rfl, fun i => ?_, fun i hi => ?_⟩
    · rw [outs_writeManual, BitVec.getLsbD_ofNat, BitVec.getLsbD_ofNat, decide_eq_true i.isLt, Bool.true_and, Bool.true_and]
    · exact drivenState_writeManual _ _ hi
  · have hdriven : drivenState s i = match o.function with
        | .none => false
        | .manual => if s.line.run == .halted then safeState o else o.manual
        | .channel k => if s.line.run == .halted then safeState o else channelActive s k
        | .feedGate => s.orders.feedGate
        | .rejectGate => s.deliv.rejectGate
        | .separator => s.deliv.separator
        | .stopRequest => s.line.run == .halted := by rw [ho] <;> rfl
    refine ⟨fun h => ?_, fun h hr => ?_, fun k h hr => ?_, fun h => ?_, fun h => ?_, fun h => ?_, fun h => ?_,
      fun hr h => ?_, outputLevel_eq ho⟩
    · rw [hdriven, h]
    · rw [hdriven, h]
      exact if_neg (by simpa using hr)
    · rw [hdriven, h]
      exact if_neg (by simpa using hr)
    · rw [hdriven, h]
    · rw [hdriven, h]
    · rw [hdriven, h]
    · rw [hdriven, h]
      exact beq_eq_decide _ _
    · have hsafe : drivenState s i = safeState o := by
        rw [hdriven, hr]
        rcases h with h | ⟨k, h⟩ <;> rw [h] <;> rfl
      refine ⟨fun hm => ?_, fun b hm hb => ?_⟩
      · rw [hsafe, safeState, hm]
      · rw [hsafe, safeState, hm, hb]
        rfl
  · rw [positionRecord, pitchNumber, posPitch_toNat]
    rfl
  · exact ⟨rfl, testBit_lineSet _ i, testBit_lineSet _ i, testBit_lineSet (digitalRead s) i⟩

end Sys2Proof.LinePosition
end

section
/-! SUPPORT. The encoder step and the recurring events of an angle (01 R10 to R12, R16). -/

namespace Sys2Proof.EncoderRules

open Sys2Proof.Machine

set_option Elab.async false

variable {s t : State}

/-! ## The order of the phase pairs (01 R10) -/

theorem forwardPair_ne (p : PhasePair) : p ≠ forwardPair p := by
  obtain ⟨a, b⟩ := p
  cases a <;> cases b <;> decide

theorem forwardPair_twice_ne (p : PhasePair) : p ≠ forwardPair (forwardPair p) := by
  obtain ⟨a, b⟩ := p
  cases a <;> cases b <;> decide

/-- One step of either direction changes one phase alone. -/
theorem forwardPair_one (p : PhasePair) : (forwardPair p).a = p.a ∨ (forwardPair p).b = p.b := by
  obtain ⟨a, b⟩ := p
  cases a <;> cases b <;> decide

theorem exec_encoderStep (pair : PhasePair) (hf : s.resetHeld = false) :
    exec (.encoderStep pair) s = .next (encoderMove pair (settle s)) := congrArg _ (event_free hf _)

theorem encoderMove_same (u : State) : encoderMove u.pos.phases u = u := if_pos rfl

theorem encoderMove_forward (u : State) : encoderMove (forwardPair u.pos.phases) u =
    forwardStep { u with pos := { u.pos with phases := forwardPair u.pos.phases } } := by
  rw [encoderMove, if_neg (forwardPair_ne _).symm]
  exact if_pos rfl

theorem encoderMove_reverse {pair : PhasePair} {u : State} (h : u.pos.phases = forwardPair pair) :
    encoderMove pair u = reverseStep { u with pos := { u.pos with phases := pair } } := by
  rw [encoderMove, if_neg (fun hp => forwardPair_ne pair (hp.trans h))]
  exact (if_neg (fun hp => forwardPair_twice_ne pair (hp.trans (by rw [h])))).trans (if_pos h)

theorem encoderMove_both {pair : PhasePair} {u : State} (ha : pair.a ≠ u.pos.phases.a) (hb : pair.b ≠ u.pos.phases.b) :
    encoderMove pair u = report .encoder { u with pos := { u.pos with phases := pair } } := by
  have hforward (h : pair = forwardPair u.pos.phases) : False := by
    rcases forwardPair_one u.pos.phases with k | k
    · exact ha (by rw [h, k])
    · exact hb (by rw [h, k])
  have hreverse (h : u.pos.phases = forwardPair pair) : False := by
    rcases forwardPair_one pair with k | k
    · exact ha (by rw [h, k])
    · exact hb (by rw [h, k])
  rw [encoderMove, if_neg (fun h => ha (by rw [← h]))]
  exact (if_neg hforward).trans (if_neg hreverse)

theorem reverseStep_eq (h : s.pos.depth < 2147483647) : reverseStep s =
    if s.pos.depth = 3599 then report .reverse { s with pos := { s.pos with depth := 3600 } }
    else { s with pos := { s.pos with depth := s.pos.depth + 1 } } := by
  rw [reverseStep, if_neg (by omega)]
  dsimp only
  by_cases hd : s.pos.depth = 3599
  · rw [if_pos hd, if_pos (by omega), hd]
  · rw [if_neg hd, if_neg (by omega)]

/-! ## Recurring events of an angle (01 R16) -/

theorem sectionInForce_iff (s : State) (g : RegisterSettings) : sectionInForce s = some g ↔
    ∃ k, s.reg.source = some k ∧ g = (recipeOf s k).register ∧ g.enabled = true := by
  unfold sectionInForce sectionOf
  cases s.reg.source with
  | none => simp
  | some k =>
    dsimp only
    constructor
    · intro h
      split at h
      next he =>
        cases h
        exact ⟨k, rfl, rfl, he⟩
      next => cases h
    · rintro ⟨k', hk, hg, he⟩
      cases hk
      rw [hg] at he
      rw [if_pos he, hg]

/-- The recurring events of the section in force at angle `a` (04 R60). -/
def sectionEvents (a : Nat) (g : RegisterSettings) : List Recurring :=
  (if a + g.w = g.m then [.captureArm] else []) ++ (if a = g.m + g.w then [.windowClose] else [])

theorem mem_sectionEvents {a : Nat} {g : RegisterSettings} {e : Recurring} : e ∈ sectionEvents a g ↔
    (e = .captureArm ∧ a + g.w = g.m) ∨ (e = .windowClose ∧ a = g.m + g.w) := by
  have hpart {p : Prop} [Decidable p] {d : Recurring} : e ∈ (if p then [d] else []) ↔ e = d ∧ p := by
    by_cases h : p <;> simp [h]
  rw [sectionEvents, List.mem_append, hpart, hpart]

theorem nodup_sectionEvents (a : Nat) (g : RegisterSettings) : (sectionEvents a g).Nodup := by
  unfold sectionEvents
  split <;> split <;> decide

theorem recurringAt_eq (s : State) (a : Nat) : recurringAt s a =
    (if a = s.store.inForce.general.feedAngle then [.feed] else []) ++ (sectionInForce s).toList.flatMap (sectionEvents a)
      ++ (if a = 100 then (allInsps.filter (isPresence s)).map .watchOpen else [])
      ++ (if a = 3500 then (allInsps.filter (isPresence s)).map .watchEnd else []) := by
  unfold recurringAt
  cases sectionInForce s with
  | none => rfl
  | some g => simp [sectionEvents]

theorem isPresence_iff (s : State) (j : Fin 8) : isPresence s j = true ↔
    (getAt s.store.inForce.insps j).enabled = true ∧ (getAt s.store.inForce.insps j).kind = .presence := by
  rw [isPresence, Bool.and_eq_true, beq_iff_eq]
  rfl

theorem mem_feedPart {p : Prop} [Decidable p] {e : Recurring} :
    e ∈ (if p then [Recurring.feed] else []) ↔ e = .feed ∧ p := by
  by_cases h : p <;> simp [h]

theorem mem_sectionPart {s : State} {a : Nat} {e : Recurring} : e ∈ (sectionInForce s).toList.flatMap (sectionEvents a) ↔
    ∃ (k : Fin 8) (g : RegisterSettings), s.reg.source = some k ∧ g = (recipeOf s k).register ∧ g.enabled = true ∧
      ((e = .captureArm ∧ a + g.w = g.m) ∨ (e = .windowClose ∧ a = g.m + g.w)) := by
  simp only [List.mem_flatMap, Option.mem_toList, sectionInForce_iff, mem_sectionEvents]
  constructor
  · rintro ⟨g, ⟨k, hk, hg, he⟩, h⟩
    exact ⟨k, g, hk, hg, he, h⟩
  · rintro ⟨k, g, hk, hg, he, h⟩
    exact ⟨g, ⟨k, hk, hg, he⟩, h⟩

/-- The events of the PRESENCE channels at one of their two angles. -/
theorem mem_watchPart {p : Prop} [Decidable p] {s : State} {f : Fin 8 → Recurring} {e : Recurring} :
    e ∈ (if p then (allInsps.filter (isPresence s)).map f else []) ↔
      ∃ j, (getAt s.store.inForce.insps j).enabled = true ∧ (getAt s.store.inForce.insps j).kind = .presence ∧ e = f j ∧ p := by
  by_cases h : p
  · simp only [h, if_true, List.mem_map, List.mem_filter, isPresence_iff, mem_allInsps, true_and, and_true]
    constructor
    · rintro ⟨j, ⟨hj, hk⟩, rfl⟩
      exact ⟨j, hj, hk, rfl⟩
    · rintro ⟨j, hj, hk, rfl⟩
      exact ⟨j, ⟨hj, hk⟩, rfl⟩
  · simp [h]

theorem mem_recurringAt (s : State) (a : Nat) (e : Recurring) : e ∈ recurringAt s a ↔
    (e = .feed ∧ a = s.store.inForce.general.feedAngle) ∨
    (∃ (k : Fin 8) (g : RegisterSettings), s.reg.source = some k ∧ g = (recipeOf s k).register ∧ g.enabled = true ∧
      ((e = .captureArm ∧ a + g.w = g.m) ∨ (e = .windowClose ∧ a = g.m + g.w))) ∨
    (∃ j : Fin 8, (getAt s.store.inForce.insps j).enabled = true ∧ (getAt s.store.inForce.insps j).kind = .presence ∧
      ((e = .watchOpen j ∧ a = 100) ∨ (e = .watchEnd j ∧ a = 3500))) := by
  rw [recurringAt_eq, List.mem_append, List.mem_append, List.mem_append, mem_feedPart, mem_sectionPart, mem_watchPart,
    mem_watchPart, or_assoc, or_assoc]
  refine or_congr_right (or_congr_right ?_)
  constructor
  · rintro (⟨j, hj, hk, h⟩ | ⟨j, hj, hk, h⟩)
    · exact ⟨j, hj, hk, .inl h⟩
    · exact ⟨j, hj, hk, .inr h⟩
  · rintro ⟨j, hj, hk, h | h⟩
    · exact .inl ⟨j, hj, hk, h⟩
    · exact .inr ⟨j, hj, hk, h⟩

theorem nodup_watchPart {p : Prop} [Decidable p] (s : State) {f : Fin 8 → Recurring} (hf : Function.Injective f) :
    (if p then (allInsps.filter (isPresence s)).map f else []).Nodup := by
  split
  · exact (List.Nodup.filter _ (by decide)).map hf
  · exact List.nodup_nil

theorem nodup_recurringAt (s : State) (a : Nat) : (recurringAt s a).Nodup := by
  have hsection : ((sectionInForce s).toList.flatMap (sectionEvents a)).Nodup := by
    cases sectionInForce s with
    | none => exact List.nodup_nil
    | some g =>
      simp only [Option.toList_some, List.flatMap_cons, List.flatMap_nil, List.append_nil, nodup_sectionEvents]
  rw [recurringAt_eq]
  refine List.Nodup.append (List.Nodup.append (List.Nodup.append (by split <;> simp) hsection ?_)
    (nodup_watchPart s fun _ _ h => Recurring.watchOpen.inj h) ?_) (nodup_watchPart s fun _ _ h => Recurring.watchEnd.inj h) ?_
  · intro e h k
    obtain ⟨rfl, -⟩ := mem_feedPart.mp h
    obtain ⟨_, _, -, -, -, h | h⟩ := mem_sectionPart.mp k <;> cases h.1
  · intro e h k
    obtain ⟨j, -, -, rfl, -⟩ := mem_watchPart.mp k
    rw [List.mem_append, mem_feedPart, mem_sectionPart] at h
    obtain h | ⟨_, _, -, -, -, h | h⟩ := h <;> cases h.1
  · intro e h k
    obtain ⟨j, -, -, rfl, -⟩ := mem_watchPart.mp k
    rw [List.mem_append, List.mem_append, mem_feedPart, mem_sectionPart, mem_watchPart] at h
    obtain (h | ⟨_, _, -, -, -, h | h⟩) | ⟨_, -, -, h⟩ := h <;> cases h.1

/-- Settles O16: the pair that comes decides among the five cases, and the events of an angle by the parts of their list. -/
theorem encoderStep : Obligations.EncoderStep := by
  refine ⟨fun pair s u hf hu => ⟨fun h => ?_, fun h hd => ?_, fun h hd => ?_, fun h hd => ?_, fun h hd => ?_, fun ha hb => ?_⟩,
    fun s a => ⟨nodup_recurringAt s a, mem_recurringAt s a⟩, rfl, rfl, rfl, rfl⟩ <;> rw [exec_encoderStep pair hf, ← hu]
  · rw [h, encoderMove_same]
  · rw [h, encoderMove_forward]
    exact congrArg _ (if_pos hd)
  · rw [h, encoderMove_forward]
    exact congrArg _ (if_neg (show ¬ 0 < u.pos.depth by omega))
  · rw [encoderMove_reverse h]
    exact congrArg _ (reverseStep_eq hd)
  · rw [encoderMove_reverse h]
    exact congrArg _ (if_pos hd)
  · rw [encoderMove_both ha hb]

end Sys2Proof.EncoderRules
end

section
/-! SUPPORT. The end of a speed window: what the application events taken at it leave, and the hand-over of V (05 R82). -/

namespace Sys2Proof.SpeedRules

open Sys2Proof.Machine Sys2Proof.Overlay Sys2Proof.FiredEvents Sys2Proof.Keeping Sys2Proof.Steps

set_option Elab.async false

variable {s t u : State}

/-! ## Application events change no lead and no position -/

/-- Only the schedule of the Position Unit has changed, and no channel's leads have. -/
def LeadsStand (s t : State) : Prop :=
  t.pos = { s.pos with schedule := t.pos.schedule } ∧
  ∀ k : Fin 12, (getAt t.app.channels k).onLead = (getAt s.app.channels k).onLead ∧
    (getAt t.app.channels k).offLead = (getAt s.app.channels k).offLead

theorem LeadsStand.refl (s : State) : LeadsStand s s := ⟨rfl, fun _ => ⟨rfl, rfl⟩⟩

theorem LeadsStand.trans (h : LeadsStand s t) (g : LeadsStand t u) : LeadsStand s u := by
  obtain ⟨hpos, hleads⟩ := h
  obtain ⟨gpos, gleads⟩ := g
  exact ⟨by rw [gpos, hpos], fun k => ⟨(gleads k).1.trans (hleads k).1, (gleads k).2.trans (hleads k).2⟩⟩

theorem LeadsStand.ite {p : Prop} [Decidable p] (h : p → LeadsStand s t) (g : ¬ p → LeadsStand s u) :
    LeadsStand s (if p then t else u) := by
  split
  · exact h ‹_›
  · exact g ‹_›

theorem LeadsStand.foldl {α : Type} {g : State → α → State} (h : ∀ t x, LeadsStand t (g t x)) :
    ∀ (xs : List α) (s : State), LeadsStand s (xs.foldl g s)
  | [], s => .refl s
  | x :: xs, s => (h s x).trans (foldl h xs (g s x))

theorem leadsStand_of_touches {fs : List StateField} (h : Touches fs s t) (hp : .pos ∉ fs := by decide)
    (ha : .app ∉ fs := by decide) : LeadsStand s t :=
  ⟨by rw [h.pos hp], fun k => by rw [h.app ha]; exact ⟨rfl, rfl⟩⟩

theorem leadsStand_modifyChannel (k : Fin 12) {f : AppChannel → AppChannel}
    (hf : ∀ c, (f c).onLead = c.onLead ∧ (f c).offLead = c.offLead) (s : State) : LeadsStand s (modifyChannel k f s) := by
  refine ⟨rfl, fun i => ?_⟩
  rw [getAt_modifyChannel]
  split
  · exact hf _
  · exact ⟨rfl, rfl⟩

theorem leadsStand_idleChannel (k : Fin 12) (s : State) : LeadsStand s (idleChannel k s) :=
  leadsStand_modifyChannel k (f := fun c => { c with serving := none }) (fun _ => ⟨rfl, rfl⟩) s

theorem leadsStand_unschedule (l : List Pending) (s : State) : LeadsStand s { s with pos := { s.pos with schedule := l } } :=
  ⟨rfl, fun _ => ⟨rfl, rfl⟩⟩

theorem leadsStand_defectHandOver (q : U32) (s : State) : LeadsStand s (defectHandOver q s) := by
  unfold defectHandOver
  split
  · exact .refl s
  · exact .ite (fun _ => (leadsStand_unschedule _ s).trans
      (.foldl (fun t k => .ite (fun _ => leadsStand_idleChannel k t) (fun _ => .refl t)) allApps _)) (fun _ => .refl s)

theorem leadsStand_addDefect (q : U32) (c : DefectClass) (s : State) : LeadsStand s (addDefect q c s) := by
  unfold addDefect
  split
  · exact .refl s
  · exact (leadsStand_of_touches (amendRecord_touches _ _ s)).trans (leadsStand_defectHandOver q _)

theorem leadsStand_suppress (q : U32) (k : Fin 12) (s : State) : LeadsStand s (suppress q k s) := by
  have hamend := leadsStand_of_touches
    (amendRecord_touches q (fun r => { r with suppressed := r.suppressed ||| oneChannel k }) s)
  unfold suppress
  dsimp only
  split
  · exact hamend.trans (leadsStand_addDefect _ _ _)
  · exact hamend

theorem leadsStand_countGum (q : U32) (s : State) : LeadsStand s (countGum q s) :=
  .ite (fun _ => .refl s) (fun _ => ⟨rfl, fun _ => ⟨rfl, rfl⟩⟩)

theorem leadsStand_displace (q : U32) (k : Fin 12) (s : State) : LeadsStand s (displace q k s) := by
  unfold displace
  split
  · exact .ite (fun _ => .refl s) (fun _ => leadsStand_unschedule _ s)
  · exact .refl s

theorem leadsStand_applyPair (r : Record) (k : Fin 12) (i : Nat) (e : CamEntry) (dot : Nat) (s : State) :
    LeadsStand s (applyPair r k i e dot s) := by
  have hserves := (leadsStand_displace r.seq k s).trans (leadsStand_modifyChannel k
    (f := fun c => { c with serving := some ⟨r.seq, i, dot, s.pos.hwm⟩ }) (fun _ => ⟨rfl, rfl⟩) _)
  exact (hserves.trans (leadsStand_of_touches
    (amendRecord_touches r.seq (fun x => { x with applied := x.applied ||| oneChannel k }) _))).trans (leadsStand_unschedule _ _)

theorem leadsStand_judgeOn (q : U32) (k : Fin 12) (i dot : Nat) (s : State) : LeadsStand s (judgeOn q k i dot s) := by
  unfold judgeOn
  split
  · exact .refl s
  · split
    · exact .refl s
    · exact .ite (fun _ => .refl s) (fun _ => .ite (fun _ => leadsStand_suppress q k s) (fun _ =>
        .ite (fun _ => (leadsStand_suppress q k s).trans (leadsStand_countGum q _))
          (fun _ => leadsStand_applyPair _ _ _ _ _ s)))

theorem leadsStand_judgeApp (e : Scheduled) (s : State) : LeadsStand s (judgeApp e s) := by
  unfold judgeApp
  split
  · exact leadsStand_judgeOn _ _ _ _ s
  · unfold judgeOff
    split
    · exact .ite (fun _ => leadsStand_idleChannel _ s) (fun _ => .refl s)
    · exact .refl s
  · exact .refl s

theorem leadsStand_fireDueApps : ∀ (n : Nat) (s : State), LeadsStand s (fireDueApps n s)
  | 0, s => .refl s
  | n + 1, s => by
    unfold fireDueApps
    split
    · exact .refl s
    · exact ((leadsStand_unschedule _ s).trans (leadsStand_judgeApp _ _)).trans (leadsStand_fireDueApps n _)

theorem leadsStand_takeFiredApps (s : State) : LeadsStand s (takeFiredApps s) := leadsStand_fireDueApps _ s

theorem takeFiredApps_idle (h : ∀ e, e ∈ s.pos.schedule → isAppEvent e.event = true → isDue s.pos.hwm e = false) :
    takeFiredApps s = s := by
  refine takeFiredApps_of_none (nextDueApp_none.mpr fun e he => ?_)
  by_cases happ : isAppEvent e.event = true
  · simp [isDueApp, h e he happ]
  · simp [isDueApp, happ]

/-! ## The hand-over of V -/

/-- The leads of every enabled channel are those of V, and every pending application event stands where they place it. -/
def handedOver (u : State) : State := moveEvents (computeLeads (fun k => (appOf u k).enabled) u)

theorem recomputeLeads_eq (w : State) : recomputeLeads w = takeFiredApps (handedOver (takeFiredApps w)) := rfl

theorem handedOver_channel (u : State) (k : Fin 12) : getAt (handedOver u).app.channels k =
    if (appOf u k).enabled = true then
      { getAt u.app.channels k with onLead := leadOf (appOf u k).onLatency u.pos.speed,
                                    offLead := leadOf (appOf u k).offLatency u.pos.speed }
    else getAt u.app.channels k := Passes.channel_computeLeads _ u k

/-- The hand-over changes the channels and the positions of the schedule alone. -/
theorem handedOver_eq (u : State) : handedOver u = { u with
    app := { u.app with channels := (handedOver u).app.channels }
    pos := { u.pos with schedule := u.pos.schedule.map (movedEvent (handedOver u)) } } := by
  have happ := BlankRules.app_of_blanks (TableRules.blanks_computeLeads (fun k => (appOf u k).enabled) u)
  have hframe : computeLeads (fun k => (appOf u k).enabled) u =
      { u with app := { u.app with channels := (computeLeads (fun k => (appOf u k).enabled) u).app.channels } } :=
    (frame_of_touches (computeLeads_touches (fun k => (appOf u k).enabled) u)).trans (by rw [← happ]; rfl)
  calc handedOver u
      = { computeLeads (fun k => (appOf u k).enabled) u with
          pos := { (computeLeads (fun k => (appOf u k).enabled) u).pos with
                   schedule := (computeLeads (fun k => (appOf u k).enabled) u).pos.schedule.map (movedEvent (handedOver u)) } } := rfl
    _ = _ := by rw [hframe]; rfl

/-- The state at the end of a speed window, before any hand-over. -/
theorem windowEnded_eq (s : State) : windowEnded s = { s with pos := { s.pos with
    timebase := (windowEnded s).pos.timebase, windowStart := s.pos.windowStart + 10000#32, windowCount := 0
    speed := min s.pos.windowCount 4095 } } := by
  unfold windowEnded timeAtLeast
  split <;> rfl

theorem windowEnded_timebase (s : State) : (windowEnded s).pos.timebase =
    if (s.pos.timebase - s.pos.windowStart).toNat < 10000 then s.pos.windowStart + 10000#32 else s.pos.timebase := by
  unfold windowEnded timeAtLeast elapsed
  split <;> rfl

theorem endWindow_eq (s : State) : endWindow s =
    if min s.pos.windowCount 4095 = s.pos.speed then windowEnded s else recomputeLeads (windowEnded s) := rfl

/-- Of the Position Unit only the schedule has changed. -/
def ScheduleOnly (s t : State) : Prop := t.pos = { s.pos with schedule := t.pos.schedule }

theorem ScheduleOnly.refl (s : State) : ScheduleOnly s s := rfl

theorem ScheduleOnly.trans (h : ScheduleOnly s t) (g : ScheduleOnly t u) : ScheduleOnly s u := by
  unfold ScheduleOnly at *
  rw [g, h]

theorem scheduleOnly_takeFiredApps (s : State) : ScheduleOnly s (takeFiredApps s) := (leadsStand_takeFiredApps s).1

theorem scheduleOnly_handedOver (u : State) : ScheduleOnly u (handedOver u) := by
  rw [handedOver_eq]
  rfl

/-- A hand-over leaves of the Position Unit what the window's end left, but for the schedule. -/
theorem scheduleOnly_endWindow (s : State) : ScheduleOnly (windowEnded s) (endWindow s) := by
  rw [endWindow_eq]
  split
  · exact .refl _
  · rw [recomputeLeads_eq]
    exact ((scheduleOnly_takeFiredApps _).trans (scheduleOnly_handedOver _)).trans (scheduleOnly_takeFiredApps _)

/-- The leads that the window's end leaves: those of V for an enabled channel where V is new, else as they were. -/
theorem endWindow_leads (s : State) (k : Fin 12) :
    let new := min s.pos.windowCount 4095 ≠ s.pos.speed ∧ (getAt s.store.inForce.apps k).enabled = true
    (getAt (endWindow s).app.channels k).onLead = (if new then
      leadOf (getAt s.store.inForce.apps k).onLatency (min s.pos.windowCount 4095) else (getAt s.app.channels k).onLead) ∧
    (getAt (endWindow s).app.channels k).offLead = (if new then
      leadOf (getAt s.store.inForce.apps k).offLatency (min s.pos.windowCount 4095) else (getAt s.app.channels k).offLead) := by
  have hended : (windowEnded s).app = s.app := (windowEnded_touches s).app
  dsimp only
  rw [endWindow_eq]
  split
  next h => simp [h, hended]
  next h =>
    have hfirst := leadsStand_takeFiredApps (windowEnded s)
    have hstore : (takeFiredApps (windowEnded s)).store = s.store :=
      (takeFiredApps_touches _).store.trans (windowEnded_touches s).store
    have hspeed : (takeFiredApps (windowEnded s)).pos.speed = min s.pos.windowCount 4095 := by
      exact congrArg PositionUnit.speed hfirst.1
    obtain ⟨hon, hoff⟩ := (leadsStand_takeFiredApps (handedOver (takeFiredApps (windowEnded s)))).2 k
    rw [recomputeLeads_eq, hon, hoff, handedOver_channel, appOf, hstore, hspeed]
    by_cases he : (getAt s.store.inForce.apps k).enabled = true
    · simp [h, he]
    · simp [he, hfirst.2 k, hended]

/-- Settles O17: the clock of the next window, and with a new V the hand-over between two takings. -/
theorem speedWindowEnd : Obligations.SpeedWindowEnd := by
  intro s hf
  have hended := windowEnded_eq s
  have htime := windowEnded_timebase s
  have hpos := scheduleOnly_endWindow s
  have hleads := endWindow_leads s
  have htouch := Steps.endWindow_touches s
  unfold ScheduleOnly at hpos
  have hspeed : (endWindow s).pos.speed = min s.pos.windowCount 4095 := by rw [hpos, hended]
  have htimebase : (endWindow s).pos.timebase = (windowEnded s).pos.timebase := by rw [hpos]
  have hstart : (endWindow s).pos.windowStart = s.pos.windowStart + 10000#32 := by rw [hpos, hended]
  have hframe : windowEnded s = { s with pos := { s.pos with
      timebase := (endWindow s).pos.timebase, windowStart := (endWindow s).pos.windowStart, windowCount := 0
      speed := min s.pos.windowCount 4095 } } := by
    rw [htimebase, hstart]
    exact hended
  have hcases := endWindow_eq s
  refine ⟨endWindow s, congrArg _ (event_free hf _), hspeed, by rw [hpos, hended], hstart, htimebase.trans htime, ?_,
    fun hstay => ?_, fun hnew k hk => ?_, fun k hk => ?_, htouch.orders, htouch.deliv, htouch.reg, htouch.line, htouch.lines,
    htouch.store, htouch.insp, fun hnew u v w hw hu hv hchannels => ?_⟩
  · rw [hpos, hended]
  · rw [hspeed] at hstay
    rw [if_pos hstay, hframe] at hcases
    refine hcases.trans ?_
    rw [hstay]
  · rw [hspeed] at hnew ⊢
    rw [(hleads k).1, (hleads k).2, if_pos ⟨hnew, hk⟩, if_pos ⟨hnew, hk⟩]
    exact ⟨rfl, rfl⟩
  · have hno : ¬ (min s.pos.windowCount 4095 ≠ s.pos.speed ∧ (getAt s.store.inForce.apps k).enabled = true) := by simp [hk]
    rw [(hleads k).1, (hleads k).2, if_neg hno, if_neg hno]
    exact ⟨rfl, rfl⟩
  · rw [hspeed] at hnew hw
    have hw' : w = windowEnded s := hw.trans hframe.symm
    have hmark : w.pos.hwm = s.pos.hwm := by rw [hw]
    have hsched : w.pos.schedule = s.pos.schedule := by rw [hw]
    rw [if_neg hnew, recomputeLeads_eq, ← hw', ← hu] at hcases
    have hstand := leadsStand_takeFiredApps (handedOver u)
    have hv' : v = handedOver u := by
      have hsame : v.app.channels = (handedOver u).app.channels := by
        refine table_ext fun k => ?_
        rw [hchannels k, hcases, (hstand.2 k).1, (hstand.2 k).2, handedOver_channel]
        split <;> rfl
      refine hv.trans (Eq.trans ?_ (handedOver_eq u).symm)
      rw [hsame]
      rfl
    refine ⟨hcases.trans (by rw [hv']), fun hidle => ?_, fun hidle => ?_⟩
    · rw [hu]
      refine takeFiredApps_idle ?_
      rw [hmark, hsched]
      exact hidle
    · rw [hcases, ← hv']
      refine takeFiredApps_idle ?_
      have hmark' : v.pos.hwm = s.pos.hwm := by rw [hv', scheduleOnly_handedOver u, hu, (leadsStand_takeFiredApps w).1, hmark]
      rw [hmark']
      exact hidle

end Sys2Proof.SpeedRules
end

section
/-! SUPPORT. How the Transit List grows over a step (03 R40, R43, R45 to R48). -/

namespace Sys2Proof.Growth

open Sys2Proof.Machine Sys2Proof.Ledger Sys2Proof.Steps Sys2Proof.Changes Sys2Proof.Keeping

set_option Elab.async false

variable {s t : State} {l l' xs : List Record} {n m : U32} {k b : Nat}

/-! ## Lists that descend from a list -/

/-- `l` holds grown records of `xs`, in their order, and behind them records under `k` numbers from `n` on. -/
def Descends (n : U32) (xs : List Record) (k : Nat) (l : List Record) : Prop :=
  ∃ kept grown new : List Record, kept.Sublist xs ∧ l = grown ++ new ∧ List.Forall₂ Grown kept grown ∧
    new.length ≤ k ∧ ∀ x, x ∈ new → ∃ i, i < k ∧ x.seq = n + BitVec.ofNat 32 i

theorem forall₂_sublist {α : Type} {R : α → α → Prop} {as bs cs : List α} (h : List.Forall₂ R as bs) (hs : cs.Sublist bs) :
    ∃ ds, ds.Sublist as ∧ List.Forall₂ R ds cs := by
  induction hs generalizing as with
  | slnil => exact ⟨[], List.nil_sublist _, .nil⟩
  | cons b _ ih =>
    cases h with
    | cons hab htail =>
      obtain ⟨ds, hds, hr⟩ := ih htail
      exact ⟨ds, hds.cons _, hr⟩
  | cons_cons b _ ih =>
    cases h with
    | cons hab htail =>
      obtain ⟨ds, hds, hr⟩ := ih htail
      exact ⟨_, hds.cons_cons _, .cons hab hr⟩

theorem descends_self (n : U32) (xs : List Record) : Descends n xs 0 xs :=
  ⟨xs, xs, [], .refl xs, (List.append_nil xs).symm, List.forall₂_same.mpr fun r _ => grown_refl r, Nat.le_refl 0,
    fun _ h => nomatch h⟩

theorem descends_nil (n : U32) (xs : List Record) (k : Nat) : Descends n xs k [] :=
  ⟨[], [], [], List.nil_sublist xs, rfl, .nil, Nat.zero_le k, fun _ h => nomatch h⟩

theorem Descends.mono {j : Nat} (h : Descends n xs k l) (hk : k ≤ j) : Descends n xs j l := by
  obtain ⟨kept, grown, new, hkept, hl, hgrown, hlen, hseq⟩ := h
  refine ⟨kept, grown, new, hkept, hl, hgrown, hlen.trans hk, fun x hx => ?_⟩
  obtain ⟨i, hi, hx⟩ := hseq x hx
  exact ⟨i, by omega, hx⟩

theorem Descends.sublist (h : Descends n xs k l) (hs : l'.Sublist l) : Descends n xs k l' := by
  obtain ⟨kept, grown, new, hkept, rfl, hgrown, hlen, hseq⟩ := h
  obtain ⟨grown', new', rfl, hg, hn⟩ := List.sublist_append_iff.mp hs
  obtain ⟨kept', hk, hgrown'⟩ := forall₂_sublist hgrown hg
  exact ⟨kept', grown', new', hk.trans hkept, rfl, hgrown', hn.length_le.trans hlen, fun x hx => hseq x (hn.subset hx)⟩

theorem Descends.map (h : Descends n xs k l) {f : Record → Record} (hf : ∀ r, Grown r (f r)) : Descends n xs k (l.map f) := by
  obtain ⟨kept, grown, new, hkept, rfl, hgrown, hlen, hseq⟩ := h
  refine ⟨kept, grown.map f, new.map f, hkept, List.map_append, ?_, by rw [List.length_map]; exact hlen, fun x hx => ?_⟩
  · rw [List.forall₂_map_right_iff]
    exact hgrown.imp fun r x hrx => grown_trans hrx (hf x)
  · obtain ⟨y, hy, rfl⟩ := List.mem_map.mp hx
    obtain ⟨i, hi, hseq⟩ := hseq y hy
    exact ⟨i, hi, (hf y).1.trans hseq⟩

theorem Descends.join (h : Descends n xs k l) {r : Record} (hr : r.seq = n + BitVec.ofNat 32 k) :
    Descends n xs (k + 1) (l ++ [r]) := by
  obtain ⟨kept, grown, new, hkept, rfl, hgrown, hlen, hseq⟩ := h
  refine ⟨kept, grown, new ++ [r], hkept, List.append_assoc _ _ _, hgrown, by simp [hlen], fun x hx => ?_⟩
  rcases List.mem_append.mp hx with hx | hx
  · obtain ⟨i, hi, hx⟩ := hseq x hx
    exact ⟨i, by omega, hx⟩
  · rw [List.mem_singleton.mp hx]
    exact ⟨k, Nat.lt_succ_self k, hr⟩

/-! ## Grown in a step -/

/-- The list and the sequence number of `v` come of those of `s`, with `b` feed events of `s` taken besides those whose
blanks have joined. -/
def Grows (s : State) (b : Nat) (v : State) : Prop :=
  ∃ k, Descends s.track.nextSeq s.track.records k v.track.records ∧ v.track.nextSeq = s.track.nextSeq + BitVec.ofNat 32 k ∧
    k + (firedFeeds v).length + b ≤ (firedFeeds s).length

variable {u v w : State}

theorem grows_of_track (ht : w.track = v.track) (hf : (firedFeeds w).length ≤ (firedFeeds v).length) (h : Grows s b v) :
    Grows s b w := by
  obtain ⟨k, hlist, hnext, hfeeds⟩ := h
  exact ⟨k, by rw [ht]; exact hlist, by rw [ht]; exact hnext, by omega⟩

theorem grows_of_touches {fs : List StateField} (h : Touches fs v w) (kt : .track ∉ fs := by decide)
    (kp : .pos ∉ fs := by decide) (hv : Grows s b v) : Grows s b w :=
  grows_of_track (h.track kt) (by unfold firedFeeds; rw [h.pos kp]) hv

theorem length_firedFeeds_filter (p : Fired → Bool) (v : State) :
    (firedFeeds { v with pos := { v.pos with due := v.pos.due.filter p } }).length ≤ (firedFeeds v).length := by
  unfold firedFeeds
  rw [List.length_map, List.length_map]
  exact ((List.filter_sublist).filter _).length_le

theorem grows_dropRecord (q : U32) (v : State) : Keeps (Grows s b) v
    { v with track := { v.track with records := v.track.records.eraseP (fun x => x.seq == q) } } := by
  rintro ⟨k, hlist, hnext, hfeeds⟩
  exact ⟨k, hlist.sublist List.eraseP_sublist, hnext, hfeeds⟩

theorem grows_amendRecord (q : U32) (f : Record → Record) (v : State) (hf : ∀ r, Grown r (f r)) :
    Keeps (Grows s b) v (amendRecord q f v) := by
  rintro ⟨k, hlist, hnext, hfeeds⟩
  refine ⟨k, hlist.map (f := fun x => if x.seq == q then f x else x) fun r => ?_, hnext, hfeeds⟩
  split
  · exact hf r
  · exact grown_refl r

theorem grows_switchTo (src : Option (Fin 8)) (v : State) : Keeps (Grows s b) v (switchTo src v) := by
  refine grows_of_track (switchTo_touches src v).track ?_
  have hdue := RegisterRules.switchTo_due src v
  unfold firedFeeds
  rw [hdue]
  split
  · exact Nat.le_refl _
  · exact length_firedFeeds_filter _ v

theorem respectsPlain_grows (s : State) (b : Nat) : RespectsPlain (Keeps (Grows s b)) where
  refl _ h := h
  trans h g k := g (h k)
  offer n v := grows_of_touches (offer_touches n v)
  count c v := grows_of_touches (count_touches c v)
  withdraw _ _ := grows_of_track rfl (Nat.le_refl _)
  unschedule _ _ := grows_of_track rfl (Nat.le_refl _)
  switchTo := grows_switchTo
  armWindow p v := grows_of_touches (armWindow_touches p v)
  closeWindow v := grows_of_touches (closeWindow_touches v)
  amendRecord := grows_amendRecord
  modifyChannel k f v _ := grows_of_touches (modifyChannel_touches k f v)
  setBlanks l v := grows_of_touches (setBlanks_touches l v)
  modifyInsp j f v _ := grows_of_touches (modifyInsp_touches j f v)
  mapOrders _ v _ := grows_of_touches (setOrders_touches _ v)
  setFeed _ _ v := grows_of_touches (setOrders_touches _ v)
  setFeedGate g v := grows_of_touches (setFeedGate_touches g v)
  removeOrder _ v := grows_of_touches (setOrders_touches _ v)
  refDown k v := grows_of_touches (refDown_touches k v)
  setDeliv d v _ := grows_of_touches (setDeliv_touches d v)
  logBox _ _ v := grows_of_touches (setDeliv_touches _ v)
  report f v := grows_of_touches (report_touches f v)

theorem respectsEnds_grows (s : State) (b : Nat) : RespectsEnds (Keeps (Grows s b)) where
  toRespects := (respectsPlain_grows s b).respects grows_dropRecord (fun v => grows_of_touches (drainTest_touches v))
  schedule _ _ _ := grows_of_track rfl (Nat.le_refl _)

/-- A blank that is accepted takes the next number, on account of the feed event taken. -/
theorem grows_acceptBlank (p : U32) (o : Order) (v : State) (h : Grows s 1 v) : Grows s 0 (acceptBlank p o v) := by
  obtain ⟨k, hlist, hnext, hfeeds⟩ := h
  have hsame : firedFeeds (acceptBlank p o v) = firedFeeds v := by
    unfold firedFeeds
    rw [FeedRules.acceptBlank_pos]
  refine ⟨k + 1, ?_, ?_, by rw [hsame]; omega⟩
  · rw [acceptBlank_track]
    exact hlist.join hnext
  · rw [acceptBlank_track]
    rw [hnext]
    simp only [BitVec.ofNat_add, BitVec.add_assoc]

theorem Grows.anyBudget (h : Grows s b v) : Grows s 0 v := by
  obtain ⟨k, hlist, hnext, hfeeds⟩ := h
  exact ⟨k, hlist, hnext, by omega⟩

theorem grows_feedAt (p : U32) (v : State) (h : Grows s 1 v) : Grows s 0 (feedAt p v) := by
  have E := respectsEnds_grows s 1
  have hdecided := E.feedDecision v h
  unfold feedAt
  dsimp only
  split
  · exact grows_acceptBlank p _ _ hdecided
  · exact (E.divertBlank _ hdecided).anyBudget

/-- The firing of a recurring event that is taken leaves the list of fired ones, a feed event one feed the fewer. -/
theorem grows_dropDue {f : Fired} {v : State} (hf : f ∈ v.pos.due) (h : Grows s 0 v) :
    Grows s (if f.event = .feed then 1 else 0) { v with pos := { v.pos with due := v.pos.due.erase f } } := by
  obtain ⟨k, hlist, hnext, hfeeds⟩ := h
  refine ⟨k, hlist, hnext, ?_⟩
  have hcount (l : List Fired) : (l.filter (fun f => f.event == .feed)).length = l.countP (fun f => f.event == .feed) :=
    List.countP_eq_length_filter.symm
  have herase : (v.pos.due.erase f).countP (fun f => f.event == .feed) + (if f.event = .feed then 1 else 0) =
      v.pos.due.countP (fun f => f.event == .feed) := by
    rw [(List.perm_cons_erase hf).countP_eq, List.countP_cons]
    simp
  unfold firedFeeds at hfeeds ⊢
  rw [List.length_map, hcount] at hfeeds ⊢
  dsimp only at hfeeds ⊢
  omega

theorem takesKeep_grows (s : State) : TakesKeep (Grows s 0) where
  free n v := grows_of_touches (setFree_touches n v)
  recurring f v hf h := by
    have E := respectsEnds_grows s 0
    have hdrop := grows_dropDue hf h
    cases he : f.event with
    | feed =>
      rw [he] at hdrop
      exact grows_feedAt _ _ hdrop
    | captureArm => exact E.armWindow _ _ hdrop.anyBudget
    | windowClose => exact E.closeWindow _ hdrop.anyBudget
    | watchOpen j => exact E.watchOpenAt j _ _ hdrop.anyBudget
    | watchEnd j => exact E.watchEndAt j _ _ hdrop.anyBudget
  scheduled p z v _ _ h := (respectsEnds_grows s 0).firePending p z _ ((respectsEnds_grows s 0).unschedule p v h)

/-- What a step leaves of the list. -/
def Grew (s v : State) : Prop := Descends s.track.nextSeq s.track.records (firedFeeds s).length v.track.records

theorem Grows.grew (h : Grows s b v) : Grew s v := by
  obtain ⟨k, hlist, -, hfeeds⟩ := h
  exact hlist.mono (by omega)

theorem grew_of_touches {fs : List StateField} (h : Touches fs v w) (k : .track ∉ fs := by decide) (hg : Grew s v) :
    Grew s w := by
  unfold Grew
  rw [h.track k]
  exact hg

theorem grew_reset (s : State) (pins : ResetPins) (v : State) : Grew s (takeReset pins v) := descends_nil _ _ _

theorem grew_effect (c : Instr) (v : State) (hc : isStation c = false) (h : Grows s 0 v) : Grew s (effect c v) := by
  have K := takesKeep_grows s
  have E := respectsEnds_grows s 0
  cases c <;> try cases hc
  case positionSet a =>
    show Grew s (positionSet a v).1
    unfold positionSet
    dsimp only
    split
    · exact h.grew
    · split
      · exact h.grew
      · exact grew_of_touches (fireEnds_touches _) (hg := grew_of_touches (placeAt_touches _ _) (hg := (K.settle h).grew))
  case machineTableApply a lock levels =>
    exact (keeps_machineTableApply (P := Grows s 0) K (grows_of_touches (setStore_touches _ v) (hv := h))
      (fun levels w _ hw => grows_of_touches (applyTable_touches levels w) (hv := hw)) lock levels h).grew
  case orderAbort a => exact (E.orderAbort a v h).grew
  case linePurge a => exact (E.linePurge v h).grew
  case fullReset pins => exact keeps_fullReset (P := Grew s) (fun p w => grew_reset s p w) pins h.grew
  case powerOnReset pins => exact grew_reset s pins v
  case frameArrival f =>
    exact keeps_frameArrival (P := Grew s) (fun x w hw => grew_of_touches (setRing_touches x w) (hg := hw))
      (fun p w => grew_reset s p w) (fun f w hw => grew_of_touches (report_touches f w) (hg := hw))
      (fun n w hw => grew_of_touches (takes_touches n w) (hg := hw))
      (fun g w hw => grew_of_touches (passFrame_touches g w) (hg := hw)) f h.grew
  case encoderStep pair =>
    exact grew_of_touches (encoderMove_touches pair (settle v)) (hg := (K.settle h).grew)
  case speedWindowEnd =>
    exact (respects_endWindow E v (grows_of_track (windowEnded_touches v).track (Nat.le_of_eq (by rw [SpeedRules.windowEnded_eq]; rfl)))
      (fun p w => grows_of_touches (computeLeads_touches p w)) (fun w => grows_of_track rfl (Nat.le_refl _)) h).grew
  all_goals exact grew_of_touches (effect_touches _ v) (by simp [effectFields]) h.grew

/-- Settles O53: the takings keep the budget of feed events, and what a step does besides leaves the list or empties it. -/
theorem recordsGrow : Obligations.RecordsGrow := by
  intro s t hstep
  have hstart : Grows s 0 s := ⟨0, descends_self _ _, (BitVec.add_zero _).symm, by omega⟩
  exact StepKeeps.step (P := Grows s 0) (Q := Grew s)
    { takes := takesKeep_grows s
      weaken := fun _ h => h.grew
      queue := fun q v => grows_of_touches (setQueue_touches q v)
      reply := fun place r v h => grew_of_touches (giveReply_touches place r v) (hg := h)
      effect := fun c v hc _ => grew_effect c v hc
      microsecond := fun v h => grew_of_touches (setPos_touches _ v) (hg := h.grew)
      completions := fun v h => grew_of_touches (clearCompletion_touches _)
        (hg := grew_of_touches (checkCompletion_touches v) (hg := h.grew)) } hstart hstep

end Sys2Proof.Growth
end

section
/-! SUPPORT. The laws of the device at reset. -/

namespace Sys2Proof.LawsAtReset

open Sys2Proof.Machine

set_option Elab.async false

variable (pins : ResetPins)

theorem slotOf_reset (k : Fin 8) : slotOf (State.resetWith pins) k = ⟨.empty, 0, Recipe.initial⟩ := getAt_replicate _ k

theorem recipeOf_reset (k : Fin 8) : recipeOf (State.resetWith pins) k = Recipe.initial :=
  congrArg Slot.recipe (slotOf_reset pins k)

theorem refsHold_reset : RefsHold (State.resetWith pins) := by
  refine ⟨fun k => ?_, fun k h => ?_, fun _ h => nomatch h⟩
  · rw [slotOf_reset]
    rfl
  · rw [slotOf_reset] at h
    exact absurd h (Nat.lt_irrefl 0)

theorem oneActive_reset : OneActive (State.resetWith pins) := ⟨List.nodup_nil, rfl⟩

theorem sourceFits_reset : SourceFits (State.resetWith pins) := ⟨rfl, iff_of_true rfl rfl, fun _ => rfl⟩

theorem runFits_reset : RunFits (State.resetWith pins) := ⟨fun _ => rfl, fun h => nomatch h⟩

theorem trimFits_reset : TrimFits (State.resetWith pins) :=
  ⟨Nat.zero_le _, fun k => by rw [recipeOf_reset]; exact Nat.zero_le _⟩

theorem fits_reset : Fits (State.resetWith pins) := by
  refine ⟨Nat.zero_le _, Nat.zero_le _, Nat.zero_le _, fun k => ?_, Nat.zero_le _, Nat.zero_le _, Nat.zero_le _, fun k => ?_,
    fun j => ?_⟩
  · rw [recipeOf_reset]
    exact Nat.zero_le _
  · have hchannel : getAt (State.resetWith pins).app.channels k = ⟨none, 0, 0⟩ := getAt_replicate _ k
    rw [hchannel]
    exact ⟨Nat.zero_le _, Nat.zero_le _⟩
  · have hinsp : inspChannel (State.resetWith pins) j = InspChannel.initial := getAt_replicate _ j
    rw [hinsp]
    exact Nat.zero_le _

theorem heldFits_reset : HeldFits (State.resetWith pins) := by
  refine ⟨fun _ i => ?_, fun h => nomatch h⟩
  have hout : getAt (State.resetWith pins).lines.outs i = OutLine.initial := getAt_replicate _ i
  rw [hout]
  rfl

theorem tableFits_reset : TableFits (State.resetWith pins) :=
  ⟨fun h => h.elim (fun h => nomatch h) (fun h => absurd rfl h), fun t h => by
    have ht : t = MachineTable.initial := h.elim id id
    rw [ht]
    decide⟩

theorem runsUnbroken_reset : RunsUnbroken (State.resetWith pins) :=
  ⟨fun _ _ _ _ _ h => absurd h.symm (List.append_ne_nil_of_right_ne_nil _ (List.cons_ne_nil _ _)),
    fun _ _ _ _ h => absurd h List.not_mem_nil⟩

theorem eventsStand_reset : EventsStand (State.resetWith pins) :=
  ⟨fun _ h => absurd h List.not_mem_nil, fun _ h => absurd h List.not_mem_nil, fun _ _ h => absurd h List.not_mem_nil,
    fun _ _ h => absurd h List.not_mem_nil, List.nodup_nil⟩

theorem pitchesRise_reset : PitchesRise (State.resetWith pins) := ⟨.nil, fun _ _ h => absurd h List.not_mem_nil⟩

/-- Settles O54: at reset every list is empty, and the other units stand at their first values. -/
theorem lawsHoldAtReset : Obligations.LawsHoldAtReset := by
  intro pins
  have hseqs : SeqsFit (State.resetWith pins) := ⟨.nil, fun _ h => absurd h List.not_mem_nil⟩
  have hroom : Room (State.resetWith pins) := Nat.zero_le 4
  have hids : IdsFit (State.resetWith pins) :=
    ⟨List.nodup_nil, fun _ h => absurd h List.not_mem_nil, fun _ h => absurd h (Option.some_ne_none _).symm⟩
  have howned : Owned (State.resetWith pins) := fun _ h => absurd h List.not_mem_nil
  have horders : OrdersFit (State.resetWith pins) := fun _ h => absurd h List.not_mem_nil
  have hboxes : BoxFits (State.resetWith pins) :=
    ⟨fun _ h => absurd h (Option.some_ne_none _).symm, fun _ h => absurd h List.not_mem_nil⟩
  exact ⟨refsHold_reset pins, fun k => congrArg Slot.refs (slotOf_reset pins k), hseqs, oneActive_reset pins,
    runFits_reset pins, trimFits_reset pins, fits_reset pins, heldFits_reset pins, hroom, rfl, .nil, hids,
    runsUnbroken_reset pins, tableFits_reset pins, eventsStand_reset pins, .inl rfl, sourceFits_reset pins, howned, horders,
    hboxes, pitchesRise_reset pins⟩

end Sys2Proof.LawsAtReset
end

section
/-! SUPPORT. The capacities and ranges that every step keeps (10 R169, 08 R147, 07 R114 and R133, 02 R28, 01 R12 and R18, 05
R80, 06 R102). -/

namespace Sys2Proof.Capacities

open Sys2Proof.Machine Sys2Proof.Ledger Sys2Proof.Steps Sys2Proof.Changes Sys2Proof.Taking Sys2Proof.Keeping

set_option Elab.async false

variable {s t : State}

/-! ## Changes of one unit -/

/-- A change keeps the capacities where each unit that it touches keeps its own. -/
theorem fits_of_touches {fs : List StateField} (ht : Touches fs s t)
    (notices : .notices ∈ fs → s.notices.queue.length ≤ 16 → t.notices.queue.length ≤ 16 := by exact fun k => absurd k (by decide))
    (deliv : .deliv ∈ fs → s.deliv.log.length ≤ 32 → t.deliv.log.length ≤ 32 := by exact fun k => absurd k (by decide))
    (orders : .orders ∈ fs → s.orders.list.length ≤ 16 ∧ s.orders.countdown ≤ 15 →
      t.orders.list.length ≤ 16 ∧ t.orders.countdown ≤ 15 := by exact fun k => absurd k (by decide))
    (store : .store ∈ fs → ∀ k, (recipeOf s k).cams.length ≤ 24 → (recipeOf t k).cams.length ≤ 24 := by exact fun k => absurd k (by decide))
    (pos : .pos ∈ fs → s.pos.depth ≤ 2147483647 ∧ s.pos.speed ≤ 4095 →
      t.pos.depth ≤ 2147483647 ∧ t.pos.speed ≤ 4095 := by exact fun k => absurd k (by decide))
    (app : .app ∈ fs → ∀ k : Fin 12,
      (getAt s.app.channels k).onLead ≤ 1799 ∧ (getAt s.app.channels k).offLead ≤ 1799 →
      (getAt t.app.channels k).onLead ≤ 1799 ∧ (getAt t.app.channels k).offLead ≤ 1799 := by exact fun k => absurd k (by decide))
    (insp : .insp ∈ fs → ∀ j, (inspChannel s j).losses ≤ 255 → (inspChannel t j).losses ≤ 255 := by exact fun k => absurd k (by decide))
    (h : Fits s) : Fits t := by
  obtain ⟨hnotices, hlog, hlist, hcams, hcountdown, hdepth, hspeed, hleads, hlosses⟩ := h
  have hrecipes : ∀ k, (recipeOf t k).cams.length ≤ 24 := by
    by_cases hm : .store ∈ fs
    · exact fun k => store hm k (hcams k)
    · exact fun k => by unfold recipeOf; rw [ht.store hm]; exact hcams k
  have hchannels : ∀ k : Fin 12, (getAt t.app.channels k).onLead ≤ 1799 ∧ (getAt t.app.channels k).offLead ≤ 1799 := by
    by_cases hm : .app ∈ fs
    · exact fun k => app hm k (hleads k)
    · exact fun k => by rw [ht.app hm]; exact hleads k
  have hinsp : ∀ j, (inspChannel t j).losses ≤ 255 := by
    by_cases hm : .insp ∈ fs
    · exact fun j => insp hm j (hlosses j)
    · exact fun j => by unfold inspChannel; rw [ht.insp hm]; exact hlosses j
  have hqueue : t.notices.queue.length ≤ 16 := by
    by_cases hm : .notices ∈ fs
    · exact notices hm hnotices
    · rw [ht.notices hm]; exact hnotices
  have hboxes : t.deliv.log.length ≤ 32 := by
    by_cases hm : .deliv ∈ fs
    · exact deliv hm hlog
    · rw [ht.deliv hm]; exact hlog
  have hunit : t.orders.list.length ≤ 16 ∧ t.orders.countdown ≤ 15 := by
    by_cases hm : .orders ∈ fs
    · exact orders hm ⟨hlist, hcountdown⟩
    · rw [ht.orders hm]; exact ⟨hlist, hcountdown⟩
  have hposition : t.pos.depth ≤ 2147483647 ∧ t.pos.speed ≤ 4095 := by
    by_cases hm : .pos ∈ fs
    · exact pos hm ⟨hdepth, hspeed⟩
    · rw [ht.pos hm]; exact ⟨hdepth, hspeed⟩
  exact ⟨hqueue, hboxes, hunit.1, hrecipes, hunit.2, hposition.1, hposition.2, hchannels, hinsp⟩

/-- The units that have capacities. -/
def capacityFields : List StateField := [.notices, .deliv, .orders, .store, .pos, .app, .insp]

theorem fits_of_untouched {fs : List StateField} (ht : Touches fs s t) (k : ∀ f, f ∈ capacityFields → f ∉ fs) (h : Fits s) :
    Fits t :=
  fits_of_touches ht (fun m => absurd m (k _ (by decide))) (fun m => absurd m (k _ (by decide)))
    (fun m => absurd m (k _ (by decide))) (fun m => absurd m (k _ (by decide))) (fun m => absurd m (k _ (by decide)))
    (fun m => absurd m (k _ (by decide))) (fun m => absurd m (k _ (by decide))) h

theorem length_offer_le (n : Notice) (s : State) (h : s.notices.queue.length ≤ 16) : (offer n s).notices.queue.length ≤ 16 := by
  unfold offer
  split
  · simp; omega
  · exact h

theorem fits_offer (n : Notice) (s : State) (h : Fits s) : Fits (offer n s) :=
  fits_of_touches (offer_touches n s) (notices := fun _ => length_offer_le n s) (h := h)

theorem fits_report (f : FaultKind) (s : State) (h : Fits s) : Fits (report f s) := by
  refine fits_of_touches (report_touches f s) (notices := fun _ hn => ?_) (h := h)
  have hoffered : ((offer (.fault f) (latch f s)).notices.queue).length ≤ 16 := length_offer_le _ _ hn
  unfold report
  split
  · exact hn
  · simp only
    split
    · rw [(enterHalted_touches _).notices]
      exact hoffered
    · exact hoffered

theorem fits_modifySlot (k : Fin 8) {f : Slot → Slot} (hf : ∀ x, x.recipe.cams.length ≤ 24 → (f x).recipe.cams.length ≤ 24)
    (s : State) (h : Fits s) : Fits (modifySlot k f s) := by
  refine fits_of_touches (modifySlot_touches k f s) (store := fun _ i hi => ?_) (h := h)
  rw [TrimLaw.recipeOf_modifySlot]
  split
  · exact hf _ hi
  · exact hi

theorem fits_switchTo (src : Option (Fin 8)) (s : State) (h : Fits s) : Fits (switchTo src s) := by
  refine fits_of_touches (switchTo_touches src s) (pos := fun _ hp => ?_) (h := h)
  unfold switchTo
  dsimp only
  split
  · exact hp
  · exact hp

theorem fits_modifyChannel (k : Fin 12) {f : AppChannel → AppChannel} (s : State)
    (hf : ∀ c, (f c).onLead = c.onLead ∧ (f c).offLead = c.offLead) (h : Fits s) : Fits (modifyChannel k f s) := by
  refine fits_of_touches (modifyChannel_touches k f s) (app := fun _ i hi => ?_) (h := h)
  rw [getAt_modifyChannel]
  split
  · rw [(hf _).1, (hf _).2]
    exact hi
  · exact hi

theorem fits_modifyInsp (j : Fin 8) {f : InspChannel → InspChannel} (s : State)
    (hf : ∀ c, c.losses ≤ 255 → (f c).losses ≤ 255) (h : Fits s) : Fits (modifyInsp j f s) := by
  refine fits_of_touches (modifyInsp_touches j f s) (insp := fun _ i hi => ?_) (h := h)
  rw [inspChannel_modifyInsp]
  split
  · exact hf _ hi
  · exact hi

theorem fits_logBox (b : Box) (why : CloseReason) (s : State) (h : Fits s) : Fits (logBox b why s) := by
  refine fits_of_touches (setDeliv_touches _ s) (deliv := fun _ hl => ?_) (h := h)
  show ((if s.deliv.log.length < 32 then s.deliv.log else s.deliv.log.drop 1) ++ [_]).length ≤ 32
  rw [List.length_append, List.length_singleton]
  split
  · omega
  · rw [List.length_drop]
    omega

theorem respectsPlain_fits : RespectsPlain (Keeps Fits) where
  refl _ h := h
  trans h g k := g (h k)
  offer := fits_offer
  count c s h := fits_of_touches (count_touches c s) (h := h)
  withdraw p s h := fits_of_touches (withdraw_touches p s) (pos := fun _ hp => hp) (h := h)
  unschedule e s h := fits_of_touches (setSchedule_touches _ s) (pos := fun _ hp => hp) (h := h)
  switchTo := fits_switchTo
  armWindow p s h := fits_of_touches (armWindow_touches p s) (h := h)
  closeWindow s h := fits_of_touches (closeWindow_touches s) (h := h)
  amendRecord q f s _ h := fits_of_touches (amendRecord_touches q f s) (h := h)
  modifyChannel k _ s hf h := fits_modifyChannel k s hf h
  setBlanks b s h := fits_of_touches (setBlanks_touches b s) (app := fun _ _ hk => hk) (h := h)
  modifyInsp j _ s hf h := fits_modifyInsp j s hf h
  mapOrders f s _ h := fits_of_touches (setOrders_touches _ s)
    (orders := fun _ hl => ⟨(List.length_map f).trans_le hl.1, hl.2⟩) (h := h)
  setFeed f c s h := fits_of_touches (setOrders_touches _ s) (orders := fun _ hl => hl) (h := h)
  setFeedGate b s h := fits_of_touches (setFeedGate_touches b s) (orders := fun _ hl => hl) (h := h)
  removeOrder t s h := fits_of_touches (setOrders_touches _ s)
    (orders := fun _ hl => ⟨(List.eraseP_sublist.length_le).trans hl.1, hl.2⟩) (h := h)
  refDown k s h := fits_modifySlot k (f := fun t => { t with refs := t.refs - 1 }) (fun _ hx => hx) s h
  setDeliv d s hd h := fits_of_touches (setDeliv_touches d s) (deliv := fun _ hl => by rw [hd]; exact hl) (h := h)
  logBox := fits_logBox
  report := fits_report

theorem respectsEnds_fits : RespectsEnds (Keeps Fits) where
  toRespects := respectsPlain_fits.respects (fun _ s h => fits_of_touches (setTrack_touches _ s) (h := h))
    (fun s h => fits_of_touches (drainTest_touches s) (h := h))
  schedule e s _ h := fits_of_touches (schedule_touches e s) (pos := fun _ hp => hp) (h := h)


theorem fits_createRecord (p : U32) (o : Order) (s : State) (h : Fits s) : Fits (acceptBlank p o s) :=
  fits_of_touches (acceptBlank_touches p o s)
    (orders := fun _ hl => ⟨hl.1, (Nat.sub_le _ _).trans hl.2⟩)
    (store := fun _ k hk => by
      rw [show recipeOf (acceptBlank p o s) k = recipeOf s k from Flood.recipeOf_createRecord (newRecord s p o) s k]
      exact hk)
    (pos := fun _ hp => hp) (app := fun _ _ hk => hk) (h := h)

theorem takesKeep_fits : TakesKeep Fits :=
  takesKeep respectsEnds_fits (fun n s h => fits_of_touches (setFree_touches n s) (h := h))
    (fun f s h => fits_of_touches (setDue_touches _ s) (pos := fun _ hp => hp) (h := h))
    (fun p o s _ => fits_createRecord p o s)

/-! ## Recipes written (02 R28) -/

/-- A CAM item that is parsed has an index up to the length of the list and below 24. -/
theorem index_of_parsed {len kind index i : Nat} {b : List Byte} {e : CamEntry}
    (h : parseRecipeItem len kind index b = .item (.cam i e)) : i ≤ len ∧ i < 24 := by
  have hother {x : RecipeItem} {oks : List Bool} (hx : ∀ i e, x ≠ .cam i e)
      (h : checked oks x = .item (.cam i e)) : False := hx i e (TrimLaw.checked_item h).1.symm
  unfold parseRecipeItem at h
  split at h
  · split at h
    · exact (hother (by nofun) h).elim
    · cases h
  · split at h
    · exact (hother (by nofun) h).elim
    · cases h
  · split at h
    next hc =>
      cases (TrimLaw.checked_item h).1
      exact hc
    next => cases h
  · split at h
    · exact (hother (by nofun) h).elim
    · cases h
  · split at h
    · exact (hother (by nofun) h).elim
    · cases h
  · split at h
    · exact (hother (by nofun) h).elim
    · cases h
  · cases h

theorem length_written {r : Recipe} {kind index : Nat} {b : List Byte} {x : RecipeItem}
    (hx : parseRecipeItem r.cams.length kind index b = .item x) (h : r.cams.length ≤ 24) :
    (writeRecipeItem r x).cams.length ≤ 24 := by
  cases x with
  | cam i e =>
    obtain ⟨hle, hlt⟩ := index_of_parsed hx
    show (if i < r.cams.length then r.cams.set i e else r.cams ++ [e]).length ≤ 24
    split
    · rw [List.length_set]
      exact h
    · rw [List.length_append, List.length_singleton]
      omega
  | camLength n =>
    show (r.cams.take n).length ≤ 24
    rw [List.length_take]
    omega
  | _ => exact h

theorem fits_recipeWrite (a : List Byte) (lock : Bool) (s : State) (h : Fits s) : Fits (recipeWrite a lock s).1 := by
  unfold recipeWrite
  split
  · exact h
  next k _ =>
    split
    · exact h
    · exact h
    next x hx =>
      split
      · exact h
      · split
        · exact h
        · refine fits_of_touches (modifySlot_touches _ _ s) (store := fun _ i hi => ?_) (h := h)
          rw [TrimLaw.recipeOf_modifySlot]
          split
          next hik =>
            rw [hik] at hi ⊢
            exact length_written hx hi
          next => exact hi

theorem fits_setSlotState (k : Fin 8) (x : SlotState) (s : State) (h : Fits s) : Fits (setSlotState k x s) :=
  fits_modifySlot k (f := fun t => { t with state := x }) (fun _ hx => hx) s h

theorem fits_clearContent (k : Fin 8) (s : State) (h : Fits s) : Fits (clearContent k s) :=
  fits_modifySlot k (f := fun t => { t with recipe := Recipe.initial }) (fun _ _ => Nat.zero_le _) s h

theorem fits_setMgmt (x : ManagementUnit) (s : State) (h : Fits s) : Fits { s with mgmt := x } :=
  fits_of_touches (setMgmt_touches x s) (h := h)

theorem fits_recipeEdit (a : List Byte) (lock : Bool) (s : State) (h : Fits s) : Fits (recipeEdit a lock s).1 := by
  unfold recipeEdit
  split
  · exact h
  · split
    · exact h
    · split
      · exact h
      · dsimp only
        split
        · exact fits_setSlotState _ _ _ (fits_clearContent _ s h)
        · exact h
        · split
          · exact fits_setSlotState _ _ s h
          · exact h
        · exact h
        · exact h

theorem fits_completions (s : State) (h : Fits s) : Fits (checkCompletion s) ∧ Fits (clearCompletion s) := by
  refine ⟨?_, ?_⟩
  · unfold checkCompletion completeCheck
    split
    · split
      · exact fits_offer _ _ (fits_setMgmt _ _ (fits_setSlotState _ _ s h))
      · exact fits_offer _ _ (fits_setMgmt _ _ (fits_setSlotState _ _ s h))
    · exact h
  · unfold clearCompletion completeClear
    split
    · exact fits_offer _ _ (fits_setMgmt _ _ (fits_setSlotState _ _ _ (fits_clearContent _ s h)))
    · exact h

/-! ## The other commands -/

theorem fits_setRing (x : RingPort) (s : State) (h : Fits s) : Fits { s with ring := x } :=
  fits_of_touches (setRing_touches x s) (h := h)

theorem fits_reset (pins : ResetPins) (s : State) : Fits (takeReset pins s) := LawsAtReset.fits_reset pins

theorem leadOf_le (l v : Nat) : leadOf l v ≤ 1799 := Nat.min_le_right _ _

theorem fits_computeLeads (p : Fin 12 → Bool) (s : State) (h : Fits s) : Fits (computeLeads p s) := by
  refine fits_of_touches (computeLeads_touches p s) (app := fun _ k hk => ?_) (h := h)
  rw [Passes.channel_computeLeads]
  split
  · exact ⟨leadOf_le _ _, leadOf_le _ _⟩
  · exact hk

theorem fits_applyTable (levels : BitVec 16) (s : State) (h : Fits s) : Fits (applyTable levels s) := by
  have hslots : (applyTable levels s).store.slots = s.store.slots := by
    rw [TableRules.applyTable_eq, (computeLeads_touches (fun _ => true) (TableRules.appliedUnits levels s)).store]
    rfl
  refine fits_of_touches (applyTable_touches levels s) (store := fun _ k hk => ?_) (app := fun _ k _ => ?_)
    (insp := fun _ j _ => ?_) (h := h)
  · unfold recipeOf
    rw [hslots]
    exact hk
  · rw [TableRules.applyTable_channel]
    exact ⟨leadOf_le _ _, leadOf_le _ _⟩
  · rw [TableRules.applyTable_insp]
    exact Nat.zero_le _

/-- A change of the Position Unit alone that keeps depth and V in range. -/
theorem fits_setPos (x : PositionUnit) (s : State) (hdepth : x.depth ≤ 2147483647) (hspeed : x.speed ≤ 4095) (h : Fits s) :
    Fits { s with pos := x } := fits_of_touches (setPos_touches x s) (pos := fun _ _ => ⟨hdepth, hspeed⟩) (h := h)

theorem depth_of_fits (h : Fits s) : s.pos.depth ≤ 2147483647 := by
  obtain ⟨-, -, -, -, -, hdepth, -, -, -⟩ := h
  exact hdepth

theorem speed_of_fits (h : Fits s) : s.pos.speed ≤ 4095 := by
  obtain ⟨-, -, -, -, -, -, hspeed, -, -⟩ := h
  exact hspeed

theorem fits_encoderMove (pair : PhasePair) (s : State) (h : Fits s) : Fits (encoderMove pair s) := by
  have hdepth := (depth_of_fits h)
  have hspeed := (speed_of_fits h)
  have ht : Fits { s with pos := { s.pos with phases := pair } } := fits_setPos _ s hdepth hspeed h
  unfold encoderMove
  split
  · exact h
  · dsimp only
    split
    · unfold forwardStep
      split
      · exact fits_setPos _ s ((Nat.sub_le _ 1).trans hdepth) hspeed h
      · exact fits_setPos _ s hdepth hspeed h
    · split
      · unfold reverseStep
        split
        · exact fits_report _ _ ht
        next hlt =>
          have hrise : Fits { s with pos := { s.pos with phases := pair, depth := s.pos.depth + 1 } } :=
            fits_setPos _ s (show s.pos.depth + 1 ≤ 2147483647 by dsimp only at hlt; omega) hspeed h
          dsimp only
          split
          · exact fits_report _ _ hrise
          · exact hrise
      · exact fits_report _ _ ht

theorem fits_positionSet (a : List Byte) (s : State) (h : Fits s) : Fits (positionSet a s).1 := by
  unfold positionSet
  dsimp only
  split
  · exact h
  · split
    · exact h
    · have hsettled := takesKeep_fits.settle h
      have hplaced : Fits (placeAt (u16 a 0) (settle s)) := fits_setPos _ _ (Nat.zero_le _) (speed_of_fits hsettled) hsettled
      generalize placeAt (u16 a 0) (settle s) = v at *
      rw [LinePosition.fireEnds_eq]
      exact fits_of_touches (s := { v with pos := _ }) (setDeliv_touches _ _) (deliv := fun _ hl => hl)
        (h := fits_setPos _ v (depth_of_fits hplaced) (speed_of_fits hplaced) hplaced)

theorem fits_clearFault (z : Int) (f : FaultKind) (s : State) (h : Fits s) : Fits (clearFault z s f) := by
  have hcleared : Fits (unlatch f s) := fits_of_touches (unlatch_touches f s) (h := h)
  unfold clearFault
  split
  · cases f with
    | reverse => exact fits_setPos _ _ (Nat.zero_le _) (speed_of_fits hcleared) hcleared
    | tracking =>
      refine fits_of_touches (t := clearLosses (unlatch .tracking s)) (clearLosses_touches _) (insp := fun _ j hj => ?_)
        (h := hcleared)
      rw [Passes.inspChannel_clearLosses]
      split
      · exact Nat.zero_le _
      · exact hj
    | _ => exact hcleared
  · exact h

theorem fits_clearStatus (z : Int) (s : State) (h : Fits s) : Fits (clearStatus z s).1 := by
  have hall (fs : List FaultKind) : ∀ v, Fits v → Fits (fs.foldl (clearFault z) v) := by
    induction fs with
    | nil => exact fun _ hv => hv
    | cons f fs ih => exact fun v hv => ih _ (fits_clearFault z f v hv)
  exact hall allFaults s h

theorem fits_inspEdge (l : Fin 16) (level : Bool) (s : State) (h : Fits s) : Fits (inspEdge l level s) := by
  refine fits_of_touches (inspEdge_touches l level s) (insp := fun _ j hj => ?_) (h := h)
  rw [Passes.inspChannel_inspEdge]
  split
  · unfold channelEdge
    split <;> exact hj
  · exact hj

theorem fits_edgeAt (l : Fin 16) (level : Bool) (s : State) (h : Fits s) : Fits (edgeAt l level s) := by
  have hset : Fits (setLevel l level s) := fits_of_touches (setLevel_touches l level s) (h := h)
  have htake (v : State) (hv : Fits v) : Fits (takeEdge l level v) := by
    unfold takeEdge
    split
    · exact respectsEnds_fits.take v hv
    · exact hv
  unfold edgeAt
  split
  · exact h
  · split
    · exact h
    · refine htake _ (fits_inspEdge l level _ ?_)
      split
      · exact fits_of_touches (markEdge_touches l _) (h := hset)
      · exact hset

theorem length_of_accepted {o : Order} (h : queueRefusal s o = none) : s.orders.list.length < 16 := by
  unfold queueRefusal at h
  split at h
  · cases h
  · split at h
    · cases h
    next hlen => omega

theorem fits_orderQueue (a : List Byte) (s : State) (h : Fits s) : Fits (orderQueue a s).1 := by
  unfold orderQueue
  split
  · exact h
  · split
    · exact h
    next hnone =>
      have hlen := length_of_accepted hnone
      refine respects_enqueue (R := Keeps Fits) respectsEnds_fits.toRespectsPlain (newOrder s a) s (fun h => ?_) h
      have hjoined : Fits (joinList (newOrder s a) s) := by
        refine fits_of_touches (setOrders_touches _ s) (orders := fun _ hl => ⟨?_, hl.2⟩) (h := h)
        show (s.orders.list ++ [newOrder s a]).length ≤ 16
        rw [List.length_append, List.length_singleton]
        omega
      exact fits_modifySlot _ (f := fun x => { x with refs := x.refs + 1 }) (fun _ hx => hx) _ hjoined

theorem fits_effect (c : Instr) (s : State) (hc : isStation c = false) (h : Fits s) : Fits (effect c s) := by
  have K := takesKeep_fits
  have E := respectsEnds_fits
  cases c <;> try cases hc
  case positionSet a => exact fits_positionSet a s h
  case machineTableWrite a lock =>
    show Fits (machineTableWrite a lock s).1
    unfold machineTableWrite
    split
    · exact h
    · exact h
    · split
      · exact h
      · exact fits_of_touches (setStore_touches _ s) (store := fun _ _ hk => hk) (h := h)
  case machineTableApply a lock levels =>
    exact keeps_machineTableApply (P := Fits) K
      (fits_of_touches (setStore_touches _ s) (store := fun _ _ hk => hk) (h := h))
      (fun levels v _ => fits_applyTable levels v) lock levels h
  case recipeEdit a lock => exact fits_recipeEdit a lock s h
  case recipeWrite a lock => exact fits_recipeWrite a lock s h
  case recipeCheck a =>
    show Fits (recipeCheck a s).1
    unfold recipeCheck
    split
    · exact h
    · split
      · exact h
      · exact fits_setMgmt _ _ (fits_setSlotState _ _ s h)
  case recipeClear a lock =>
    show Fits (recipeClear a lock s).1
    unfold recipeClear
    split
    · exact h
    · split
      · exact h
      · split
        · exact h
        · split
          · exact h
          · exact fits_setMgmt _ _ (fits_setSlotState _ _ s h)
  case checkCompletion => exact (fits_completions s h).1
  case clearCompletion => exact (fits_completions s h).2
  case channelResultRead a =>
    show Fits (channelResultRead a s).1
    unfold channelResultRead
    split
    · exact fits_modifyInsp _ s (fun _ hc => hc) h
    · exact h
  case orderQueue a => exact fits_orderQueue a s h
  case orderAbort a => exact E.orderAbort a s h
  case orderResume a => exact E.orderResume s h
  case feedHold a => exact fits_of_touches (setOrders_touches _ s) (orders := fun _ hl => hl) (h := h)
  case feedRelease a => exact fits_of_touches (setOrders_touches _ s) (orders := fun _ hl => hl) (h := h)
  case pullSample a =>
    show Fits (pullSample a s).1
    unfold pullSample
    split
    next hn =>
      simp only [within, Bool.and_eq_true, decide_eq_true_eq] at hn
      exact fits_of_touches (setOrders_touches _ s) (orders := fun _ hl => ⟨hl.1, hn.2⟩) (h := h)
    next => exact h
  case closeBox a => exact E.toPulse.closeBox s h
  case linePurge a => exact E.linePurge s h
  case clearStatus a z => exact fits_clearStatus z s h
  case fullReset pins => exact keeps_fullReset fits_reset pins h
  case powerOnReset pins => exact fits_reset pins s
  case noticeRead a =>
    refine fits_of_touches (setNotices_touches _ s) (notices := fun _ hn => ?_) (h := h)
    exact ((List.drop_sublist 2 _).length_le).trans hn
  case frameArrival f =>
    exact keeps_frameArrival fits_setRing fits_reset fits_report (fun n v => E.takes n v)
      (fun g v hv => fits_of_touches (passFrame_touches g v) (h := hv)) f h
  case watchdogExpiry =>
    show Fits (watchdogExpiry s)
    unfold watchdogExpiry
    split
    · refine fits_report _ _ (fits_setRing _ _ ?_)
      unfold timeAtLeast
      split
      · exact fits_setPos _ s (depth_of_fits h) (speed_of_fits h) h
      · exact h
    · exact h
  case encoderStep pair => exact fits_encoderMove pair _ (K.settle h)
  case speedWindowEnd =>
    refine respects_endWindow E s (fun h => ?_) fits_computeLeads
      (fun v h => fits_of_touches (moveEvents_touches v) (pos := fun _ hp => hp) (h := h)) h
    rw [SpeedRules.windowEnded_eq]
    exact fits_setPos _ s (depth_of_fits h) (Nat.min_le_right _ _) h
  case edgeEvent l level => exact fits_edgeAt l level s h
  case gumPressureLow z => exact keeps_gumPressure fits_report z h
  all_goals exact fits_of_untouched (effect_touches _ s) (by simp [effectFields, capacityFields]) h

/-- Every step keeps the capacities and ranges. -/
theorem step_fits (h : Fits s) (hstep : step s = .next t) : Fits t :=
  StepKeeps.step (P := Fits)
    { takes := takesKeep_fits
      weaken := fun _ h => h
      queue := fun q s h => fits_of_touches (setQueue_touches q s) (h := h)
      reply := fun place r s h => fits_of_touches (giveReply_touches place r s) (h := h)
      effect := fun c s hc _ => fits_effect c s hc
      microsecond := fun s h => fits_setPos _ s (depth_of_fits h) (speed_of_fits h) h
      completions := fun s h => (fits_completions _ (fits_completions s h).1).2 } h hstep

end Sys2Proof.Capacities
end

section
/-! SUPPORT. Held states: none outside HALTED, and one for every CHANNEL and MANUAL line in it (01 R6). -/

namespace Sys2Proof.HeldStates

open Sys2Proof.Machine Sys2Proof.Ledger Sys2Proof.Steps Sys2Proof.Changes Sys2Proof.Taking Sys2Proof.Keeping

set_option Elab.async false

variable {s t : State}

/-- A line that has a held state wherever it must have one, and none outside HALTED. -/
def HeldRight (run : RunState) (o : OutLine) : Prop :=
  (run ≠ .halted → o.held = none) ∧ (run = .halted → followsSafeMode o.function = true → o.held ≠ none)

theorem followsSafeMode_iff (f : OutFunction) : followsSafeMode f = true ↔ f = .manual ∨ ∃ k, f = .channel k := by
  cases f with
  | channel k => exact iff_of_true rfl (.inr ⟨k, rfl⟩)
  | manual => exact iff_of_true rfl (.inl rfl)
  | _ => exact iff_of_false (by decide) (by rintro (h | ⟨_, h⟩) <;> cases h)

theorem heldFits_iff : HeldFits s ↔ ∀ i, HeldRight s.line.run (getAt s.lines.outs i) := by
  constructor
  · rintro ⟨hfree, hheld⟩ i
    exact ⟨fun hr => hfree hr i, fun hr hf => hheld hr i ((followsSafeMode_iff _).mp hf)⟩
  · intro h
    exact ⟨fun hr i => (h i).1 hr, fun hr i hf => (h i).2 hr ((followsSafeMode_iff _).mpr hf)⟩

/-- The law reads the run state, and of each line its function and held state. -/
theorem heldFits_of_eq (hrun : t.line.run = s.line.run)
    (houts : ∀ i, (getAt t.lines.outs i).function = (getAt s.lines.outs i).function ∧
      (getAt t.lines.outs i).held = (getAt s.lines.outs i).held) (h : HeldFits s) : HeldFits t := by
  rw [heldFits_iff] at h ⊢
  intro i
  obtain ⟨hfree, hheld⟩ := h i
  obtain ⟨hf, hh⟩ := houts i
  exact ⟨fun hr => hh.trans (hfree (hrun ▸ hr)), fun hr k => by rw [hh]; exact hheld (hrun ▸ hr) (hf ▸ k)⟩

theorem heldFits_of_touches {fs : List StateField} (ht : Touches fs s t) (kl : .line ∉ fs := by decide)
    (ko : .lines ∉ fs := by decide) (h : HeldFits s) : HeldFits t :=
  heldFits_of_eq (by rw [ht.line kl]) (fun i => by rw [ht.lines ko]; exact ⟨rfl, rfl⟩) h

/-- Outside HALTED, before and after, held states stay absent. -/
theorem heldFits_free (hs : s.line.run ≠ .halted) (ht : t.line.run ≠ .halted)
    (houts : ∀ i, (getAt t.lines.outs i).held = (getAt s.lines.outs i).held) (h : HeldFits s) : HeldFits t := by
  rw [heldFits_iff] at h ⊢
  exact fun i => ⟨fun _ => (houts i).trans ((h i).1 hs), fun hr => absurd hr ht⟩

theorem heldFits_enterHalted (s : State) : HeldFits (enterHalted s) := by
  rw [heldFits_iff]
  intro i
  rw [LineRules.enterHalted_outs]
  refine ⟨fun hr => absurd rfl hr, fun _ hf => ?_⟩
  dsimp only at hf ⊢
  rw [if_pos hf]
  exact Option.some_ne_none _

theorem heldFits_leaveHalted {r : RunState} (hr : r ≠ .halted) (s : State) : HeldFits (leaveHalted r s) := by
  rw [heldFits_iff]
  intro i
  have hout : getAt (leaveHalted r s).lines.outs i = { getAt s.lines.outs i with held := none } :=
    setHeld_outs (fun _ => none) s i
  rw [hout]
  exact ⟨fun _ => rfl, fun h => absurd h hr⟩

theorem heldFits_report (f : FaultKind) (s : State) (h : HeldFits s) : HeldFits (report f s) := by
  unfold report
  split
  · exact h
  · dsimp only
    split
    · exact heldFits_enterHalted _
    · have hoffer := offer_touches (.fault f) (latch f s)
      exact heldFits_of_eq (by rw [hoffer.line]; rfl) (fun i => by rw [hoffer.lines]; exact ⟨rfl, rfl⟩) h

theorem heldFits_drainTest (s : State) (h : HeldFits s) : HeldFits (drainTest s) := by
  unfold drainTest
  split
  next hd => exact heldFits_free (s := s) (by rw [hd.2]; decide) RunState.noConfusion (fun _ => rfl) h
  next => exact h

theorem respectsPlain_held : RespectsPlain (Keeps HeldFits) where
  refl _ h := h
  trans h g k := g (h k)
  offer n s := heldFits_of_touches (offer_touches n s)
  count c s := heldFits_of_touches (count_touches c s)
  withdraw p s := heldFits_of_touches (withdraw_touches p s)
  unschedule e s := heldFits_of_touches (setSchedule_touches _ s)
  switchTo src s := heldFits_of_touches (switchTo_touches src s)
  armWindow p s := heldFits_of_touches (armWindow_touches p s)
  closeWindow s := heldFits_of_touches (closeWindow_touches s)
  amendRecord q f s _ := heldFits_of_touches (amendRecord_touches q f s)
  modifyChannel k f s _ := heldFits_of_touches (modifyChannel_touches k f s)
  setBlanks b s := heldFits_of_touches (setBlanks_touches b s)
  modifyInsp j f s _ := heldFits_of_touches (modifyInsp_touches j f s)
  mapOrders f s _ := heldFits_of_touches (setOrders_touches _ s)
  setFeed f c s := heldFits_of_touches (setOrders_touches _ s)
  setFeedGate b s := heldFits_of_touches (setFeedGate_touches b s)
  removeOrder t s := heldFits_of_touches (setOrders_touches _ s)
  refDown k s := heldFits_of_touches (refDown_touches k s)
  setDeliv d s _ := heldFits_of_touches (setDeliv_touches d s)
  logBox b why s := heldFits_of_touches (setDeliv_touches _ s)
  report := heldFits_report

theorem respectsEnds_held : RespectsEnds (Keeps HeldFits) where
  toRespects := respectsPlain_held.respects (fun _ s => heldFits_of_touches (setTrack_touches _ s)) heldFits_drainTest
  schedule e s _ := heldFits_of_touches (schedule_touches e s)

theorem takesKeep_held : TakesKeep HeldFits :=
  takesKeep respectsEnds_held (fun n s => heldFits_of_touches (setFree_touches n s))
    (fun _ s => heldFits_of_touches (setDue_touches _ s)) (fun p o s _ => heldFits_of_touches (acceptBlank_touches p o s))

theorem heldFits_setPos (x : PositionUnit) (s : State) : HeldFits s → HeldFits { s with pos := x } :=
  heldFits_of_touches (setPos_touches x s)

theorem heldFits_setRing (x : RingPort) (s : State) : HeldFits s → HeldFits { s with ring := x } :=
  heldFits_of_touches (setRing_touches x s)

theorem heldFits_reset (pins : ResetPins) (s : State) : HeldFits (takeReset pins s) := LawsAtReset.heldFits_reset pins

/-- An apply comes in IDLE, and gives no line a held state. -/
theorem heldFits_applyTable (levels : BitVec 16) (s : State) (hidle : s.line.run = .idle) (h : HeldFits s) :
    HeldFits (applyTable levels s) := by
  have hrun : (applyTable levels s).line.run = .idle := by rw [(applyTable_touches levels s).line]; exact hidle
  refine heldFits_free (by rw [hidle]; decide) (by rw [hrun]; decide) (fun i => ?_) h
  rw [TableRules.applyTable_lines, TableRules.outs_applyLines]
  rfl

theorem heldFits_lineDrain (s : State) (h : HeldFits s) : HeldFits (lineDrain s).1 := by
  have htarget : drainTarget s ≠ .halted := by
    unfold drainTarget
    split <;> decide
  unfold lineDrain
  split
  · exact h
  · exact h
  next hr => exact heldFits_free (s := s) (t := setRun (drainTarget s) s) (by rw [hr]; decide) htarget (fun _ => rfl) h
  next =>
    split
    · exact h
    · exact heldFits_leaveHalted htarget s

theorem edgeAt_outs (l : Fin 16) (level : Bool) (s : State) : (edgeAt l level s).lines.outs = s.lines.outs := by
  by_cases hmode : s.lines.modes.getLsbD l.val = false
  · by_cases hlevel : s.lines.levels.getLsbD l.val = level
    · unfold edgeAt
      rw [if_pos hlevel, ite_self]
    · rw [EdgeRules.edgeAt_changes hmode hlevel, (takeEdge_touches l level _).lines, (inspEdge_touches l level _).lines,
        EdgeRules.markTaken_lines]
      rfl
  · unfold edgeAt
    rw [if_pos (by simpa using hmode)]

theorem heldFits_effect (c : Instr) (s : State) (hc : isStation c = false) (h : HeldFits s) : HeldFits (effect c s) := by
  have K := takesKeep_held
  have E := respectsEnds_held
  cases c <;> try cases hc
  case positionSet a =>
    exact keeps_positionSet K heldFits_setPos (fun v => heldFits_of_touches (fireEnds_touches v)) a h
  case outputSet a =>
    refine heldFits_of_eq (s := s) (t := effect (.outputSet a) s) rfl (fun i => ?_) h
    have hout := LinePosition.outs_writeManual (BitVec.ofNat 16 (u16 a 0)) (BitVec.ofNat 16 (u16 a 2)) s i
    exact ⟨(congrArg OutLine.function hout :), (congrArg OutLine.held hout :)⟩
  case machineTableApply a lock levels =>
    exact keeps_machineTableApply (P := HeldFits) K (heldFits_of_touches (setStore_touches _ s) (h := h))
      (fun levels v hidle => heldFits_applyTable levels v hidle) lock levels h
  case orderAbort a => exact E.orderAbort a s h
  case lineStart a =>
    show HeldFits (lineStart s).1
    unfold lineStart
    split
    · exact h
    next hcan =>
      split
      · exact h
      · split
        · exact h
        · refine heldFits_free (s := s) (t := setRun .running s) (fun hr => hcan (by rw [hr]; rfl)) RunState.noConfusion (fun _ => rfl) h
  case lineDrain a => exact heldFits_lineDrain s h
  case lineResume a =>
    show HeldFits (lineResume s).1
    unfold lineResume
    split
    · exact heldFits_leaveHalted (by decide) s
    · exact h
  case linePurge a => exact E.linePurge s h
  case clearStatus a z =>
    have hlines : (clearStatus z s).1.lines = s.lines := (clearStatus_touches z s).lines
    exact heldFits_of_eq (RunLaw.clearStatus_run z s) (fun i => by
      rw [show effect (.clearStatus a z) s = (clearStatus z s).1 from rfl, hlines]
      exact ⟨rfl, rfl⟩) h
  case resetFull a => exact heldFits_of_eq rfl (fun _ => ⟨rfl, rfl⟩) h
  case fullReset pins => exact keeps_fullReset heldFits_reset pins h
  case powerOnReset pins => exact heldFits_reset pins s
  case frameArrival f =>
    exact keeps_frameArrival heldFits_setRing heldFits_reset heldFits_report
      (fun n v => heldFits_of_touches (takes_touches n v))
      (fun g v => heldFits_of_eq (passFrame_run g v) (fun i => by rw [(passFrame_touches g v).lines]; exact ⟨rfl, rfl⟩)) f h
  case watchdogExpiry => exact keeps_watchdogExpiry heldFits_setPos heldFits_setRing heldFits_report h
  case encoderStep pair => exact keeps_encoderMove heldFits_setPos heldFits_report pair (K.settle h)
  case speedWindowEnd =>
    exact respects_endWindow E s (heldFits_of_touches (windowEnded_touches s))
      (fun p v => heldFits_of_touches (computeLeads_touches p v)) (fun v => heldFits_of_touches (moveEvents_touches v)) h
  case edgeEvent l level =>
    have houts := edgeAt_outs l level s
    exact heldFits_of_eq (t := edgeAt l level s) (by rw [(edgeAt_touches l level s).line])
      (fun i => by rw [houts]; exact ⟨rfl, rfl⟩) h
  case gumPressureLow z => exact keeps_gumPressure heldFits_report z h
  all_goals exact heldFits_of_touches (effect_touches _ s) (by simp [effectFields]) (by simp [effectFields]) h

/-- Every step keeps held states to HALTED alone, where every CHANNEL and MANUAL line has one. -/
theorem step_heldFits (h : HeldFits s) (hstep : step s = .next t) : HeldFits t :=
  StepKeeps.step (P := HeldFits)
    { takes := takesKeep_held
      weaken := fun _ h => h
      queue := fun q s => heldFits_of_touches (setQueue_touches q s)
      reply := fun place r s => heldFits_of_eq (giveReply_run place r s).1
        (fun i => by rw [(giveReply_touches place r s).lines]; exact ⟨rfl, rfl⟩)
      effect := fun c s hc _ => heldFits_effect c s hc
      microsecond := fun s => heldFits_setPos _ s
      completions := fun s h => heldFits_of_touches (clearCompletion_touches _)
        (h := heldFits_of_touches (checkCompletion_touches s) (h := h)) } h hstep

end Sys2Proof.HeldStates
end

section
/-! SUPPORT. The outfeed over a step: which events leave it, and the open box below its B (08 R141, R142). -/

namespace Sys2Proof.Outfeed

open Sys2Proof.Machine Sys2Proof.Ledger Sys2Proof.Steps Sys2Proof.Changes Sys2Proof.Taking Sys2Proof.Keeping

set_option Elab.async false

variable {s t u : State}

/-! ## Events that leave the outfeed -/

/-- The open box stays, and no more boxes wait or are to be closed than before. -/
structure Eases (s t : State) : Prop where
  box : t.deliv.openBox = s.deliv.openBox
  load : t.deliv.waiting + t.deliv.committedCloses ≤ s.deliv.waiting + s.deliv.committedCloses

theorem Eases.refl (s : State) : Eases s s := ⟨rfl, Nat.le_refl _⟩

theorem Eases.trans (h : Eases s t) (g : Eases t u) : Eases s u := ⟨g.box.trans h.box, g.load.trans h.load⟩

theorem eases_of_deliv (h : t.deliv = s.deliv) : Eases s t := ⟨by rw [h], by rw [h]⟩

theorem eases_of_touches {fs : List StateField} (h : Touches fs s t) (k : .deliv ∉ fs := by decide) : Eases s t :=
  eases_of_deliv (h.deliv k)

theorem divertBlank_touches (s : State) : Touches [.counters, .orders] s (divertBlank s) :=
  (count_touches _ s).andThen (setFeedGate_touches _ _) (by decide) (by decide)

theorem feedAt_deliv (p : U32) (s : State) : (feedAt p s).deliv = s.deliv := by
  have h : (handOverTest (count .cutTotal s)).deliv = s.deliv :=
    (handOverTest_touches _).deliv.trans (count_touches _ s).deliv
  unfold feedAt
  dsimp only
  split
  · exact (acceptBlank_touches p _ _).deliv.trans h
  · exact (divertBlank_touches _).deliv.trans h

theorem watchEndAt_deliv (j : Fin 8) (p : U32) (s : State) : (watchEndAt j p s).deliv = s.deliv := by
  have hend : (endWatch j s).deliv = s.deliv := (modifyInsp_touches j _ s).deliv
  unfold watchEndAt
  split
  · split
    · rfl
    · dsimp only
      split
      · exact hend
      · split
        · exact hend
        · exact (WrongOneLost.watchLost_deliv j _ _).trans hend
        · unfold watchUnexpected
          exact (report_touches _ _).deliv.trans ((makeResult_touches j _ _).deliv.trans hend)
        · exact hend
  · rfl

theorem fireRecurring_deliv (e : Recurring) (x : Pos) (s : State) : (fireRecurring e x s).deliv = s.deliv := by
  cases e with
  | feed => exact feedAt_deliv _ s
  | captureArm => exact (armWindow_touches _ s).deliv
  | windowClose => exact (closeWindow_touches s).deliv
  | watchOpen j => exact (watchOpenAt_touches j _ s).deliv
  | watchEnd j => exact watchEndAt_deliv j _ s

theorem eases_gateReject (r : Record) (c : Counter) (x : Pos) (s : State) : Eases s (gateReject r c x s) := by
  have h := Leaving.gateReject_deliv r c x s
  rw [(removeRecord_touches r _ s).deliv] at h
  exact ⟨by rw [h], by rw [h]⟩

/-- A gate event leaves the outfeed, or passes a blank for which there is room. -/
theorem gateAt_outfeed (q : U32) (x : Pos) (s : State) : Eases s (gateAt q x s) ∨
    ((gateAt q x s).deliv.openBox = s.deliv.openBox ∧
      (gateAt q x s).deliv.waiting + (gateAt q x s).deliv.committedCloses ≤ 4) := by
  unfold gateAt
  split
  · exact .inl (.refl s)
  next r _ =>
    split
    · exact .inl (.refl s)
    next o _ =>
      split
      · exact .inl (eases_gateReject r _ x s)
      next hpass =>
        have hroom : hasRoom s o = true := by
          unfold gateCause at hpass
          split at hpass
          · cases hpass
          · split at hpass
            · cases hpass
            · split at hpass
              · assumption
              · cases hpass
        have hdeliv : (gatePass r o s).deliv = _ := (earlyTest_touches o.tag _).deliv.trans (GateRules.committing_deliv r o s)
        rw [hdeliv]
        refine .inr ⟨rfl, ?_⟩
        rw [hasRoom, decide_eq_true_eq] at hroom
        dsimp only
        omega

/-- Of the scheduled events only gates and deliveries reach the outfeed. -/
theorem firePending_outfeed (e : Pending) (z : Int) (s : State) (hg : ∀ q, e.event ≠ .gate q)
    (hd : ∀ q, e.event ≠ .delivery q) : Eases s (firePending e z s) := by
  unfold firePending
  split
  · exact eases_of_touches (judgeOn_touches _ _ _ _ s)
  · exact eases_of_touches (judgeOff_touches _ _ _ _ s)
  · exact eases_of_touches (openMeasurement_touches _ _ _ s)
  · exact eases_of_touches (endMeasurement_touches _ _ s)
  · exact eases_of_touches (sampleMeasurement_touches _ _ _ s)
  next q he => exact absurd he (hg q)
  next q he => exact absurd he (hd q)
  · exact ⟨rfl, Nat.le_refl _⟩
  · exact ⟨rfl, Nat.le_refl _⟩

theorem eases_fireEnds (s : State) : Eases s (fireEnds s) := by
  rw [LinePosition.fireEnds_eq]
  exact ⟨rfl, Nat.le_refl _⟩

/-! ## Orders' box quantities (07 R115) -/

/-- Every order's B is at least 1. -/
def OrdersFilled (s : State) : Prop := ∀ o, o ∈ s.orders.list → 1 ≤ o.boxQuantity

theorem ordersFilled_of_touches {fs : List StateField} (ht : Touches fs s t) (k : .orders ∉ fs := by decide)
    (h : OrdersFilled s) : OrdersFilled t := by
  unfold OrdersFilled
  rw [ht.orders k]
  exact h

theorem respectsPlain_filled : RespectsPlain (Keeps OrdersFilled) where
  refl _ h := h
  trans h g k := g (h k)
  offer n s := ordersFilled_of_touches (offer_touches n s)
  count c s := ordersFilled_of_touches (count_touches c s)
  withdraw p s := ordersFilled_of_touches (withdraw_touches p s)
  unschedule e s := ordersFilled_of_touches (setSchedule_touches _ s)
  switchTo src s := ordersFilled_of_touches (switchTo_touches src s)
  armWindow p s := ordersFilled_of_touches (armWindow_touches p s)
  closeWindow s := ordersFilled_of_touches (closeWindow_touches s)
  amendRecord q f s _ := ordersFilled_of_touches (amendRecord_touches q f s)
  modifyChannel k f s _ := ordersFilled_of_touches (modifyChannel_touches k f s)
  setBlanks b s := ordersFilled_of_touches (setBlanks_touches b s)
  modifyInsp j f s _ := ordersFilled_of_touches (modifyInsp_touches j f s)
  mapOrders f s hf h o ho := by
    obtain ⟨x, hx, rfl⟩ := List.mem_map.mp ho
    have hsame : (f x).boxQuantity = x.boxQuantity := (congrArg Order.boxQuantity (hf x) :)
    rw [hsame]
    exact h x hx
  setFeed _ _ _ h := h
  setFeedGate _ _ h := h
  removeOrder _ _ h o ho := h o (List.mem_of_mem_eraseP ho)
  refDown k s := ordersFilled_of_touches (refDown_touches k s)
  setDeliv d s _ := ordersFilled_of_touches (setDeliv_touches d s)
  logBox b why s := ordersFilled_of_touches (setDeliv_touches _ s)
  report f s := ordersFilled_of_touches (report_touches f s)

theorem respectsEnds_filled : RespectsEnds (Keeps OrdersFilled) where
  toRespects := respectsPlain_filled.respects (fun _ s => ordersFilled_of_touches (setTrack_touches _ s))
    (fun s => ordersFilled_of_touches (drainTest_touches s))
  schedule e s _ := ordersFilled_of_touches (schedule_touches e s)

theorem takesKeep_filled : TakesKeep OrdersFilled :=
  takesKeep respectsEnds_filled (fun n s => ordersFilled_of_touches (setFree_touches n s))
    (fun _ s => ordersFilled_of_touches (setDue_touches _ s)) (fun _ _ _ _ h => h)

/-! ## The open box below its B (08 R142) -/

theorem boxFits_of_same (hs : Eases s t) (ho : OrdersFilled s → OrdersFilled t) (h : BoxFits s) : BoxFits t := by
  obtain ⟨hbox, hfilled⟩ := h
  exact ⟨by rw [hs.box]; exact hbox, ho hfilled⟩

theorem boxFits_of_touches {fs : List StateField} (ht : Touches fs s t) (kd : .deliv ∉ fs := by decide)
    (ko : .orders ∉ fs := by decide) (h : BoxFits s) : BoxFits t :=
  boxFits_of_same (eases_of_touches ht kd) (ordersFilled_of_touches ht ko) h

/-- The box that a blank enters holds at most B, since it held less before. -/
theorem filledBox_le {o : Order} (ho : 1 ≤ o.boxQuantity) (h : ∀ b, s.deliv.openBox = some b → b.count < b.boxQuantity) :
    (DeliveryRules.filledBox o s).count ≤ (DeliveryRules.filledBox o s).boxQuantity := by
  unfold DeliveryRules.filledBox
  split
  next b hb =>
    split
    · exact h b hb
    · exact ho
  · exact ho

/-- A delivery closes the box that comes to hold B, and leaves one below it open. -/
theorem filled_below {o : Order} (ho : 1 ≤ o.boxQuantity) (h : ∀ b, s.deliv.openBox = some b → b.count < b.boxQuantity) :
    ∀ b, (DeliveryRules.filled o s).deliv.openBox = some b → b.count < b.boxQuantity := by
  intro b hb
  have hdeliv := DeliveryRules.delivered_deliv ((DeliveryRules.oldBox o s).map (fun b => (b, .orderChange)))
    ((DeliveryRules.closeWhy o (DeliveryRules.filledBox o s)).map (fun w => (DeliveryRules.filledBox o s, w))) o
    (DeliveryRules.filledBox o s) s
  rw [show DeliveryRules.filled o s = DeliveryRules.delivered _ _ o (DeliveryRules.filledBox o s) s from rfl, hdeliv] at hb
  cases hwhy : DeliveryRules.closeWhy o (DeliveryRules.filledBox o s) with
  | some w =>
    rw [hwhy] at hb
    cases hb
  | none =>
    rw [hwhy] at hb
    cases hb
    have hle := filledBox_le ho h
    have hne : (DeliveryRules.filledBox o s).count ≠ (DeliveryRules.filledBox o s).boxQuantity := by
      intro heq
      rw [DeliveryRules.closeWhy, if_pos heq] at hwhy
      split at hwhy <;> cases hwhy
    omega

theorem boxFits_deliverAt (q : U32) (s : State) (h : BoxFits s) : BoxFits (deliverAt q s) := by
  have hfilled : OrdersFilled (deliverAt q s) := respectsEnds_filled.toPulse.deliverAt q s h.2
  refine ⟨?_, hfilled⟩
  cases hr : findRecord s q with
  | none =>
    unfold deliverAt
    rw [hr]
    exact h.1
  | some r =>
    cases ho : findOrder s r.tag with
    | none =>
      unfold deliverAt
      rw [hr]
      dsimp only
      rw [ho]
      exact h.1
    | some o =>
      rw [DeliveryRules.deliverAt_found hr ho, (removeRecord_touches r _ _).deliv]
      exact filled_below (h.2 o (List.mem_of_find?_eq_some ho)) h.1

theorem boxFits_firePending (e : Pending) (z : Int) (s : State) (h : BoxFits s) : BoxFits (firePending e z s) := by
  have hfilled : OrdersFilled (firePending e z s) := respectsEnds_filled.firePending e z s h.2
  have hfire : ∀ x, e.event = x → firePending e z s = firePending { e with event := x } z s := by
    rintro x rfl
    rfl
  cases he : e.event with
  | gate q =>
    have hbox : (firePending e z s).deliv.openBox = s.deliv.openBox := by
      rw [hfire _ he]
      rcases gateAt_outfeed q e.pos s with hsame | ⟨hbox, -⟩
      · exact hsame.box
      · exact hbox
    exact ⟨by rw [hbox]; exact h.1, hfilled⟩
  | delivery q =>
    rw [hfire _ he]
    exact boxFits_deliverAt q s h
  | _ => exact boxFits_of_same (firePending_outfeed e z s (by simp [he]) (by simp [he])) (fun _ => hfilled) h

theorem takesKeep_boxFits : TakesKeep BoxFits where
  free n s := boxFits_of_touches (setFree_touches n s)
  recurring f s hf h := boxFits_of_same (eases_of_deliv (fireRecurring_deliv _ _ _))
    (fun _ => takesKeep_filled.recurring f s hf h.2) h
  scheduled p z s _ _ h := boxFits_firePending p z _ (boxFits_of_touches (setSchedule_touches _ s) (h := h))

/-! ## Takes and requests -/

theorem eases_of_waiting {n : Nat} (h : t.deliv = { s.deliv with waiting := n }) (hn : n ≤ s.deliv.waiting) : Eases s t :=
  ⟨by rw [h], by rw [h]; exact Nat.add_le_add_right hn _⟩

theorem eases_take (s : State) : Eases s (take s) := eases_of_waiting (EdgeRules.take_deliv s) (Nat.sub_le _ _)

theorem eases_takes : ∀ (n : Nat) (s : State), Eases s (takes n s)
  | 0, s => .refl s
  | n + 1, s => (eases_take s).trans (eases_takes n (take s))

theorem eases_edgeAt (l : Fin 16) (level : Bool) (s : State) : Eases s (edgeAt l level s) := by
  by_cases hmode : s.lines.modes.getLsbD l.val = false
  · by_cases hlevel : s.lines.levels.getLsbD l.val = level
    · unfold edgeAt
      rw [if_pos hlevel, ite_self]
      exact .refl s
    · rw [EdgeRules.edgeAt_changes hmode hlevel]
      refine ((eases_of_touches (EdgeRules.markTaken_touches l level s)).trans
        (eases_of_touches (inspEdge_touches l level _))).trans ?_
      unfold takeEdge
      split
      · exact eases_take _
      · exact .refl _
  · unfold edgeAt
    rw [if_pos (by simpa using hmode)]
    exact .refl s

theorem eases_linePurge (s : State) : Eases s (linePurge s).1 := by
  unfold linePurge
  split
  next hrun =>
    have hall := PurgeRules.removeHeads_purged s.track.records rfl hrun
    have hdeliv := PurgeRules.purge_deliv (s := s) (removeHeads_touches _ s).deliv (congrArg TrackingUnit.records hall.track)
    exact ⟨by rw [hdeliv], by rw [hdeliv]; exact Nat.le_add_right _ _⟩
  next => exact .refl s

/-- CLOSE_BOX is refused, or leaves no box open. -/
theorem closeBox_cases (s : State) : (Machine.closeBox s).1 = s ∨ ∃ b, s.deliv.openBox = some b ∧
    s.deliv.waiting + s.deliv.committedCloses < 4 ∧ (Machine.closeBox s).1 = BoxRules.requested b s := by
  cases hb : s.deliv.openBox with
  | none => exact .inl (by rw [Machine.closeBox, hb])
  | some b =>
    by_cases hroom : s.deliv.waiting + s.deliv.committedCloses < 4
    · exact .inr ⟨b, rfl, hroom, by rw [BoxRules.closeBox_requests hb hroom]⟩
    · refine .inl ?_
      unfold Machine.closeBox
      rw [hb]
      dsimp only
      rw [if_pos (by omega)]

/-! ## The commands -/

/-- The commands that may give the part its reset values. -/
def mayReset : Instr → Bool
  | .fullReset _ | .powerOnReset _ | .frameArrival _ => true
  | _ => false

/-- Besides station events, CLOSE_BOX and resets no command makes the outfeed fuller than it is, once what has fired is
taken. -/
theorem eases_effect (c : Instr) (s : State) (hc : isStation c = false) (hclose : ∀ a, c ≠ .closeBox a)
    (hreset : mayReset c = false) : Eases s (effect c s) ∨ (SettlesFirst c ∧ Eases (settle s) (effect c s)) := by
  cases c <;> try cases hc
  case positionSet a =>
    show Eases s (positionSet a s).1 ∨ (SettlesFirst (.positionSet a) ∧ Eases (settle s) (positionSet a s).1)
    unfold positionSet
    dsimp only
    split
    · exact .inl (.refl s)
    · split
      · exact .inl (.refl s)
      · exact .inr ⟨.inr (.inl ⟨a, rfl⟩), (eases_of_touches (placeAt_touches _ _)).trans (eases_fireEnds _)⟩
  case machineTableApply a lock levels =>
    show Eases s (machineTableApply lock levels s).1 ∨
      (SettlesFirst (.machineTableApply a lock levels) ∧ Eases (settle s) (machineTableApply lock levels s).1)
    unfold machineTableApply
    split
    · exact .inl (.refl s)
    · split
      · exact .inl (eases_of_touches (setStore_touches _ s))
      · exact .inr ⟨.inr (.inr ⟨a, lock, levels, rfl⟩), eases_of_touches (applyTable_touches levels _)⟩
  case closeBox a => exact absurd rfl (hclose a)
  case linePurge a => exact .inl (eases_linePurge s)
  case fullReset pins => cases hreset
  case powerOnReset pins => cases hreset
  case frameArrival f => cases hreset
  case encoderStep pair => exact .inr ⟨.inl ⟨pair, rfl⟩, eases_of_touches (encoderMove_touches pair _)⟩
  case edgeEvent l level => exact .inl (eases_edgeAt l level s)
  all_goals exact .inl (eases_of_touches (effect_touches _ s) (by simp [effectFields]))

theorem ordersFilled_orderQueue (a : List Byte) (s : State) (h : OrdersFilled s) : OrdersFilled (orderQueue a s).1 := by
  unfold orderQueue
  split
  · exact h
  next hok =>
    split
    · exact h
    next =>
      have hbox : 1 ≤ u16 a 8 := by
        have hall := TrimLaw.checked_item (oks := orderChecks a) (x := ()) (y := ()) (by unfold checked; rw [hok])
        have hb := hall.2 (within 1 9999 (u16 a 8)) (by simp [orderChecks])
        simp only [within, Bool.and_eq_true, decide_eq_true_eq] at hb
        exact hb.1
      refine respects_enqueue (R := Keeps OrdersFilled) respectsEnds_filled.toRespectsPlain (newOrder s a) s (fun h => ?_) h
      refine ordersFilled_of_touches (s := joinList (newOrder s a) s) (modifySlot_touches _ _ _) (h := fun o ho => ?_)
      rcases List.mem_append.mp ho with ho | ho
      · exact h o ho
      · rw [List.mem_singleton.mp ho]
        exact hbox

theorem ordersFilled_reset (pins : ResetPins) (s : State) : OrdersFilled (takeReset pins s) :=
  fun _ ho => absurd ho List.not_mem_nil

theorem ordersFilled_effect (c : Instr) (s : State) (hc : isStation c = false) (h : OrdersFilled s) :
    OrdersFilled (effect c s) := by
  have K := takesKeep_filled
  have E := respectsEnds_filled
  have hset (x : OrderUnit) (hx : x.list = s.orders.list) : OrdersFilled { s with orders := x } := by
    intro o ho
    exact h o (hx ▸ ho)
  cases c <;> try cases hc
  case positionSet a =>
    exact keeps_positionSet K (fun x v => ordersFilled_of_touches (setPos_touches x v))
      (fun v => ordersFilled_of_touches (fireEnds_touches v)) a h
  case machineTableApply a lock levels =>
    exact keeps_machineTableApply (P := OrdersFilled) K (ordersFilled_of_touches (setStore_touches _ s) (h := h))
      (fun levels v _ => ordersFilled_of_touches (applyTable_touches levels v)) lock levels h
  case orderQueue a => exact ordersFilled_orderQueue a s h
  case orderAbort a => exact E.orderAbort a s h
  case orderResume a => exact E.orderResume s h
  case feedHold a => exact hset _ rfl
  case feedRelease a => exact hset _ rfl
  case pullSample a =>
    show OrdersFilled (pullSample a s).1
    unfold pullSample
    split
    · exact hset _ rfl
    · exact h
  case closeBox a => exact E.toPulse.closeBox s h
  case linePurge a => exact E.linePurge s h
  case fullReset pins => exact keeps_fullReset ordersFilled_reset pins h
  case powerOnReset pins => exact ordersFilled_reset pins s
  case frameArrival f =>
    exact keeps_frameArrival (fun x v => ordersFilled_of_touches (setRing_touches x v)) ordersFilled_reset
      (fun f v => ordersFilled_of_touches (report_touches f v)) (fun n v => ordersFilled_of_touches (takes_touches n v))
      (fun g v => ordersFilled_of_touches (passFrame_touches g v)) f h
  case encoderStep pair =>
    exact ordersFilled_of_touches (encoderMove_touches pair _) (h := K.settle h)
  all_goals exact ordersFilled_of_touches (effect_touches _ s) (by simp [effectFields]) h

theorem boxFits_reset (pins : ResetPins) (s : State) : BoxFits (takeReset pins s) :=
  ⟨fun _ h => absurd h (Option.some_ne_none _).symm, ordersFilled_reset pins s⟩

theorem boxFits_effect (c : Instr) (s : State) (hc : isStation c = false) (h : BoxFits s) : BoxFits (effect c s) := by
  have hfilled := ordersFilled_effect c s hc h.2
  by_cases hclose : ∃ a, c = .closeBox a
  · obtain ⟨a, rfl⟩ := hclose
    refine ⟨?_, hfilled⟩
    rcases closeBox_cases s with hsame | ⟨b, -, -, hrequested⟩
    · rw [show effect (.closeBox a) s = (Machine.closeBox s).1 from rfl, hsame]
      exact h.1
    · rw [show effect (.closeBox a) s = (Machine.closeBox s).1 from rfl, hrequested, BoxRules.requested_deliv]
      exact fun _ hb => absurd hb (Option.some_ne_none _).symm
  · cases hreset : mayReset c with
    | false =>
      rcases eases_effect c s hc (fun a ha => hclose ⟨a, ha⟩) hreset with hs | ⟨-, hs⟩
      · exact boxFits_of_same hs (fun _ => hfilled) h
      · exact boxFits_of_same hs (fun _ => hfilled) (takesKeep_boxFits.settle h)
    | true =>
      cases c <;> try exact absurd hreset Bool.false_ne_true
      case fullReset pins => exact keeps_fullReset boxFits_reset pins h
      case powerOnReset pins => exact boxFits_reset pins s
      case frameArrival f =>
        exact keeps_frameArrival (fun x v => boxFits_of_touches (setRing_touches x v)) boxFits_reset
          (fun f v => boxFits_of_touches (report_touches f v))
          (fun n v => boxFits_of_same (eases_takes n v) (ordersFilled_of_touches (takes_touches n v)))
          (fun g v => boxFits_of_touches (passFrame_touches g v)) f h

/-- Every step keeps the open box below its B. -/
theorem step_boxFits (h : BoxFits s) (hstep : step s = .next t) : BoxFits t :=
  StepKeeps.step (P := BoxFits)
    { takes := takesKeep_boxFits
      weaken := fun _ h => h
      queue := fun q s => boxFits_of_touches (setQueue_touches q s)
      reply := fun place r s => boxFits_of_touches (giveReply_touches place r s)
      effect := fun c s hc _ => boxFits_effect c s hc
      microsecond := fun s => boxFits_of_touches (setPos_touches _ s)
      completions := fun s h => boxFits_of_touches (clearCompletion_touches _)
        (h := boxFits_of_touches (checkCompletion_touches s) (h := h)) } h hstep

/-! ## Room (08 R141) -/

theorem room_of_eases (hs : Eases s t) (h : Room s) : Room t := hs.load.trans h

theorem room_of_touches {fs : List StateField} (ht : Touches fs s t) (k : .deliv ∉ fs := by decide) (h : Room s) : Room t :=
  room_of_eases (eases_of_touches ht k) h

theorem room_reset (pins : ResetPins) (s : State) : Room (takeReset pins s) := Nat.zero_le 4

theorem room_takeCommanded (e : Recurring) (h : Room s) : Room (takeCommanded e s) := by
  unfold takeCommanded
  split
  next x v hv =>
    exact room_of_eases (eases_of_deliv (fireRecurring_deliv e x v))
      (room_of_touches (RegisterRules.takeFired_touches hv) (h := h))
  next => exact h

theorem room_takeCommandedDue (z : Int) (e : Scheduled) (hd : ∀ q, e ≠ .delivery q) (h : Room s) :
    Room (takeCommandedDue z e s) := by
  unfold takeCommandedDue
  split
  next p v hv =>
    have hroom : Room v := room_of_touches (StationRules.takeScheduled_touches hv) (h := h)
    by_cases hg : ∃ q, e = .gate q
    · obtain ⟨q, rfl⟩ := hg
      rcases gateAt_outfeed q p.pos v with hs | ⟨-, hle⟩
      · exact room_of_eases (t := gateAt q p.pos v) hs hroom
      · exact hle
    · exact room_of_eases (firePending_outfeed _ z v (fun q he => hg ⟨q, he⟩) hd) hroom
  next => exact h

/-- A commanded event that is no delivery keeps the room, a gate by its own check. -/
theorem room_station {c : Instr} (hc : isStation c = true) (hd : ∀ q, c ≠ .deliveryEvent q) (h : Room s) :
    Room (effect c s) := by
  cases c <;> try exact absurd hc Bool.false_ne_true
  case feedEvent => exact room_takeCommanded .feed h
  case captureArm => exact room_takeCommanded .captureArm h
  case windowClose => exact room_takeCommanded .windowClose h
  case watchOpen j => exact room_takeCommanded (.watchOpen j) h
  case watchEnd j => exact room_takeCommanded (.watchEnd j) h
  case onEvent q k i d => exact room_takeCommandedDue 0 (.appOn q k i d) (by nofun) h
  case offEvent q k i d => exact room_takeCommandedDue 0 (.appOff q k i d) (by nofun) h
  case inspectionWindowOpen j q => exact room_takeCommandedDue 0 (.inspOpen j q) (by nofun) h
  case inspectionWindowEnd j q => exact room_takeCommandedDue 0 (.inspEnd j q) (by nofun) h
  case sampleEvent j q z => exact room_takeCommandedDue z (.inspSample j q) (by nofun) h
  case gateEvent q => exact room_takeCommandedDue 0 (.gate q) (by nofun) h
  case rejectGateEnd => exact room_takeCommandedDue 0 .rejectGateEnd (by nofun) h
  case deliveryEvent q => exact absurd rfl (hd q)
  case separatorPulseEnd => exact room_takeCommandedDue 0 .separatorEnd (by nofun) h

/-- CLOSE_BOX is taken where there is room for the close, and K does not rise by it. -/
theorem room_closeBox (hk : s.deliv.committedCloses = (replay s).1) (hl : (s.orders.list.map Order.id).Nodup)
    (hbelow : ∀ b o, s.deliv.openBox = some b → o ∈ s.orders.list → o.id = b.order → b.count < o.boxQuantity) (h : Room s) :
    Room (Machine.closeBox s).1 := by
  rcases closeBox_cases s with hsame | ⟨b, hb, hroom, hrequested⟩
  · rw [hsame]
    exact h
  · have hle := BoxRules.requested_closes hk hb hl (fun o => hbelow b o hb)
    have hwaiting : (BoxRules.requested b s).deliv.waiting = s.deliv.waiting + 1 :=
      congrArg DeliveryUnit.waiting (BoxRules.requested_deliv b s)
    rw [hrequested, Room, hwaiting]
    omega

theorem room_effect (c : Instr) (s : State) (h : Room s) (hd : ∀ q, c ≠ .deliveryEvent q)
    (hsettled : SettlesFirst c → settle s = s)
    (hclose : ∀ a, c = .closeBox a → s.deliv.committedCloses = (replay s).1 ∧ (s.orders.list.map Order.id).Nodup ∧
      ∀ b o, s.deliv.openBox = some b → o ∈ s.orders.list → o.id = b.order → b.count < o.boxQuantity) :
    Room (effect c s) := by
  cases hc : isStation c with
  | true => exact room_station hc hd h
  | false =>
    by_cases hclosing : ∃ a, c = .closeBox a
    · obtain ⟨a, rfl⟩ := hclosing
      obtain ⟨hk, hl, hbelow⟩ := hclose a rfl
      exact room_closeBox hk hl hbelow h
    · cases hreset : mayReset c with
      | false =>
        rcases eases_effect c s hc (fun a ha => hclosing ⟨a, ha⟩) hreset with hs | ⟨hfirst, hs⟩
        · exact room_of_eases hs h
        · rw [hsettled hfirst] at hs
          exact room_of_eases hs h
      | true =>
        cases c <;> try exact absurd hreset Bool.false_ne_true
        case fullReset pins => exact keeps_fullReset room_reset pins h
        case powerOnReset pins => exact room_reset pins s
        case frameArrival f =>
          exact keeps_frameArrival (fun x v => room_of_touches (setRing_touches x v)) room_reset
            (fun f v => room_of_touches (report_touches f v)) (fun n v => room_of_eases (eases_takes n v))
            (fun g v => room_of_touches (passFrame_touches g v)) f h

/-- Every step that takes a command from the queue, but a delivery, keeps waiting + K at most 4. -/
theorem step_room {c : Instr} {q : List Instr} (hpend : s.pending = c :: q) (h : Room s) (hd : ∀ d, c ≠ .deliveryEvent d)
    (hfired : SettlesFirst c → ∀ d x u, ¬ HasFired s d x u)
    (hclose : ∀ a, c = .closeBox a → s.deliv.committedCloses = (replay s).1 ∧ (s.orders.list.map Order.id).Nodup ∧
      ∀ b o, s.deliv.openBox = some b → o ∈ s.orders.list → o.id = b.order → b.count < o.boxQuantity)
    (hstep : step s = .next t) : Room t := by
  rcases step_cases hstep with ⟨c', q', hpend', hdoes⟩ | ⟨hempty, -⟩
  · rw [hpend] at hpend'
    cases hpend'
    have hq : Room { s with pending := q } := h
    have heffect : Room (effect c { s with pending := q }) := by
      refine room_effect c _ hq hd (fun hfirst => settle_of_nil ?_) hclose
      have hnone : dueEvents s = [] := no_hasFired_iff.mp (hfired hfirst)
      exact hnone
    have hreply (place : Option (List Byte × Nat)) (r : Reply) (v : State) (hv : Room v) : Room (giveReply place r v) :=
      room_of_touches (giveReply_touches place r v) (h := hv)
    cases hdoes with
    | nothing => exact hq
    | quiet _ => exact heffect
    | refused place r => exact hreply place r _ hq
    | answered place r _ => exact hreply place r _ heffect
  · rw [hpend] at hempty
    cases hempty

end Sys2Proof.Outfeed
end

section
/-! SUPPORT. Recurring events that have fired wait only at reverse depth 0 (01 R11, R12). -/

namespace Sys2Proof.MarkLaw

open Sys2Proof.Machine Sys2Proof.Ledger Sys2Proof.Steps Sys2Proof.Changes Sys2Proof.Taking Sys2Proof.Keeping

set_option Elab.async false

variable {s t : State}

theorem firedAtMark_of_pos (hdue : s.pos.due = [] → t.pos.due = []) (hdepth : t.pos.depth = s.pos.depth)
    (h : FiredAtMark s) : FiredAtMark t := by
  rcases h with h | h
  · exact .inl (hdue h)
  · exact .inr (hdepth.trans h)

theorem firedAtMark_of_touches {fs : List StateField} (ht : Touches fs s t) (k : .pos ∉ fs := by decide)
    (h : FiredAtMark s) : FiredAtMark t :=
  firedAtMark_of_pos (fun hd => by rw [ht.pos k]; exact hd) (by rw [ht.pos k]) h

theorem firedAtMark_switchTo (src : Option (Fin 8)) (s : State) (h : FiredAtMark s) : FiredAtMark (switchTo src s) := by
  unfold switchTo
  dsimp only
  split
  · exact h
  · exact firedAtMark_of_pos (s := s) (fun hd => by
      show s.pos.due.filter _ = []
      rw [hd]
      rfl) rfl h

theorem respectsPlain_mark : RespectsPlain (Keeps FiredAtMark) where
  refl _ h := h
  trans h g k := g (h k)
  offer n s := firedAtMark_of_touches (offer_touches n s)
  count c s := firedAtMark_of_touches (count_touches c s)
  withdraw _ _ h := h
  unschedule _ _ h := h
  switchTo := firedAtMark_switchTo
  armWindow p s := firedAtMark_of_touches (armWindow_touches p s)
  closeWindow s := firedAtMark_of_touches (closeWindow_touches s)
  amendRecord q f s _ := firedAtMark_of_touches (amendRecord_touches q f s)
  modifyChannel k f s _ := firedAtMark_of_touches (modifyChannel_touches k f s)
  setBlanks b s := firedAtMark_of_touches (setBlanks_touches b s)
  modifyInsp j f s _ := firedAtMark_of_touches (modifyInsp_touches j f s)
  mapOrders f s _ := firedAtMark_of_touches (setOrders_touches _ s)
  setFeed f c s := firedAtMark_of_touches (setOrders_touches _ s)
  setFeedGate b s := firedAtMark_of_touches (setFeedGate_touches b s)
  removeOrder t s := firedAtMark_of_touches (setOrders_touches _ s)
  refDown k s := firedAtMark_of_touches (refDown_touches k s)
  setDeliv d s _ := firedAtMark_of_touches (setDeliv_touches d s)
  logBox b why s := firedAtMark_of_touches (setDeliv_touches _ s)
  report f s := firedAtMark_of_touches (report_touches f s)

theorem respectsEnds_mark : RespectsEnds (Keeps FiredAtMark) where
  toRespects := respectsPlain_mark.respects (fun _ s => firedAtMark_of_touches (setTrack_touches _ s))
    (fun s => firedAtMark_of_touches (drainTest_touches s))
  schedule _ _ _ h := h

theorem takesKeep_mark : TakesKeep FiredAtMark :=
  takesKeep respectsEnds_mark (fun n s => firedAtMark_of_touches (setFree_touches n s))
    (fun f s => firedAtMark_of_pos (fun hd => by
      show s.pos.due.erase f = []
      rw [hd]
      rfl) rfl)
    (fun p o s _ => firedAtMark_of_pos (fun hd => by rw [FeedRules.acceptBlank_pos]; exact hd)
      (by rw [FeedRules.acceptBlank_pos]))

/-- Once all that has fired is taken nothing waits. -/
theorem due_settle (s : State) : (settle s).pos.due = [] := by
  have h := dueEvents_settle s
  unfold dueEvents at h
  exact List.map_eq_nil_iff.mp (List.append_eq_nil_iff.mp h).1

/-- A phase pair that finds no event waiting fires events only as the mark rises, where the depth is 0. -/
theorem firedAtMark_encoderMove (pair : PhasePair) (s : State) (h : s.pos.due = []) : FiredAtMark (encoderMove pair s) := by
  unfold encoderMove
  split
  · exact .inl h
  · dsimp only
    split
    · unfold forwardStep
      split
      · exact .inl h
      next hd => exact .inr (Nat.eq_zero_of_not_pos hd)
    · split
      · unfold reverseStep
        split
        · exact firedAtMark_of_touches (report_touches _ _) (h := .inl h)
        · dsimp only
          split
          · exact firedAtMark_of_touches (report_touches _ _) (h := .inl h)
          · exact .inl h
      · exact firedAtMark_of_touches (report_touches _ _) (h := .inl h)

theorem firedAtMark_clearFault (z : Int) (f : FaultKind) (s : State) (h : FiredAtMark s) : FiredAtMark (clearFault z s f) := by
  have hcleared : FiredAtMark (unlatch f s) := firedAtMark_of_touches (unlatch_touches f s) (h := h)
  unfold clearFault
  split
  · cases f with
    | reverse => exact .inr rfl
    | tracking => exact firedAtMark_of_touches (clearLosses_touches _) (h := hcleared)
    | _ => exact hcleared
  · exact h

theorem firedAtMark_reset (pins : ResetPins) (s : State) : FiredAtMark (takeReset pins s) := .inl rfl

theorem firedAtMark_effect (c : Instr) (s : State) (hc : isStation c = false) (h : FiredAtMark s) :
    FiredAtMark (effect c s) := by
  have K := takesKeep_mark
  have E := respectsEnds_mark
  cases c <;> try exact absurd hc Bool.noConfusion
  case positionSet a =>
    show FiredAtMark (positionSet a s).1
    unfold positionSet
    dsimp only
    split
    · exact h
    · split
      · exact h
      · rw [LinePosition.fireEnds_eq]
        exact .inr rfl
  case machineTableApply a lock levels =>
    exact keeps_machineTableApply (P := FiredAtMark) K (firedAtMark_of_touches (setStore_touches _ s) (h := h))
      (fun levels v _ => firedAtMark_of_touches (applyTable_touches levels v)) lock levels h
  case orderQueue a =>
    show FiredAtMark (orderQueue a s).1
    unfold orderQueue
    split
    · exact h
    · split
      · exact h
      · exact respects_enqueue E.toRespectsPlain _ s (fun h => firedAtMark_of_touches (modifySlot_touches _ _ _)
          (h := firedAtMark_of_touches (setOrders_touches _ s) (h := h))) h
  case orderAbort a => exact E.orderAbort a s h
  case orderResume a => exact E.orderResume s h
  case closeBox a => exact E.toPulse.closeBox s h
  case linePurge a => exact E.linePurge s h
  case clearStatus a z =>
    have hall (fs : List FaultKind) : ∀ v, FiredAtMark v → FiredAtMark (fs.foldl (clearFault z) v) := by
      induction fs with
      | nil => exact fun _ hv => hv
      | cons f fs ih => exact fun v hv => ih _ (firedAtMark_clearFault z f v hv)
    exact hall allFaults s h
  case fullReset pins => exact keeps_fullReset firedAtMark_reset pins h
  case powerOnReset pins => exact firedAtMark_reset pins s
  case frameArrival f =>
    exact keeps_frameArrival (fun x v => firedAtMark_of_touches (setRing_touches x v)) firedAtMark_reset
      (fun f v => firedAtMark_of_touches (report_touches f v)) (fun n v => firedAtMark_of_touches (takes_touches n v))
      (fun g v => firedAtMark_of_touches (passFrame_touches g v)) f h
  case watchdogExpiry =>
    show FiredAtMark (watchdogExpiry s)
    unfold watchdogExpiry
    split
    · refine firedAtMark_of_touches (report_touches _ _) (h := firedAtMark_of_touches (setRing_touches _ _) (h := ?_))
      unfold timeAtLeast
      split
      · exact h
      · exact h
    · exact h
  case encoderStep pair => exact firedAtMark_encoderMove pair _ (due_settle s)
  case speedWindowEnd =>
    refine respects_endWindow E s (fun h => ?_) (fun p v => firedAtMark_of_touches (computeLeads_touches p v))
      (fun v h => h) h
    rw [SpeedRules.windowEnded_eq]
    exact h
  all_goals exact firedAtMark_of_touches (effect_touches _ s) (by simp [effectFields]) h

/-- Every step keeps recurring events waiting only at reverse depth 0. -/
theorem step_firedAtMark (h : FiredAtMark s) (hstep : step s = .next t) : FiredAtMark t :=
  StepKeeps.step (P := FiredAtMark)
    { takes := takesKeep_mark
      weaken := fun _ h => h
      queue := fun _ _ h => h
      reply := fun place r s => firedAtMark_of_touches (giveReply_touches place r s)
      effect := fun c s hc _ => firedAtMark_effect c s hc
      microsecond := fun _ h => h
      completions := fun s h => firedAtMark_of_touches (clearCompletion_touches _)
        (h := firedAtMark_of_touches (checkCompletion_touches s) (h := h)) } h hstep

end Sys2Proof.MarkLaw
end

section
/-! SUPPORT. Cut pitches rise along the Transit List, on through the feed events that wait (03 R44). -/

namespace Sys2Proof.PitchLaw

open Sys2Proof.Machine Sys2Proof.Ledger Sys2Proof.Steps Sys2Proof.Changes Sys2Proof.Taking Sys2Proof.Keeping

set_option Elab.async false

variable {s t u : State}

/-! ## States whose pitches are among those of a state -/

/-- The pitches of the records, and behind them those of the feed events that wait. -/
def pitches (s : State) : List U32 := s.track.records.map Record.cutPitch ++ firedFeeds s

/-- The mark and the feed angle stay, and of the pitches some may have gone. -/
structure Thins (s t : State) : Prop where
  hwm : t.pos.hwm = s.pos.hwm
  feedAngle : t.store.inForce.general.feedAngle = s.store.inForce.general.feedAngle
  pitches : (pitches t).Sublist (pitches s)

theorem Thins.refl (s : State) : Thins s s := ⟨rfl, rfl, .refl _⟩

theorem Thins.trans (h : Thins s t) (g : Thins t u) : Thins s u :=
  ⟨g.hwm.trans h.hwm, g.feedAngle.trans h.feedAngle, g.pitches.trans h.pitches⟩

theorem Thins.pitchesRise (h : Thins s t) (hs : PitchesRise s) : PitchesRise t := by
  obtain ⟨hrise, hlate⟩ := hs
  have hage : pitchAge t = pitchAge s := by
    funext p
    unfold pitchAge pitchNumber
    rw [h.hwm]
  refine ⟨?_, fun hangle p hp => ?_⟩
  · rw [hage]
    exact hrise.sublist (h.pitches.map _)
  · rw [hage]
    rw [h.hwm, h.feedAngle] at hangle
    exact hlate hangle p (h.pitches.subset hp)

/-- The pitches of a list and of fired events that are each among those before. -/
theorem thins_of (hhwm : t.pos.hwm = s.pos.hwm)
    (hangle : t.store.inForce.general.feedAngle = s.store.inForce.general.feedAngle)
    (hrecords : (t.track.records.map Record.cutPitch).Sublist (s.track.records.map Record.cutPitch))
    (hdue : t.pos.due.Sublist s.pos.due) : Thins s t :=
  ⟨hhwm, hangle, hrecords.append ((hdue.filter _).map _)⟩

theorem thins_of_touches {fs : List StateField} (h : Touches fs s t) (kp : .pos ∉ fs := by decide)
    (kt : .track ∉ fs := by decide) (ks : .store ∉ fs := by decide) : Thins s t :=
  thins_of (by rw [h.pos kp]) (by rw [h.store ks]) (by rw [h.track kt]) (by rw [h.pos kp])

theorem thins_switchTo (src : Option (Fin 8)) (s : State) : Thins s (switchTo src s) := by
  have h := switchTo_touches src s
  refine thins_of ?_ (by rw [h.store]) (by rw [h.track]) ?_
  · unfold switchTo
    dsimp only
    split <;> rfl
  · rw [RegisterRules.switchTo_due]
    split
    · exact .refl _
    · exact List.filter_sublist

theorem thins_amendRecord (q : U32) (f : Record → Record) (s : State) (hf : ∀ r, Grown r (f r)) :
    Thins s (amendRecord q f s) := by
  refine thins_of rfl rfl ?_ (.refl _)
  show ((s.track.records.map (fun x => if x.seq == q then f x else x)).map Record.cutPitch).Sublist _
  have hsame : (s.track.records.map (fun x => if x.seq == q then f x else x)).map Record.cutPitch =
      s.track.records.map Record.cutPitch := by
    rw [List.map_map]
    refine List.map_congr_left fun r _ => ?_
    show (if r.seq == q then f r else r).cutPitch = r.cutPitch
    split
    · exact (hf r).2.1
    · rfl
  rw [hsame]

theorem respectsPlain_thins : RespectsPlain Thins where
  refl := .refl
  trans h g := h.trans g
  offer n s := thins_of_touches (offer_touches n s)
  count c s := thins_of_touches (count_touches c s)
  withdraw _ _ := thins_of rfl rfl (.refl _) (.refl _)
  unschedule _ _ := thins_of rfl rfl (.refl _) (.refl _)
  switchTo := thins_switchTo
  armWindow p s := thins_of_touches (armWindow_touches p s)
  closeWindow s := thins_of_touches (closeWindow_touches s)
  amendRecord := thins_amendRecord
  modifyChannel k f s _ := thins_of_touches (modifyChannel_touches k f s)
  setBlanks b s := thins_of_touches (setBlanks_touches b s)
  modifyInsp j f s _ := thins_of_touches (modifyInsp_touches j f s)
  mapOrders f s _ := thins_of_touches (setOrders_touches _ s)
  setFeed f c s := thins_of_touches (setOrders_touches _ s)
  setFeedGate b s := thins_of_touches (setFeedGate_touches b s)
  removeOrder t s := thins_of_touches (setOrders_touches _ s)
  refDown _ _ := thins_of rfl rfl (.refl _) (.refl _)
  setDeliv d s _ := thins_of_touches (setDeliv_touches d s)
  logBox b why s := thins_of_touches (setDeliv_touches _ s)
  report f s := thins_of_touches (report_touches f s)

theorem respectsEnds_thins : RespectsEnds Thins where
  toRespects := respectsPlain_thins.respects
    (fun _ _ => thins_of rfl rfl (List.eraseP_sublist.map _) (.refl _))
    (fun s => thins_of_touches (drainTest_touches s))
  schedule _ _ _ := thins_of rfl rfl (.refl _) (.refl _)

/-! ## The age of a pitch and the distance of a position -/

theorem pitchAge_posPitch (s : State) (x : Pos) :
    (pitchAge s (posPitch x) : Int) % 4294967296 = ((s.pos.hwm.val / 3600 : Nat) - (x.val / 3600 : Nat) : Int) % 4294967296 := by
  have hh := s.pos.hwm.isLt
  have hx := x.isLt
  unfold pitchAge pitchNumber posPitch
  rw [BitVec.toNat_sub, BitVec.toNat_ofNat, BitVec.toNat_ofNat]
  omega

/-- Where a pitch is not too old to be told from one to come, its positions lie behind the mark by its age. -/
theorem posDist_of_age {x : Pos} (h : pitchAge s (posPitch x) < 2147483647) : posDist s.pos.hwm x =
    -(3600 * pitchAge s (posPitch x) : Int) + (posAngle x - posAngle s.pos.hwm : Int) := by
  have hage := pitchAge_posPitch s x
  obtain ⟨hmod, hlow, hhigh⟩ := StationRules.posDist_bounds s.pos.hwm x
  have hx := x.isLt
  have hh := s.pos.hwm.isLt
  unfold posAngle
  generalize posDist s.pos.hwm x = d at *
  generalize pitchAge s (posPitch x) = a at *
  omega

/-- Of two positions not too old the one of the older pitch is the earlier. -/
theorem earlier_of_older {x y : Pos} (hx : pitchAge s (posPitch x) < 2147483647) (hy : pitchAge s (posPitch y) < 2147483647)
    (h : pitchAge s (posPitch y) < pitchAge s (posPitch x)) : posDist s.pos.hwm x < posDist s.pos.hwm y := by
  have hax : posAngle x < 3600 := Nat.mod_lt _ (by decide)
  have hay : posAngle y < 3600 := Nat.mod_lt _ (by decide)
  rw [posDist_of_age hx, posDist_of_age hy]
  omega

/-! ## The feed event that is taken is the oldest -/

theorem filter_erase_head {α : Type} [DecidableEq α] {p : α → Bool} {a : α} {rest : List α} :
    ∀ {l : List α}, l.filter p = a :: rest → (l.erase a).filter p = rest
  | [], h => by cases h
  | b :: l, h => by
    by_cases hb : p b = true
    · rw [List.filter_cons_of_pos hb] at h
      cases h
      rw [List.erase_cons_head]
    · have hne : b ≠ a := by
        rintro rfl
        have hmem : b ∈ (b :: l).filter p := by rw [h]; exact List.mem_cons_self
        exact hb (List.mem_filter.mp hmem).2
      rw [List.filter_cons_of_neg hb] at h
      rw [List.erase_cons_tail (by simpa using hne), List.filter_cons_of_neg hb]
      exact filter_erase_head h

/-- `f` is the feed event that has waited longest. -/
def OldestFeed (f : Fired) (s : State) : Prop := (s.pos.due.filter (fun f => f.event == .feed)).head? = some f

theorem OldestFeed.feeds {f : Fired} (h : OldestFeed f s) :
    firedFeeds s = posPitch f.pos :: firedFeeds { s with pos := { s.pos with due := s.pos.due.erase f } } := by
  obtain ⟨rest, hrest⟩ := List.head?_eq_some_iff.mp h
  unfold firedFeeds
  dsimp only
  rw [hrest, filter_erase_head hrest]
  rfl

/-- Where the pitches rise and none is too old, the earliest feed event is the one that has waited longest. -/
theorem oldestFeed_of_earliest {f : Fired} (hrise : PitchesRise s) (hyoung : ∀ p, p ∈ pitches s → pitchAge s p < 2147483647)
    (he : .recurring f ∈ earliestDue s) (hf : f.event = .feed) : OldestFeed f s := by
  obtain ⟨hmem, hleast⟩ := mem_earliestDue.mp he
  have hdue : f ∈ s.pos.due := by
    rcases mem_dueEvents.mp hmem with ⟨g, hg, heq⟩ | ⟨_, _, _, heq⟩ <;> cases heq
    exact hg
  unfold OldestFeed
  have hfeed : f ∈ s.pos.due.filter (fun f => f.event == .feed) := List.mem_filter.mpr ⟨hdue, by rw [hf]; rfl⟩
  have hpitch (g : Fired) (hg : g ∈ s.pos.due.filter (fun f => f.event == .feed)) : pitchAge s (posPitch g.pos) < 2147483647 :=
    hyoung _ (List.mem_append_right _ (List.mem_map_of_mem hg))
  have hpair := hrise.1
  rw [List.map_append, List.pairwise_append] at hpair
  have hfeeds := hpair.2.1
  unfold firedFeeds at hfeeds
  cases hlist : s.pos.due.filter (fun f => f.event == .feed) with
  | nil =>
    rw [hlist] at hfeed
    exact absurd hfeed List.not_mem_nil
  | cons g rest =>
    rw [hlist] at hfeed hpitch hfeeds
    rcases List.mem_cons.mp hfeed with heq | hrest
    · rw [heq]
      rfl
    · have hold : pitchAge s (posPitch f.pos) < pitchAge s (posPitch g.pos) :=
        (List.pairwise_cons.mp hfeeds).1 _ (List.mem_map_of_mem (List.mem_map_of_mem hrest))
      have hg : g ∈ s.pos.due :=
        (List.mem_filter.mp (show g ∈ s.pos.due.filter (fun f => f.event == .feed) by rw [hlist]; exact List.mem_cons_self)).1
      have hle := hleast (.recurring g) (mem_dueEvents.mpr (.inl ⟨g, hg, rfl⟩))
      have hlt := earlier_of_older (hpitch g List.mem_cons_self) (hpitch f hfeed) hold
      have hle' : posDist s.pos.hwm f.pos ≤ posDist s.pos.hwm g.pos := hle
      omega

theorem oldestFeed_of_find {f : Fired} (h : s.pos.due.find? (fun q => q.event == .feed) = some f) : OldestFeed f s := by
  unfold OldestFeed
  rw [List.head?_filter, h]

/-! ## Takings -/

theorem thins_acceptBlank (p : U32) (o : Order) {v : State} (hs : v.pos.hwm = s.pos.hwm)
    (ha : v.store.inForce.general.feedAngle = s.store.inForce.general.feedAngle)
    (hp : (v.track.records.map Record.cutPitch ++ p :: firedFeeds v).Sublist (pitches s)) : Thins s (acceptBlank p o v) := by
  have hpos := FeedRules.acceptBlank_pos p o v
  have hfeeds : firedFeeds (acceptBlank p o v) = firedFeeds v := by
    unfold firedFeeds
    rw [hpos]
  refine ⟨by rw [hpos, hs], ha, ?_⟩
  unfold pitches
  rw [acceptBlank_track, hfeeds, List.map_append, List.append_assoc]
  exact hp

/-- The oldest feed event, taken, leaves its pitch with the record that it makes, or drops it. -/
theorem thins_feedAt {f : Fired} (h : OldestFeed f s) :
    Thins s (feedAt (posPitch f.pos) { s with pos := { s.pos with due := s.pos.due.erase f } }) := by
  have hpitches : pitches s = s.track.records.map Record.cutPitch ++
      posPitch f.pos :: firedFeeds { s with pos := { s.pos with due := s.pos.due.erase f } } := by
    unfold pitches
    rw [h.feeds]
  have hu : ({ s with pos := { s.pos with due := s.pos.due.erase f } } : State).pos.hwm = s.pos.hwm := rfl
  have ha : ({ s with pos := { s.pos with due := s.pos.due.erase f } } : State).store = s.store := rfl
  have ht : ({ s with pos := { s.pos with due := s.pos.due.erase f } } : State).track = s.track := rfl
  generalize ({ s with pos := { s.pos with due := s.pos.due.erase f } } : State) = u at *
  have hdecided := respectsEnds_thins.feedDecision u
  have htrack : (handOverTest (count .cutTotal u)).track = s.track :=
    (handOverTest_touches _).track.trans ((count_touches _ u).track.trans ht)
  unfold feedAt
  dsimp only
  generalize handOverTest (count .cutTotal u) = w at *
  have hfeeds : (firedFeeds w).Sublist (firedFeeds u) := by
    have hsub := hdecided.pitches
    unfold pitches at hsub
    rw [htrack, ht] at hsub
    exact (List.append_sublist_append_left _).mp hsub
  have hhwm : w.pos.hwm = s.pos.hwm := hdecided.hwm.trans hu
  have hangle : w.store.inForce.general.feedAngle = s.store.inForce.general.feedAngle := by rw [hdecided.feedAngle, ha]
  split
  · refine thins_acceptBlank _ _ hhwm hangle ?_
    rw [hpitches, htrack]
    exact (hfeeds.cons_cons _).append_left _
  · have hkept : Thins s w := by
      refine ⟨hhwm, hangle, ?_⟩
      rw [hpitches]
      unfold pitches
      rw [htrack]
      exact (hfeeds.cons _).append_left _
    exact hkept.trans (respectsEnds_thins.divertBlank w)

theorem thins_dropDue (f : Fired) (s : State) : Thins s { s with pos := { s.pos with due := s.pos.due.erase f } } :=
  thins_of rfl rfl (.refl _) List.erase_sublist

/-- The firing of a recurring event that is taken, a feed event's where it is the oldest. -/
theorem thins_fireRecurring {f : Fired} (h : f.event = .feed → OldestFeed f s) :
    Thins s (fireRecurring f.event f.pos { s with pos := { s.pos with due := s.pos.due.erase f } }) := by
  by_cases hf : f.event = .feed
  · rw [hf]
    exact thins_feedAt (h hf)
  · exact (thins_dropDue f s).trans (respectsEnds_thins.fireRecurring hf _ _)

/-- The pitches rise, and none is so old that it could be one to come. -/
def RisesYoung (s : State) : Prop := PitchesRise s ∧ ∀ p, p ∈ pitches s → pitchAge s p < 2147483647

theorem Thins.risesYoung (h : Thins s t) (hs : RisesYoung s) : RisesYoung t := by
  refine ⟨h.pitchesRise hs.1, fun p hp => ?_⟩
  have hage : pitchAge t p = pitchAge s p := by
    unfold pitchAge pitchNumber
    rw [h.hwm]
  rw [hage]
  exact hs.2 p (h.pitches.subset hp)

theorem thins_setFree (n : Nat) (s : State) : Thins s { s with freeIndex := n } := thins_of_touches (setFree_touches n s)

theorem thins_taken (h : Taken s t) (hs : RisesYoung s) : Thins s t := by
  obtain ⟨e, z, n, he, -, -, rfl⟩ := h
  refine (thins_setFree n s).trans ?_
  cases e with
  | recurring f => exact thins_fireRecurring (s := freeAt n s) (fun hf => oldestFeed_of_earliest hs.1 hs.2 he hf)
  | scheduled p => exact (respectsEnds_thins.unschedule p _).trans (respectsEnds_thins.firePending p z _)

theorem thins_settle (hs : RisesYoung s) : Thins s (settle s) :=
  Flood.settle_induction (I := Thins s) (fun _ _ h hv => hv.trans (thins_taken h (hv.risesYoung hs))) (.refl s)

theorem thins_takeCommanded (e : Recurring) (s : State) : Thins s (takeCommanded e s) := by
  unfold takeCommanded takeFired
  cases hfind : s.pos.due.find? (fun q => q.event == e) with
  | none => exact .refl s
  | some f =>
    have he : f.event = e := by simpa using List.find?_some hfind
    subst he
    exact thins_fireRecurring (fun hf => oldestFeed_of_find (by rw [← hf]; exact hfind))

theorem thins_takeCommandedDue (z : Int) (e : Scheduled) (s : State) : Thins s (takeCommandedDue z e s) := by
  unfold takeCommandedDue
  split
  next p v hv =>
    obtain ⟨-, -, -, rfl⟩ := takeScheduled_some hv
    exact (respectsEnds_thins.unschedule p s).trans (respectsEnds_thins.firePending _ z _)
  next => exact .refl s

theorem thins_station {c : Instr} (hc : isStation c = true) (s : State) : Thins s (effect c s) := by
  cases c <;> try exact absurd hc Bool.false_ne_true
  case feedEvent => exact thins_takeCommanded .feed s
  case captureArm => exact thins_takeCommanded .captureArm s
  case windowClose => exact thins_takeCommanded .windowClose s
  case watchOpen j => exact thins_takeCommanded (.watchOpen j) s
  case watchEnd j => exact thins_takeCommanded (.watchEnd j) s
  case onEvent q k i d => exact thins_takeCommandedDue 0 (.appOn q k i d) s
  case offEvent q k i d => exact thins_takeCommandedDue 0 (.appOff q k i d) s
  case inspectionWindowOpen j q => exact thins_takeCommandedDue 0 (.inspOpen j q) s
  case inspectionWindowEnd j q => exact thins_takeCommandedDue 0 (.inspEnd j q) s
  case sampleEvent j q z => exact thins_takeCommandedDue z (.inspSample j q) s
  case gateEvent q => exact thins_takeCommandedDue 0 (.gate q) s
  case rejectGateEnd => exact thins_takeCommandedDue 0 .rejectGateEnd s
  case deliveryEvent q => exact thins_takeCommandedDue 0 (.delivery q) s
  case separatorPulseEnd => exact thins_takeCommandedDue 0 .separatorEnd s

/-! ## States without a pitch -/

theorem pitchesRise_of_nil (hrecords : s.track.records = []) (hdue : s.pos.due = []) : PitchesRise s := by
  have hnil : s.track.records.map Record.cutPitch ++ firedFeeds s = [] := by
    unfold firedFeeds
    rw [hrecords, hdue]
    rfl
  unfold PitchesRise
  rw [hnil]
  exact ⟨.nil, fun _ p hp => absurd hp List.not_mem_nil⟩

/-- In IDLE nothing waits and the list is empty once all that has fired is taken. -/
theorem settled_idle (hrun : RunFits s) (hidle : s.line.run = .idle) :
    (settle s).track.records = [] ∧ (settle s).pos.due = [] :=
  ⟨(RunLaw.takesKeep_runFits.settle hrun).1 (takesKeep_idle.settle (show Idle s from hidle)), MarkLaw.due_settle s⟩

theorem pitchesRise_reset (pins : ResetPins) (s : State) : PitchesRise (takeReset pins s) := pitchesRise_of_nil rfl rfl

theorem pitchesRise_positionSet (a : List Byte) (s : State) (hrun : RunFits s) (h : PitchesRise s) :
    PitchesRise (positionSet a s).1 := by
  unfold positionSet
  dsimp only
  split
  · exact h
  · split
    · exact h
    next hidle =>
      obtain ⟨hrecords, hdue⟩ := settled_idle hrun (not_not.mp hidle)
      rw [LinePosition.fireEnds_eq]
      exact pitchesRise_of_nil hrecords hdue

theorem pitchesRise_machineTableApply (lock : Bool) (levels : BitVec 16) (s : State) (hrun : RunFits s)
    (h : PitchesRise s) : PitchesRise (machineTableApply lock levels s).1 := by
  unfold machineTableApply
  split
  · exact h
  next hguards =>
    split
    · exact (thins_of (t := { s with store := { s.store with validity := .invalid } }) rfl rfl (.refl _) (.refl _)).pitchesRise h
    · have hidle : s.line.run = .idle := by
        unfold tableGuards at hguards
        split at hguards
        · cases hguards
        · split at hguards
          · cases hguards
          next hr => exact not_not.mp hr
      obtain ⟨hrecords, hdue⟩ := settled_idle hrun hidle
      have htouches := applyTable_touches levels (settle s)
      exact pitchesRise_of_nil (by rw [htouches.track]; exact hrecords) (by rw [htouches.pos]; exact hdue)

/-! ## The mark rises -/

theorem posPitch_rise (x : Pos) : (posPitch (x + 1)).toNat = ((posPitch x).toNat + if posAngle x = 3599 then 1 else 0) % 4294967296 ∧
    posAngle (x + 1) = if posAngle x = 3599 then 0 else posAngle x + 1 := by
  have hx := x.isLt
  have hrise : (x + 1).val = (x.val + 1) % 15461882265600 := rfl
  rw [LinePosition.posPitch_toNat, LinePosition.posPitch_toNat, posAngle, posAngle, hrise]
  constructor <;> split <;> omega

theorem pitchAge_advance {p : U32} (h : pitchAge s p < 2147483647) : pitchAge (advance s) p =
    pitchAge s p + if posAngle s.pos.hwm = 3599 then 1 else 0 := by
  have hnow := (posPitch_rise s.pos.hwm).1
  have hp := p.isLt
  have hlt := (posPitch s.pos.hwm).isLt
  unfold pitchAge pitchNumber at h ⊢
  rw [show (advance s).pos.hwm = s.pos.hwm + 1 from rfl, BitVec.toNat_sub, hnow]
  rw [BitVec.toNat_sub] at h ⊢
  split <;> omega

theorem pitchAge_advance_new (s : State) : pitchAge (advance s) (posPitch (s.pos.hwm + 1)) = 0 := by
  unfold pitchAge pitchNumber
  rw [show (advance s).pos.hwm = s.pos.hwm + 1 from rfl, BitVec.sub_self]
  rfl

/-- With nothing waiting, the rising mark fires a feed event where it comes to the feed angle. -/
theorem firedFeeds_advance (h : s.pos.due = []) : firedFeeds (advance s) =
    if posAngle (s.pos.hwm + 1) = s.store.inForce.general.feedAngle then [posPitch (s.pos.hwm + 1)] else [] := by
  have hfeed : .feed ∈ recurringAt s (posAngle (s.pos.hwm + 1)) ↔
      posAngle (s.pos.hwm + 1) = s.store.inForce.general.feedAngle := by
    rw [EncoderRules.mem_recurringAt]
    simp
  have hcount : (recurringAt s (posAngle (s.pos.hwm + 1))).filter (fun e => e == .feed) =
      if posAngle (s.pos.hwm + 1) = s.store.inForce.general.feedAngle then [.feed] else [] := by
    rw [List.filter_beq, (EncoderRules.nodup_recurringAt s _).count]
    simp only [hfeed]
    split <;> rfl
  have hdue : (advance s).pos.due = (recurringAt s (posAngle (s.pos.hwm + 1))).map (fun e => ⟨e, s.pos.hwm + 1⟩) := by
    unfold advance
    dsimp only
    rw [h, List.nil_append]
  unfold firedFeeds
  have hkind : (fun f : Fired => f.event == .feed) ∘ (fun e : Recurring => (⟨e, s.pos.hwm + 1⟩ : Fired)) =
      fun e => e == .feed := rfl
  rw [hdue, List.filter_map, hkind, hcount]
  split <;> rfl

/-- The mark comes one count on, with nothing waiting: pitches age as it crosses into the next one, and the feed event of a
pitch finds none of that pitch. -/
theorem pitchesRise_advance (hs : RisesYoung s) (hdue : s.pos.due = []) : PitchesRise (advance s) := by
  obtain ⟨⟨hrise, hlate⟩, hyoung⟩ := hs
  have hfeeds : firedFeeds s = [] := by
    unfold firedFeeds
    rw [hdue]
    rfl
  unfold pitches at hyoung
  rw [hfeeds, List.append_nil] at hrise hlate hyoung
  have hangle := (posPitch_rise s.pos.hwm).2
  have hbehind (hle : posAngle (s.pos.hwm + 1) ≤ s.store.inForce.general.feedAngle) :
      ∀ p, p ∈ s.track.records.map Record.cutPitch → 0 < pitchAge (advance s) p := by
    intro p hp
    rw [pitchAge_advance (hyoung p hp)]
    split
    · exact Nat.succ_pos _
    next hcross =>
      rw [if_neg hcross] at hangle
      exact hlate (by omega) p hp
  have hrecords : ((s.track.records.map Record.cutPitch).map (pitchAge (advance s))).Pairwise (fun a b => b < a) := by
    rw [List.pairwise_map] at hrise ⊢
    refine hrise.imp_of_mem fun {p q} hp hq hlt => ?_
    rw [pitchAge_advance (hyoung p hp), pitchAge_advance (hyoung q hq)]
    exact Nat.add_lt_add_right hlt _
  unfold PitchesRise
  rw [firedFeeds_advance hdue]
  show List.Pairwise _ ((s.track.records.map Record.cutPitch ++ _).map _) ∧ (posAngle (s.pos.hwm + 1) <
    s.store.inForce.general.feedAngle → ∀ p, p ∈ s.track.records.map Record.cutPitch ++ _ → 0 < pitchAge (advance s) p)
  by_cases hfeed : posAngle (s.pos.hwm + 1) = s.store.inForce.general.feedAngle
  · rw [if_pos hfeed, List.map_append, List.pairwise_append]
    refine ⟨⟨hrecords, List.pairwise_singleton _ _, fun a ha b hb => ?_⟩, fun hlt => absurd hfeed (Nat.ne_of_lt hlt)⟩
    obtain ⟨p, hp, rfl⟩ := List.mem_map.mp ha
    rw [List.mem_singleton.mp hb, pitchAge_advance_new]
    exact hbehind (Nat.le_of_eq hfeed) p hp
  · rw [if_neg hfeed, List.append_nil]
    exact ⟨hrecords, fun hlt => hbehind (Nat.le_of_lt hlt)⟩

/-- A phase pair that finds no event waiting keeps the pitches rising. -/
theorem pitchesRise_encoderMove (pair : PhasePair) (hs : RisesYoung s) (hdue : s.pos.due = []) :
    PitchesRise (encoderMove pair s) := by
  have hphases : Thins s { s with pos := { s.pos with phases := pair } } := thins_of rfl rfl (.refl _) (.refl _)
  have hback : Thins s { s with pos := { s.pos with phases := pair, depth := s.pos.depth + 1 } } :=
    thins_of rfl rfl (.refl _) (.refl _)
  unfold encoderMove
  split
  · exact hs.1
  · dsimp only
    split
    · unfold forwardStep
      split
      · exact (thins_of (s := s) rfl rfl (.refl _) (.refl _)).pitchesRise hs.1
      · exact pitchesRise_advance (hphases.risesYoung hs) hdue
    · refine Thins.pitchesRise ?_ hs.1
      split
      · unfold reverseStep
        split
        · exact hphases.trans (respectsEnds_thins.report _ _)
        · dsimp only
          split
          · exact hback.trans (respectsEnds_thins.report _ _)
          · exact hback
      · exact hphases.trans (respectsEnds_thins.report _ _)

/-! ## Faults cleared -/

/-- Clearing REVERSE re-bases where no blank is in transit: nothing waits then, or the mark stays (01 R13). -/
theorem pitchesRise_clearFault (z : Int) (f : FaultKind) (s : State) (hmark : FiredAtMark s) (h : PitchesRise s) :
    PitchesRise (clearFault z s f) := by
  have hcleared : Thins s (unlatch f s) := thins_of_touches (unlatch_touches f s)
  unfold clearFault
  split
  next hc =>
    cases f with
    | reverse =>
      rw [Bool.and_eq_true] at hc
      have hrecords : s.track.records = [] := List.isEmpty_iff.mp hc.2
      rcases hmark with hdue | hdepth
      · exact pitchesRise_of_nil hrecords hdue
      · have hhwm : currentPos (unlatch .reverse s) = s.pos.hwm := by
          show posSub s.pos.hwm s.pos.depth = s.pos.hwm
          rw [hdepth, LinePosition.posSub_zero]
        exact (thins_of (s := s) (t := rebase (unlatch .reverse s)) hhwm rfl (.refl _) (.refl _)).pitchesRise h
    | tracking => exact (hcleared.trans (thins_of_touches (clearLosses_touches _))).pitchesRise h
    | _ => exact hcleared.pitchesRise h
  next => exact h

theorem pitchesRise_clearStatus (z : Int) (s : State) (hmark : FiredAtMark s) (h : PitchesRise s) :
    PitchesRise (clearStatus z s).1 := by
  have hall (fs : List FaultKind) : ∀ v, FiredAtMark v → PitchesRise v → PitchesRise (fs.foldl (clearFault z) v) := by
    induction fs with
    | nil => exact fun _ _ hv => hv
    | cons f fs ih =>
      exact fun v hmark hv => ih _ (MarkLaw.firedAtMark_clearFault z f v hmark) (pitchesRise_clearFault z f v hmark hv)
  exact hall allFaults s hmark h

/-! ## The other commands -/

theorem thins_modifySlot (k : Fin 8) (f : Slot → Slot) (s : State) : Thins s (modifySlot k f s) :=
  thins_of rfl rfl (.refl _) (.refl _)

theorem thins_setSlotState (k : Fin 8) (x : SlotState) (s : State) : Thins s (setSlotState k x s) :=
  thins_modifySlot k _ s

theorem thins_clearContent (k : Fin 8) (s : State) : Thins s (clearContent k s) := thins_modifySlot k _ s

theorem thins_setMgmt (x : ManagementUnit) (s : State) : Thins s { s with mgmt := x } :=
  thins_of_touches (setMgmt_touches x s)

theorem thins_finishWork (op : LongOp) (k : Fin 8) (c : ResultCode) (f : Option CheckFailure) (s : State) :
    Thins s (finishWork op k c f s) := (thins_setMgmt _ s).trans (respectsEnds_thins.offer _ _)

theorem thins_checkCompletion (s : State) : Thins s (checkCompletion s) := by
  unfold checkCompletion completeCheck
  split
  · split
    · exact (thins_modifySlot _ _ s).trans (thins_finishWork _ _ _ _ _)
    · exact (thins_modifySlot _ _ s).trans (thins_finishWork _ _ _ _ _)
  · exact .refl s

theorem thins_clearCompletion (s : State) : Thins s (clearCompletion s) := by
  unfold clearCompletion completeClear
  split
  · exact ((thins_modifySlot _ _ s).trans (thins_modifySlot _ _ _)).trans (thins_finishWork _ _ _ _ _)
  · exact .refl s

theorem thins_endWindow (s : State) : Thins s (endWindow s) := by
  refine respects_endWindow respectsEnds_thins s ?_ (fun p v => thins_of_touches (computeLeads_touches p v))
    (fun v => thins_of rfl rfl (.refl _) (.refl _))
  rw [SpeedRules.windowEnded_eq]
  exact thins_of rfl rfl (.refl _) (.refl _)

theorem thins_timeAtLeast (t0 : U32) (n : Nat) (s : State) : Thins s (timeAtLeast t0 n s) := by
  unfold timeAtLeast
  split
  · exact thins_of rfl rfl (.refl _) (.refl _)
  · exact .refl s

theorem thins_watchdogExpiry (s : State) : Thins s (watchdogExpiry s) := by
  unfold watchdogExpiry
  split
  · exact ((thins_timeAtLeast _ _ s).trans (thins_of_touches (setRing_touches _ _))).trans (respectsEnds_thins.report _ _)
  · exact .refl s

theorem thins_takeTime (e : TimeEvent) (s : State) : Thins s (takeTime e s) := by
  cases e with
  | windowEnd => exact thins_endWindow s
  | watchdog => exact thins_watchdogExpiry s
  | completion => exact (thins_checkCompletion s).trans (thins_clearCompletion _)

theorem thins_machineTableWrite (a : List Byte) (lock : Bool) (s : State) : Thins s (machineTableWrite a lock s).1 := by
  unfold machineTableWrite
  split
  · exact .refl s
  · exact .refl s
  · split
    · exact .refl s
    · exact thins_of rfl rfl (.refl _) (.refl _)

theorem thins_recipeEdit (a : List Byte) (lock : Bool) (s : State) : Thins s (recipeEdit a lock s).1 := by
  unfold recipeEdit
  split
  · exact .refl s
  · split
    · exact .refl s
    · split
      · exact .refl s
      · dsimp only
        split
        · exact (thins_clearContent _ s).trans (thins_setSlotState _ _ _)
        · exact .refl s
        · split
          · exact thins_setSlotState _ _ s
          · exact .refl s
        · exact .refl s
        · exact .refl s

theorem thins_recipeWrite (a : List Byte) (lock : Bool) (s : State) : Thins s (recipeWrite a lock s).1 := by
  unfold recipeWrite
  split
  · exact .refl s
  · split
    · exact .refl s
    · exact .refl s
    · split
      · exact .refl s
      · split
        · exact .refl s
        · exact thins_modifySlot _ (fun t => { t with recipe := writeRecipeItem t.recipe _ }) s

theorem thins_recipeCheck (a : List Byte) (s : State) : Thins s (recipeCheck a s).1 := by
  unfold recipeCheck
  split
  · exact .refl s
  · split
    · exact .refl s
    · exact (thins_modifySlot _ _ s).trans (thins_setMgmt _ _)

theorem thins_recipeClear (a : List Byte) (lock : Bool) (s : State) : Thins s (recipeClear a lock s).1 := by
  unfold recipeClear
  split
  · exact .refl s
  · split
    · exact .refl s
    · split
      · exact .refl s
      · split
        · exact .refl s
        · exact (thins_modifySlot _ _ s).trans (thins_setMgmt _ _)

theorem thins_orderQueue (a : List Byte) (s : State) : Thins s (orderQueue a s).1 := by
  unfold orderQueue
  split
  · exact .refl s
  · split
    · exact .refl s
    · exact respects_enqueue respectsEnds_thins.toRespectsPlain _ s (thins_of rfl rfl (.refl _) (.refl _))

/-- Every effect keeps the pitches rising. -/
theorem pitchesRise_effect (c : Instr) (s : State) (hs : RisesYoung s) (hrun : RunFits s) (hmark : FiredAtMark s) :
    PitchesRise (effect c s) := by
  have E := respectsEnds_thins
  have h := hs.1
  by_cases hstation : isStation c = true
  · exact (thins_station hstation s).pitchesRise h
  cases c <;> try exact absurd rfl hstation
  case positionSet a => exact pitchesRise_positionSet a s hrun h
  case machineTableApply a lock levels => exact pitchesRise_machineTableApply lock levels s hrun h
  case encoderStep pair => exact pitchesRise_encoderMove pair ((thins_settle hs).risesYoung hs) (MarkLaw.due_settle s)
  case clearStatus a z => exact pitchesRise_clearStatus z s hmark h
  case fullReset pins => exact keeps_fullReset pitchesRise_reset pins h
  case powerOnReset pins => exact pitchesRise_reset pins s
  case frameArrival f =>
    exact keeps_frameArrival (fun x v hv => (thins_of_touches (setRing_touches x v)).pitchesRise hv) pitchesRise_reset
      (fun f v hv => (E.report f v).pitchesRise hv) (fun n v hv => (E.takes n v).pitchesRise hv)
      (fun g v hv => (thins_of_touches (passFrame_touches g v)).pitchesRise hv) f h
  all_goals refine Thins.pitchesRise ?_ h
  case machineTableWrite a lock => exact thins_machineTableWrite a lock s
  case recipeEdit a lock => exact thins_recipeEdit a lock s
  case recipeWrite a lock => exact thins_recipeWrite a lock s
  case recipeCheck a => exact thins_recipeCheck a s
  case recipeClear a lock => exact thins_recipeClear a lock s
  case checkCompletion => exact thins_checkCompletion s
  case clearCompletion => exact thins_clearCompletion s
  case orderQueue a => exact thins_orderQueue a s
  case orderAbort a => exact E.orderAbort a s
  case orderResume a => exact E.orderResume s
  case closeBox a => exact E.toPulse.closeBox s
  case linePurge a => exact E.linePurge s
  case watchdogExpiry => exact thins_watchdogExpiry s
  case speedWindowEnd => exact thins_endWindow s
  all_goals exact thins_of_touches (effect_touches _ s) (by simp [effectFields]) (by simp [effectFields]) (by simp [effectFields])

/-- Every step keeps the cut pitches rising, on through the feed events that wait. -/
theorem step_pitchesRise (hs : RisesYoung s) (hrun : RunFits s) (hmark : FiredAtMark s) (hstep : step s = .next t) :
    PitchesRise t := by
  have hreply (place : Option (List Byte × Nat)) (r : Reply) (v : State) : Thins v (giveReply place r v) :=
    thins_of_touches (giveReply_touches place r v)
  rcases step_cases hstep with ⟨c, q, -, hdoes⟩ | ⟨-, hticks⟩
  · have hqueue : Thins s { s with pending := q } := thins_of_touches (setQueue_touches q s)
    have heffect := pitchesRise_effect c { s with pending := q } (hqueue.risesYoung hs)
      (RunLaw.runFits_of_touches (setQueue_touches q s) (h := hrun)) hmark
    cases hdoes with
    | nothing => exact hqueue.pitchesRise hs.1
    | quiet _ => exact heffect
    | refused place r => exact (hqueue.trans (hreply place r _)).pitchesRise hs.1
    | answered place r _ => exact (hreply place r _).pitchesRise heffect
  · refine Thins.pitchesRise ?_ hs.1
    cases hticks with
    | held _ => exact .refl s
    | station e v _ hc => exact thins_taken (taken_takeDue hc) hs
    | passes _ _ => exact thins_of rfl rfl (.refl _) (.refl _)
    | timed e v _ _ _ hv =>
      rcases hv with rfl | rfl
      · exact thins_takeTime e _
      · exact (thins_setFree _ s).trans (thins_takeTime e (bumpFree s))

end Sys2Proof.PitchLaw

namespace Sys2Proof.StepLaws

open Sys2Proof.Machine

set_option Elab.async false

/-- Settles O58: each law is kept by every step, as its own part says. -/
theorem stepFits : Obligations.StepFits :=
  ⟨fun _ _ h hstep => RunLaw.step_runFits h hstep,
    fun _ _ h hstep => TrimLaw.step_trimFits h hstep,
    fun _ _ h hstep => ⟨Capacities.step_fits h.1 hstep, HeldStates.step_heldFits h.2 hstep⟩,
    fun _ _ _ _ hpend h hd hfired hclose hstep => Outfeed.step_room hpend h hd hfired hclose hstep,
    fun _ _ h hstep => Outfeed.step_boxFits h hstep,
    fun _ _ h hstep => MarkLaw.step_firedAtMark h hstep,
    fun _ _ h hrun hmark hyoung hstep => PitchLaw.step_pitchesRise ⟨h, hyoung⟩ hrun hmark hstep⟩

end Sys2Proof.StepLaws
end
